-- ==== Sys2Proof/Word.lean ====
section
/-!
DEFINITION. The words of the PRJ-2048 and the numbers that name its places (R5, R6, R8, R13, R107).
Nothing here depends on the machine's state.
-/
namespace Sys2Proof

/-- A general register, an address, a memory word (R13, R15). -/
abbrev Word := BitVec 64

/-- A byte of memory. -/
abbrev Byte := BitVec 8

/-- A 512-bit vector register (R13, R150). -/
abbrev VecWord := BitVec 512

/-- A 128-bit label register (R13). -/
abbrev LabelWord := BitVec 128

/-- A global logical core number, 0 to 2,047 (R8). -/
abbrev CoreId := BitVec 11

/-- A slot of a core, 0 to 15; 15 is the forager (R8, R10). -/
abbrev SlotId := BitVec 4

/-- A comb of the package: die in [7:6] and Hilbert index in [5:0] (R69). -/
abbrev CombId := BitVec 8

/-- The forager's slot number (R10). -/
def forager : SlotId := 15#4

end Sys2Proof
end

