-- ==== Sys2Proof/Syntax.lean ====
section
/-!
DEFINITION. The instructions and events of spec/opcode_table.json, one constructor of `Instr` for each row, and the
types of their operands. Meaning is in Sys2Proof/Machine alone; encodings are in Sys2Proof/Decode.lean.
-/
namespace Sys2Proof

/-- Lane types of the vector forms (R117, R150). -/
inductive VType where
  | i8 | z8 | mk8 | i32 | z32 | f32 | bf16 | i64 | z64 | f64
  deriving DecidableEq, Repr

/-- Tile formats of the matrix forms (R120). -/
inductive Fmt where
  | mk8 | bf16 | f32 | f64 | i8
  deriving DecidableEq, Repr

/-- Scopes of atomics and fences (R114). -/
inductive Scope where
  | slot | core | comb | die | pkg | sys
  deriving DecidableEq, Repr

/-- Orders of atomics (R114). -/
inductive Order where
  | rlx | acq | rel | ar
  deriving DecidableEq, Repr

/-- Rounding modes of `vcvt` (R21). -/
inductive RMode where
  | rne | rz | rd | ru | rna
  deriving DecidableEq, Repr

/-- Conditions of `vcmp` (R119, R158). -/
inductive CmpCond where
  | eq | ne | lt | le
  deriving DecidableEq, Repr

/-- The two placements of a chain (R212). -/
inductive ChainForm where
  | spread | folded
  deriving DecidableEq, Repr

/-- Operations of the atomics, by their codes 0 to 9 (R115). -/
inductive AmoOp where
  | swap | add | and | or | xor | min | max | minn | maxn | cas
  deriving DecidableEq, Repr

/-- A register that can be pending (R133, R152). -/
inductive RegName where
  | x (n : BitVec 5)
  | v (n : BitVec 4)
  | m (n : BitVec 3)
  | lb (n : BitVec 3)
  deriving DecidableEq, Repr

/-- What an access does to memory (R306, R308: 0 load, 1 store, 2 fetch, 3 RMW). -/
inductive Access where
  | load | store | fetch | rmw
  deriving DecidableEq, Repr

/-- The state of a line in a core (R79). -/
inductive LineState where
  | m | o | e | s | i
  deriving DecidableEq, Repr

/-- An owner's answer to a forward (R82): `none` when it holds no copy, else whether it keeps an O or S copy or becomes I. -/
inductive OwnerReply where
  | noCopy | keptO | keptS | gaveUp
  deriving DecidableEq, Repr

/-- A line of memory as caches tag it: tenant and address bits [39:7] (R73, R79). -/
structure LineTag where
  tenant : BitVec 16
  line : BitVec 33
  deriving DecidableEq, Repr

/-- A chain: its tenant, its CHAIN object index and its first core (R233). -/
structure ChainRef where
  tenant : BitVec 16
  index : BitVec 16
  first : CoreId
  deriving DecidableEq, Repr

/-- What a hop message carries of its thread (R93). -/
structure HopState where
  pc : Word
  priv : BitVec 2
  fflags : BitVec 5
  fewlim : Word
  xs : Vector Word 14
  lbs : Vector LabelWord 4
  deriving DecidableEq, Repr

/-- What a message carries beside its payload words. -/
inductive MsgBody where
  /-- A message of R275 with four payload words. -/
  | plain
  /-- A hop (R93); one to a home comb whose router has still to name the core (R94). -/
  | hop (h : HopState) (home : Option CombId)
  /-- A stage-start message for stage `stage` of a chain (R212, R233). -/
  | stage (chain : ChainRef) (stage : BitVec 2)
  deriving DecidableEq, Repr

/-- Who sent a message (R278); `engine` for a bounce record of a message engine (R302). -/
inductive Origin where
  | slot | host | controller | engine
  deriving DecidableEq, Repr

/-- An active message (R207, R208, R275): destination word, sender word, tenant, class and payload. -/
structure Message where
  dest : Word
  sender : Word
  tenant : BitVec 16
  cls : BitVec 3
  origin : Origin
  payload : Vector Word 4
  body : MsgBody
  deriving DecidableEq, Repr

/-- A one-sided packet from a peer endpoint (R222, R275): sending endpoint and tenant, virtual address, length or data,
and, for an atomic, its operation, operand and expected value. -/
structure Packet where
  source : BitVec 10
  tenant : BitVec 16
  seq : Nat
  addr : Word
  len : BitVec 13
  data : List Byte
  full : List Bool
  op : AmoOp
  operand : Word
  expected : Word
  deriving DecidableEq, Repr

/-- A management request (R284): who asks, its code, tag, argument, nonce and time. -/
structure Request where
  source : BitVec 10
  code : Nat
  tag : BitVec 16
  arg : BitVec 32
  nonce : BitVec 384
  time : Word
  deriving DecidableEq, Repr

/-- One constructor for each row of spec/opcode_table.json. Instructions carry the fields of their words; an event
carries none: its operands are in the state's `args` when it comes about. Register operands are plain numbers: X registers 5 bits, V registers 4, mask, label, ring and mailbox
registers 3, accumulators 2 (R110). -/
inductive Instr where
  -- Loads (R134, R136)
  | lb (d s : BitVec 5) (i : BitVec 12)
  | lh (d s : BitVec 5) (i : BitVec 12)
  | lw (d s : BitVec 5) (i : BitVec 12)
  | ld (d s : BitVec 5) (i : BitVec 12)
  | lbz (d s : BitVec 5) (i : BitVec 12)
  | lhz (d s : BitVec 5) (i : BitVec 12)
  | lwz (d s : BitVec 5) (i : BitVec 12)
  | ldAq (d s : BitVec 5) (i : BitVec 12)
  -- Stores (R134, R136)
  | sb (i : BitVec 12) (s t : BitVec 5)
  | sh (i : BitVec 12) (s t : BitVec 5)
  | sw (i : BitVec 12) (s t : BitVec 5)
  | sd (i : BitVec 12) (s t : BitVec 5)
  | sdRl (i : BitVec 12) (s t : BitVec 5)
  -- Register-immediate and unary forms (R137, R138)
  | addi (d s : BitVec 5) (i : BitVec 12)
  | slli (d s : BitVec 5) (h : BitVec 6)
  | clz (d s : BitVec 5)
  | ctz (d s : BitVec 5)
  | popc (d s : BitVec 5)
  | sextw (d s : BitVec 5)
  | zextw (d s : BitVec 5)
  | rev8 (d s : BitVec 5)
  | slti (d s : BitVec 5) (i : BitVec 12)
  | sltni (d s : BitVec 5) (i : BitVec 12)
  | xori (d s : BitVec 5) (i : BitVec 12)
  | srli (d s : BitVec 5) (h : BitVec 6)
  | srai (d s : BitVec 5) (h : BitVec 6)
  | ori (d s : BitVec 5) (i : BitVec 12)
  | andi (d s : BitVec 5) (i : BitVec 12)
  -- Register-register forms (R139)
  | add (d s t : BitVec 5)
  | sll (d s t : BitVec 5)
  | slt (d s t : BitVec 5)
  | sltn (d s t : BitVec 5)
  | xor (d s t : BitVec 5)
  | srl (d s t : BitVec 5)
  | or (d s t : BitVec 5)
  | and (d s t : BitVec 5)
  | sub (d s t : BitVec 5)
  | sra (d s t : BitVec 5)
  | orn (d s t : BitVec 5)
  | andn (d s t : BitVec 5)
  | min (d s t : BitVec 5)
  | max (d s t : BitVec 5)
  | minn (d s t : BitVec 5)
  | maxn (d s t : BitVec 5)
  -- Multiply and divide (R141)
  | mul (d s t : BitVec 5)
  | mulh (d s t : BitVec 5)
  | mulhn (d s t : BitVec 5)
  | div (d s t : BitVec 5)
  | divn (d s t : BitVec 5)
  | rem (d s t : BitVec 5)
  | remn (d s t : BitVec 5)
  -- Upper, pc-relative, jumps and branches (R140, R142, R143)
  | lhi (d : BitVec 5) (i : BitVec 20)
  | apc (d : BitVec 5) (i : BitVec 20)
  | jal (d : BitVec 5) (i : BitVec 20)
  | jalr (d s : BitVec 5) (i : BitVec 12)
  | beq (i : BitVec 12) (s t : BitVec 5)
  | bne (i : BitVec 12) (s t : BitVec 5)
  | blt (i : BitVec 12) (s t : BitVec 5)
  | bge (i : BitVec 12) (s t : BitVec 5)
  | bltn (i : BitVec 12) (s t : BitVec 5)
  | bgen (i : BitVec 12) (s t : BitVec 5)
  -- Fences and atomics (R198, R199, R195)
  | fence (c : Scope)
  | fenceK (c : Scope)
  | amoswap (d : BitVec 5) (c : Scope) (s t : BitVec 5) (o : Order)
  | amoadd (d : BitVec 5) (c : Scope) (s t : BitVec 5) (o : Order)
  | amoand (d : BitVec 5) (c : Scope) (s t : BitVec 5) (o : Order)
  | amoor (d : BitVec 5) (c : Scope) (s t : BitVec 5) (o : Order)
  | amoxor (d : BitVec 5) (c : Scope) (s t : BitVec 5) (o : Order)
  | amomin (d : BitVec 5) (c : Scope) (s t : BitVec 5) (o : Order)
  | amomax (d : BitVec 5) (c : Scope) (s t : BitVec 5) (o : Order)
  | amominn (d : BitVec 5) (c : Scope) (s t : BitVec 5) (o : Order)
  | amomaxn (d : BitVec 5) (c : Scope) (s t : BitVec 5) (o : Order)
  | amocas (d : BitVec 5) (c : Scope) (s t : BitVec 5) (o : Order)
  -- Full/empty forms (R146)
  | ldfe (d s : BitVec 5) (i : BitVec 12)
  | ldff (d s : BitVec 5) (i : BitVec 12)
  | ldfx (d s : BitVec 5) (i : BitVec 12)
  | sdef (i : BitVec 12) (s t : BitVec 5)
  | sdff (i : BitVec 12) (s t : BitVec 5)
  | fempty (s : BitVec 5) (i : BitVec 12)
  | fstate (d s : BitVec 5) (i : BitVec 12)
  -- Vector memory forms (R154)
  | vld (d : BitVec 4) (s : BitVec 5) (t : VType) (m : BitVec 3)
  | vlds (d : BitVec 4) (s g : BitVec 5) (t : VType) (m : BitVec 3)
  | vldx (d : BitVec 4) (s : BitVec 5) (v : BitVec 4) (t : VType) (m : BitVec 3)
  | vst (d : BitVec 4) (s : BitVec 5) (t : VType) (m : BitVec 3)
  | vsts (d : BitVec 4) (s g : BitVec 5) (t : VType) (m : BitVec 3)
  | vstx (d : BitVec 4) (s : BitVec 5) (v : BitVec 4) (t : VType) (m : BitVec 3)
  -- Vector arithmetic (R156)
  | vadd (d a b : BitVec 4) (t : VType) (m : BitVec 3)
  | vsub (d a b : BitVec 4) (t : VType) (m : BitVec 3)
  | vmul (d a b : BitVec 4) (t : VType) (m : BitVec 3)
  | vdiv (d a b : BitVec 4) (t : VType) (m : BitVec 3)
  | vmin (d a b : BitVec 4) (t : VType) (m : BitVec 3)
  | vmax (d a b : BitVec 4) (t : VType) (m : BitVec 3)
  | vfma (d a b : BitVec 4) (t : VType) (m : BitVec 3)
  | vfms (d a b : BitVec 4) (t : VType) (m : BitVec 3)
  -- Vector logic, shifts, compares, moves and masks (R157 to R163)
  | vand (d a b : BitVec 4) (t : VType) (m : BitVec 3)
  | vor (d a b : BitVec 4) (t : VType) (m : BitVec 3)
  | vxor (d a b : BitVec 4) (t : VType) (m : BitVec 3)
  | vshl (d a b : BitVec 4) (t : VType) (m : BitVec 3)
  | vshr (d a b : BitVec 4) (t : VType) (m : BitVec 3)
  | vsra (d a b : BitVec 4) (t : VType) (m : BitVec 3)
  | vcmp (c : CmpCond) (n : BitVec 3) (a b : BitVec 4) (t : VType) (m : BitVec 3)
  | vsel (d a b : BitVec 4) (t : VType) (k : BitVec 3)
  | vperm (d a b : BitVec 4) (t : VType) (m : BitVec 3)
  | vslide (d a : BitVec 4) (g : BitVec 5) (t : VType) (m : BitVec 3)
  | vabs (d a : BitVec 4) (t : VType) (m : BitVec 3)
  | vneg (d a : BitVec 4) (t : VType) (m : BitVec 3)
  | vsqrt (d a : BitVec 4) (t : VType) (m : BitVec 3)
  | vredsum (d : BitVec 5) (a : BitVec 4) (t : VType) (m : BitVec 3)
  | vredmax (d : BitVec 5) (a : BitVec 4) (t : VType) (m : BitVec 3)
  | vredmin (d : BitVec 5) (a : BitVec 4) (t : VType) (m : BitVec 3)
  | vbcast (d : BitVec 4) (s : BitVec 5) (t : VType) (m : BitVec 3)
  | vmvx (d : BitVec 5) (a : BitVec 4) (t : VType)
  | mand (d a b : BitVec 3)
  | mor (d a b : BitVec 3)
  | mnot (d a : BitVec 3)
  | vpopm (d : BitVec 5) (a : BitVec 3)
  | vcvt (d a : BitVec 4) (src t : VType) (rm : RMode) (m : BitVec 3)
  -- Matrix forms (R165, R172 to R174)
  | mmac (z : BitVec 2) (a b : BitVec 3) (f : Fmt) (pa pb ps : Bool)
  | mmacs (z : BitVec 2) (a b : BitVec 3) (s : BitVec 5) (f : Fmt) (pa pb ps : Bool)
  | mzero (z : BitVec 2)
  | mldz (s : BitVec 5) (z : BitVec 2) (f : Fmt)
  | mstz (s : BitVec 5) (z : BitVec 2) (f : Fmt)
  | mscl (a : BitVec 3)
  | macq (z : BitVec 2)
  | mrel (z : BitVec 2)
  | matrixOpComplete
  -- Rings and repetition (R169, R175 to R177)
  | rgset (g : BitVec 3) (s : BitVec 5)
  | rgwf (g : BitVec 3)
  | rgwe (g : BitVec 3)
  | rghd (g : BitVec 3)
  | rgtl (g : BitVec 3)
  | rgrd (d : BitVec 5) (g : BitVec 3)
  | rpbeg
  | rpend
  | rpgo (s : BitVec 5) (t : BitVec 4)
  | rpgoa (s : BitVec 5) (t : BitVec 4)
  | rpjoin
  | bufferIssue
  | runaheadJoin
  -- Label forms (R184 to R189)
  | lbroot (d : BitVec 3) (s : BitVec 5)
  | lbkid (d a : BitVec 3) (t : BitVec 5)
  | lbapp (d a : BitVec 3)
  | lbins (d a : BitVec 3)
  | lbdel (a : BitVec 3)
  | lbanc (d : BitVec 5) (a b : BitVec 3)
  | lbcmp (d : BitVec 5) (a b : BitVec 3)
  | lbpar (d a : BitVec 3)
  | lbdep (d : BitVec 5) (a : BitVec 3)
  | lbres (d : BitVec 5) (a : BitVec 3)
  | lbmov (d a b : BitVec 3)
  | lbfix (d : BitVec 3)
  | lbcp (d a : BitVec 3)
  | lblm (d : BitVec 3) (s : BitVec 5)
  | lbsm (s : BitVec 5) (b : BitVec 3)
  | lbxg (d : BitVec 5) (a : BitVec 3) (h : BitVec 1)
  | lbld (d : BitVec 5) (a : BitVec 3) (i : BitVec 12)
  | lbst (i : BitVec 12) (a : BitVec 3) (t : BitVec 5)
  -- Key scans and sparse forms (R191 to R194)
  | kfirst (d : BitVec 5) (a : BitVec 3) (k : BitVec 12)
  | knext (d : BitVec 5) (a : BitVec 3) (k : BitVec 12)
  | kredI32 (d : BitVec 5) (c : BitVec 3) (k : BitVec 12)
  | kredI64 (d : BitVec 5) (c : BitVec 3) (k : BitVec 12)
  | kredF32 (d : BitVec 5) (c : BitVec 3) (k : BitVec 12)
  | kredF64 (d : BitVec 5) (c : BitVec 3) (k : BitVec 12)
  | kredComplete
  | skey (d : BitVec 3) (a : BitVec 5) (k : BitVec 12)
  | sld (d : BitVec 5) (a : BitVec 3) (k : BitVec 12)
  | sst (d : BitVec 5) (a : BitVec 3) (k : BitVec 12)
  | sadd (d : BitVec 5) (a : BitVec 3) (k : BitVec 12)
  | scoord (d : BitVec 5) (a : BitVec 3) (k : BitVec 12)
  -- Key engines and prefix caches (R290, R49, R45)
  | keyEngineAnswer
  | heldKeyedRequest
  | prefixInvalidate
  | prefixEntryActivate
  -- Tasks, hops and gangs (R103, R201 to R206)
  | spawn (s : BitVec 5) (i : BitVec 12)
  | sret
  | sync (s : BitVec 5)
  | yield
  | hop (s : BitVec 5)
  | hopk (a : BitVec 3) (k : BitVec 12)
  | ganggo (s : BitVec 5)
  | gbar (n : BitVec 2)
  | stop
  | gangAdmission
  -- Messages and mailboxes (R208 to R210)
  | msend (s t : BitVec 5) (c : BitVec 3)
  | msendnb (d s t : BitVec 5) (c : BitVec 3)
  | mdone
  | mbput (b : BitVec 3) (t : BitVec 5) (w : BitVec 2)
  | mbget (d : BitVec 5) (b : BitVec 3) (w : BitVec 2)
  -- Chains (R212, R214)
  | chgo (s t : BitVec 5) (f : ChainForm)
  | get (d : BitVec 5) (i : BitVec 12)
  | put (s : BitVec 5)
  | vget (d : BitVec 4) (i : BitVec 12)
  | vput (a : BitVec 4)
  | chend
  | stageStart
  -- Movement engine (R217 to R223)
  | mvcp (d : BitVec 5) (c : BitVec 2) (s t : BitVec 5)
  | mv2d (d : BitVec 5) (c : BitVec 2) (s t : BitVec 5)
  | mvgth (d : BitVec 5) (c : BitVec 2) (s t : BitVec 5)
  | mvsct (d : BitVec 5) (c : BitVec 2) (s t : BitVec 5)
  | mvfill (d : BitVec 5) (c : BitVec 2) (s t : BitVec 5)
  | mvget (d : BitVec 5) (c : BitVec 2) (s t : BitVec 5)
  | mvput (d : BitVec 5) (c : BitVec 2) (s t : BitVec 5)
  | mvamo (d : BitVec 5) (c : BitVec 2) (s t : BitVec 5)
  | mvring (d : BitVec 5) (c : BitVec 2) (s t : BitVec 5)
  | sdense (d : BitVec 5) (c : BitVec 2) (s t : BitVec 5)
  | ssparse (d : BitVec 5) (c : BitVec 2) (s t : BitVec 5)
  | mvwait (c : BitVec 2) (s : BitVec 5)
  | mvid (d : BitVec 5) (c : BitVec 2)
  | transferComplete
  | mvringSlotFree
  -- System forms (R225 to R233)
  | ecall
  | ebreak
  | xret
  | wfm
  | fenceI
  | srd (d : BitVec 5) (r : BitVec 12)
  | swr (d s : BitVec 5) (r : BitVec 12)
  | sset (d s : BitVec 5) (r : BitVec 12)
  | sclr (d s : BitVec 5) (r : BitVec 12)
  | tlbinv (s t : BitVec 5)
  | dtwr (s t : BitVec 5)
  | dtrd (s t : BitVec 5)
  | wake (s : BitVec 5)
  | mbind (s : BitVec 5) (c : BitVec 3)
  | chsw (s : BitVec 5) (f : ChainForm)
  | pshare (d s t : BitVec 5)
  -- System register writes and splits (R227, R235, R263)
  | systemRegisterWrite
  | sramcfgWrite
  | splitTakesEffect
  | partitionRegisterWrite
  -- Traps, timers and waits
  | chainStopMessage
  | asyncTrap
  | timer
  | managementNotice
  | waitLimit
  | resultUsable
  | pageWalk
  | secondStageResume
  | secondStageHoldTimeout
  -- Work and messages that reach a slot
  | launch
  | hopArrival
  | dequePop
  | steal
  | messageArrival
  | messageDelivery
  | wakeMessage
  | halt
  | slotResume
  | stopRequest
  | convert
  -- Shootdowns and coherence (R230, R81 to R85)
  | shootdown
  | shootdownAck
  | rds
  | rdx
  | upg
  | wb
  | forward
  | ownerAnswer
  | invalidation
  | invalidationAck
  | grant
  | discoveryAnswer
  | directoryDrop
  | lineEviction
  | powerGate
  | answerTimeout
  | coreDeclaredDead
  | deadCoreRecord
  -- The partition scheduler (R266 to R274, R346)
  | commit
  | saveCore
  | restoreCore
  | clearForwarding
  | freeze
  | resume
  | tenantDeadline
  | budgetExhausted
  | slotHandover
  | forwardingExpiry
  -- Hosts and the fabric (R277, R222, R348)
  | hostBatchTimeout
  | oneSidedRead
  | oneSidedWrite
  | remoteAtomic
  | fabricReply
  | fabricResendTimeout
  | packetUndeliverable
  | linkStateChange
  -- Start-up and management (R282 to R288, R354)
  | powerOn
  | attestation
  | sensorRead
  | logRead
  | timeExchange
  | commitUpdate
  | sensorAboveLimit
  -- Further events
  | discoveryProbe
  | neighbourQueueArrival
  | linkLevelRetry
  | packetAcknowledgement
  | powerUpComplete
  | illegalInstruction
  | instructionFetchFault
  deriving DecidableEq, Repr

end Sys2Proof
end

