-- ==== Sys2Proof/Machine/State.lean ====
section
/-!
DEFINITION. The state of a PRJ-2048 package: every piece of state the spec names, as plain data, and the state right after
reset. INVENTORY.md lists each field with the rule that names it and its reset value.
-/
namespace Sys2Proof.Machine

/-- Why the machine stops. -/
inductive Fault where
  /-- Raised by an access of H, or of the package itself, to a machine-physical address whose bits [39:37] are not 0: the
  layout of R72 has no such address. Safe. -/
  | noSuchAddress (addr : Nat)
  deriving DecidableEq, Repr

/-- Why an instruction has no meaning. -/
inductive Refusal where
  /-- An arm of `exec` not yet written. Safe: nothing happens. -/
  | notModelled (mnemonic : String)
  deriving DecidableEq, Repr

/-- Privilege levels (R16), in increasing order. -/
inductive Level where
  | u | s | h
  deriving DecidableEq, Repr

/-- The operands of an event (DESIGN CHOICE, log 1): an event of the opcode table has no encoding, so what it concerns stands beside it. Each
event's meaning says which of these it reads. -/
structure EventArgs where
  core : CoreId := 0
  slot : SlotId := 0
  reg : RegName := .x 0
  word : Word := 0
  acc : Access := .load
  tag : LineTag := { tenant := 0, line := 0 }
  inc : BitVec 4 := 0
  flag : Bool := false
  comb : CombId := 0
  owner : Option CoreId := none
  st : LineState := .i
  reply : OwnerReply := .noCopy
  ch : BitVec 2 := 0
  sr : BitVec 12 := 0
  die : BitVec 2 := 0
  chain : ChainRef := { tenant := 0, index := 0, first := 0 }
  link : BitVec 2 := 0
  msg : Option Message := none
  pkt : Option Packet := none
  num : Nat := 0
  entry : BitVec 4 := 0
  tenant : BitVec 16 := 0
  endpoint : BitVec 10 := 0
  data : List Byte := []
  full : List Bool := []
  code : BitVec 16 := 0
  insn : BitVec 32 := 0
  /-- The packet before it in its stream that its source still keeps (R348); or the job whose write is held (R313). -/
  after : Option Nat := none
  /-- The comb of this core held it while the core was gated (R304). -/
  held : Option CoreId := none
  deriving DecidableEq, Repr

/-- An event with its operands. -/
structure Event where
  kind : Instr
  args : EventArgs
  deriving DecidableEq, Repr

/-- The states of a slot (R87), but for `stopped`, which `Slot.stopped` holds over the state kept meanwhile. -/
inductive SlotState where
  | idle | run | memwait | fewait | xlwait | msgwait | engwait | joinwait | barwait
  deriving DecidableEq, Repr

/-- The banked registers of one level (R16). -/
structure Bank where
  xpc : Word
  xcause : Word
  xval : Word
  xvec : Word
  xscratch : Word
  deriving DecidableEq, Repr

/-- A full/empty word: of flat memory by machine-physical address, of a core's scratchpad by offset, or of a mailbox (R144, R210). -/
inductive WordLoc where
  | mem (addr : Nat)
  | spad (core : CoreId) (offset : Nat)
  | mail (core : CoreId) (box : BitVec 3) (word : BitVec 2)
  deriving DecidableEq, Repr

/-- Where an access goes: its place, the line that tags it, and its home. -/
structure Loc where
  place : WordLoc
  tag : LineTag
  home : CombId
  deriving DecidableEq, Repr

/-- The word that a full/empty wait list belongs to (R144, R311): of flat memory by the tenant and guest-physical line that tag it and
its offset in the line, of a core's scratchpad, or of a mailbox. -/
inductive WaitPoint where
  | line (tag : LineTag) (offset : Nat)
  | spad (core : CoreId) (offset : Nat)
  | mail (core : CoreId) (box : BitVec 3) (word : BitVec 2)
  deriving DecidableEq, Repr

/-- The word of a location, as its wait lists know it (R144, R311). -/
def Loc.point (l : Loc) : WaitPoint :=
  match l.place with
  | .mem a => .line l.tag (a % 128)
  | .spad c o => .spad c o
  | .mail c b w => .mail c b w

/-- What a slot in `engwait` waits for (R87). -/
inductive EngineWait where
  | accumulator (z : BitVec 2)
  | release (z : BitVec 2)
  | buffer
  | sequence
  | join
  | ringFilled (g : BitVec 3)
  | ringFree (g : BitVec 3)
  | ringQuiet (g : BitVec 3)
  | matrixQueue (rings : List (BitVec 3))
  | image
  | channelRoom (ch : BitVec 2)
  | transfer (ch : BitVec 2) (id : BitVec 32)
  | kred
  /-- Words to pop from, or room to push to, link `l` of a chain (R214). -/
  | link (chain : ChainRef) (l : BitVec 2) (pop : Bool) (need : Nat)
  | chainSwitch (chain : ChainRef)
  /-- The slot has had the turn at which it hands over, and stops there until it can (R269). -/
  | handover
  deriving DecidableEq, Repr

/-- What a slot waits for, beside its state (R87). -/
inductive Wait where
  | none
  /-- `memwait`: a register an instruction names is pending (R133). -/
  | register (r : RegName)
  /-- `memwait`: room among the 128 outstanding accesses (R133). -/
  | outstanding (room : Nat)
  /-- `memwait`: every earlier access performed and every pending register usable (R202, R293). -/
  | earlier
  /-- `memwait`: every earlier access performed (R198, R199, R204, R226, R230). -/
  | accesses
  /-- `memwait`: room in the network interface (R208). -/
  | interface
  /-- `memwait`: acknowledgements of a shootdown (R230). -/
  | acks (id : Nat)
  /-- `memwait`: a keyed form held at a region while an event of it goes on (R49). -/
  | region (region : BitVec 12)
  /-- `memwait`: an access held at the second stage since a cycle (R313). -/
  | secondStage (gpa : Nat) (since : Nat)
  /-- `fewait`: on the list of a full/empty word (R144). -/
  | word (loc : WaitPoint)
  /-- `fewait`: the folded slot while no stage can advance (R216). -/
  | stages (chain : ChainRef)
  /-- `memwait`: a page walk for an access of the slot's next instruction (R66, R67). -/
  | walk (va : Word) (acc : Access)
  /-- `xlwait`: the virtual address and kind of the access (R76). -/
  | translation (va : Word) (acc : Access)
  /-- `engwait` (R87). -/
  | engine (e : EngineWait)
  /-- `joinwait`: the frame's address (R103). -/
  | frame (addr : Word)
  /-- `barwait`: the gang and its barrier (R100). -/
  | barrier (gang : Nat) (n : BitVec 2)
  deriving DecidableEq, Repr

/-- A result or access in flight (R133): the register it makes pending, `x 0` for none, and whether it counts toward the 128
outstanding accesses. -/
structure Flight where
  reg : RegName
  access : Bool
  /-- The line whose grant it waits for, if its line was not in the core (R81). -/
  line : Option LineTag
  /-- Its number among the slot's flights. -/
  no : Nat
  deriving DecidableEq, Repr

/-- Registers that belong to a slot and a tenant rather than to the work (R88; DEDUCED, log 5). -/
structure TenantRegs where
  tenant : BitVec 16
  bankS : Bank
  tcmp : Word
  xlroot : Word
  objbase : Word
  objlim : Word
  cmtab : Word
  frbase : Word
  deriving DecidableEq, Repr

/-- A fault that an access has reported after its instruction: the number of the access, lower for earlier ones, the pc of the instruction,
cause and xval (R293, R344). -/
structure EarlierFault where
  no : Nat
  pc : Word
  cause : BitVec 8
  xval : Word
  deriving DecidableEq, Repr

/-- One slot of a core (R13, R87, R88, R234). -/
structure Slot where
  x : Vector Word 32
  v : Vector VecWord 16
  m : Vector Word 8
  lb : Vector LabelWord 8
  pc : Word
  priv : Level
  light : Bool
  ie : Bool
  stage : BitVec 2
  form : Option ChainForm
  chain : Option ChainRef
  /-- Trap handlers entered from a stage and not yet left (R301). -/
  nesting : Nat
  /-- A cause that the slot takes as soon as it issues again (R293, R300, R310, R322): code and xval. -/
  cause : Option (BitVec 8 × Word)
  /-- The fault that an earlier access has reported, the earliest of several; it counts while `cause` is set (R293, R344). -/
  earlier : Option EarlierFault
  /-- An xval that stands for an uncorrectable word of a table, and the guest-physical address of that word, for the log (R354). -/
  badTable : Option (Word × Nat)
  bankS : Bank
  bankH : Bank
  tcmp : Word
  fewlim : Word
  mfmt : BitVec 4
  fflags : BitVec 5
  xlroot : Word
  objbase : Word
  objlim : Word
  cmtab : Word
  frbase : Word
  tenant : BitVec 16
  inc : BitVec 16
  state : SlotState
  wait : Wait
  stopped : Bool
  /-- The cycle at which it was stopped (R322). -/
  stoppedAt : Nat
  flights : List Flight
  flightNo : Nat
  yielded : Bool
  /-- The first cycle at which the slot may issue: two after its last issue (R91). -/
  issueAt : Nat
  /-- The cycle at which a waiting handler slot takes the message that is there for it: the next after both were (R96, R209). -/
  deliverAt : Option Nat
  handler : Option (BitVec 3)
  pendStop : Bool
  pendTimer : Bool
  pendNotice : Option Word
  gang : Option (Nat × Nat)
  /-- What the slot keeps for tenants it has worked for before (R88). -/
  others : List TenantRegs
  deriving DecidableEq, Repr

/-- A line in a core's L1D: its home, its state and the valid bits of its four 32-byte sectors (R77, R79). -/
structure CacheLine where
  tag : LineTag
  home : CombId
  state : LineState
  sectors : BitVec 4
  deriving DecidableEq, Repr

/-- A core's request in flight to a home (R81). -/
inductive LineWant where
  | read | write | upgrade
  deriving DecidableEq, Repr

structure Miss where
  tag : LineTag
  want : LineWant
  home : CombId
  sectors : BitVec 4
  deriving DecidableEq, Repr

/-- A first-stage TLB entry (R67): tags, the leaf as it stood, and the page's size in bits. -/
structure TlbEntry where
  tenant : BitVec 16
  asid : BitVec 16
  page : Nat
  bits : Nat
  pte : Word
  deriving DecidableEq, Repr

/-- A word of the instruction cache, by tenant and guest-physical address (R10, R73, R226). -/
structure FetchedWord where
  tenant : BitVec 16
  addr : Nat
  word : BitVec 32
  deriving DecidableEq, Repr

/-- A cached prefix map entry of a region at a generation (R44). -/
structure PrefixLine where
  tenant : BitVec 16
  region : BitVec 12
  gen : BitVec 32
  entry : Nat
  deriving DecidableEq, Repr

/-- A ring slot that has left the filled range (R170): which slot of the core advanced head, and the number of its first flight after that. -/
structure HeldSlot where
  index : Nat
  slot : SlotId
  before : Nat
  deriving DecidableEq, Repr

/-- A ring register that is set (R167). `held` lists the slots that left the filled range and are not yet free, oldest first (R170). -/
structure Ring where
  base : Nat
  n : Nat
  size : Nat
  head : Nat
  tail : Nat
  filled : Nat
  held : List HeldSlot
  deriving DecidableEq, Repr

/-- A queued matrix operation (R171), with the ring slots it bound. -/
inductive MatrixForm where
  | mac (f : Fmt) (a b : BitVec 3 × Nat) (scale : Option (BitVec 3 × Nat)) (bitmap : Word)
  | zero
  /-- An image at a virtual address, and the word of its form (R174, R308). -/
  | load (f : Fmt) (va : Word) (insn : BitVec 32)
  | store (f : Fmt) (va : Word) (insn : BitVec 32)
  deriving DecidableEq, Repr

structure MatrixOp where
  slot : SlotId
  z : BitVec 2
  form : MatrixForm
  deriving DecidableEq, Repr

/-- The phase of the repetition buffer for its holder (R175, R176, R299). -/
inductive RepPhase where
  | recording | ended | running | suspended | finished
  deriving DecidableEq, Repr

structure RepBuffer where
  holder : Option SlotId
  waiters : List SlotId
  words : List Instr
  phase : RepPhase
  count : BitVec 32
  stride : BitVec 4
  iter : Nat
  pos : Nat
  /-- The first cycle at which it may issue: at most one instruction a cycle (R176). -/
  issueAt : Nat
  /-- The pc of the `rpgo` or `rpgoa` that runs or suspended the sequence (R299). -/
  start : Word
  /-- Since when an access of its instruction is held at the second stage, and at which address (R313). -/
  heldSince : Option Nat
  heldAt : Nat
  deriving DecidableEq, Repr

/-- A store that a run-ahead buffers (R105): its virtual address, the place it had at issue, and the bytes to write, lowest first. -/
structure BufferedStore where
  va : Word
  loc : Loc
  bytes : List Byte
  /-- Its elements are narrower than a word, so that each covers part of one (R318). -/
  narrow : Bool
  /-- The form that it belongs to stores the whole of its sector (R77). -/
  covers : Bool
  /-- The word of its form (R308). -/
  insn : BitVec 32
  deriving DecidableEq, Repr

/-- A run-ahead in progress (R105, R177, R300): the checkpoint, the buffered stores with their count, and the flags its sequence
raised. -/
structure RunAhead where
  slot : SlotId
  x : Vector Word 32
  v : Vector VecWord 16
  m : Vector Word 8
  lb : Vector LabelWord 8
  fflags : BitVec 5
  stores : List BufferedStore
  storeCount : Nat
  /-- The word of the form counted last (R308). -/
  insn : BitVec 32
  seqFlags : BitVec 5
  deriving DecidableEq, Repr

/-- A mailbox word and its full/empty bit (R10, R210). -/
structure MailWord where
  word : Word
  full : Bool
  deriving DecidableEq, Repr

/-- The command forms of the copy engine (R127). -/
inductive MoveOp where
  | cp | twoD | gather | scatter | fill | remoteGet | remotePut | remoteAmo | ring | dense | sparse
  deriving DecidableEq, Repr

/-- A transfer of a channel (R218): its command, the forager as it issued it, and how far it has come. -/
structure Transfer where
  op : MoveOp
  id : BitVec 32
  desc : Vector Word 6
  arg : Word
  /-- Level and address space of the transfer's accesses (R217). -/
  agent : Slot
  /-- Units in all, and those done: words, elements of a box, and the steps after the copy of `mvring`. -/
  total : Nat
  done : Nat
  /-- The index of the present element (R221), or the tail slot that `mvring` fills (R223). -/
  index : Option Nat
  /-- Words on their way to or from the peer, with their bits (R222). -/
  got : List (Word × Bool)
  /-- Packets of it in the fabric whose answers are owed (R222). -/
  owed : List Nat
  /-- Stalled on a translation wait at this address (R224). -/
  stalled : Option (Word × Access)
  /-- Its access misses the TLB and waits for the walk (R66, R67). -/
  walking : Option (Word × Access)
  /-- Since when its access is held at the second stage, and at which address (R313). -/
  heldSince : Option Nat
  heldAt : Nat
  /-- Error code to end with as soon as it is performed (R315, R342). -/
  bad : Option Nat
  /-- The region entry of a box form as it stood at issue (R330). -/
  entry : BitVec 512
  deriving DecidableEq, Repr

/-- A copy channel (R218, R219, R315). -/
structure Channel where
  next : BitVec 32
  queue : List Transfer
  latch : Option (BitVec 32 × Nat)
  deriving DecidableEq, Repr

/-- A continuation record (R102). -/
structure Continuation where
  pc : Word
  frame : Word
  mfmt : Word
  slot : SlotId
  inc : BitVec 16
  tenant : BitVec 16
  priv : Level
  x3 : Word
  x4 : Word
  h : Vector Word 8
  deriving DecidableEq, Repr

/-- A forwarding entry of a vacated core (R273, R274): tenant, target, and the cycle at which it lapses. -/
structure Forwarding where
  tenant : BitVec 16
  package : BitVec 10
  core : CoreId
  expires : Nat
  deriving DecidableEq, Repr

/-- Power states of a core (R304). -/
inductive Power where
  | on | gated | waking
  deriving DecidableEq, Repr

/-- One core (R10, R11, R96, R97, R102, R234, R235). -/
structure Core where
  slots : Vector Slot 16
  spad : List Host.Cell
  spadEmpty : List Nat
  spadBad : List Nat
  split : BitVec 2
  splitWanted : Option (BitVec 2)
  lines : List CacheLine
  misses : List Miss
  icache : List FetchedWord
  tlb : List TlbEntry
  prefixes : List PrefixLine
  rings : Vector (Option Ring) 8
  za : Vector (BitVec 32768) 4
  /-- The owner of each accumulator with its incarnation (R165). -/
  zaOwner : Vector (Option (SlotId × BitVec 16)) 4
  zaTenant : Vector (Option (BitVec 16)) 4
  zaWaiters : Vector (List SlotId) 4
  matrix : List MatrixOp
  rep : RepBuffer
  ahead : Option RunAhead
  mail : Vector MailWord 32
  channels : Vector Channel 4
  inbox : List Message
  iface : List Message
  bindings : Vector (Option (SlotId × Word)) 8
  deque : List Continuation
  slstk : Word
  pbase : BitVec 11
  plen : BitVec 12
  partWrites : List (BitVec 12 × Word)
  lastIssued : SlotId
  /-- The first cycle at which the core may issue again: at most one instruction a cycle (R91). -/
  nextIssue : Nat
  /-- The first cycle at which the vector unit is free of the barrel's last vector form (R10, R176). -/
  vectorAt : Nat
  inc4 : BitVec 4
  dead : Bool
  power : Power
  heldAtComb : List Event
  forwarding : List Forwarding
  /-- Tenants for which the core is vacated, each with the package that its save names (R273). -/
  vacated : List (BitVec 16 × BitVec 10)
  lastTnow : List (Nat × Word)
  foldBank : Option ChainRef
  deriving DecidableEq, Repr

/-- Directory states of a line at its home (R80, R81). -/
inductive DirState where
  | u | s | o | x | inv | fwd | wbp | dsc
  deriving DecidableEq, Repr

/-- A request that a home serves or queues (R81). -/
structure LineRequest where
  core : CoreId
  inc : BitVec 4
  want : LineWant
  deriving DecidableEq, Repr

/-- A directory entry (R80 to R85): state, owner with its incarnation, sharer groups, the request served, the cores and combs
whose answers are owed, cores whose lost-copy flag is recorded, the queue, and the home's lost-line mark. -/
structure DirEntry where
  tag : LineTag
  home : CombId
  state : DirState
  owner : Option (CoreId × BitVec 4)
  sharers : BitVec 64
  serving : Option LineRequest
  owed : List CoreId
  owedCombs : List CombId
  foundOwner : Option (CoreId × OwnerReply)
  lost : List CoreId
  queue : List LineRequest
  /-- The cycle since which the home waits for a core's answer (R319). -/
  since : Nat
  deriving DecidableEq, Repr

/-- The kinds of full/empty waiter (R144). -/
inductive WaitKind where
  | ldfe | ldff | sdef
  deriving DecidableEq, Repr

/-- Who stands on a full/empty list: a slot, a suspended stage of a folded chain, or a copy channel storing a handle (R144, R216, R223). -/
inductive WaitAgent where
  | slot (c : CoreId) (k : SlotId)
  | stage (chain : ChainRef) (stage : BitVec 2) (c : CoreId) (k : SlotId)
  | channel (c : CoreId) (ch : BitVec 2)
  deriving DecidableEq, Repr

/-- An entry of a full/empty wait list; the package keeps the lists of all words in one order of arrival (R144). -/
structure Waiter where
  loc : WaitPoint
  agent : WaitAgent
  tenant : BitVec 16
  kind : WaitKind
  dest : BitVec 5
  value : Word
  va : Word
  since : Nat
  deriving DecidableEq, Repr

/-- A gang queued or running (R98 to R100). -/
structure Gang where
  id : Nat
  index : BitVec 16
  tenant : BitVec 16
  priv : Level
  pc : Word
  arg : Word
  first : CoreId
  ncores : Nat
  spc : Nat
  nbar : Nat
  light : Bool
  running : Bool
  /-- Slots reserved for the gang and not yet started (R99). -/
  reserved : List (CoreId × SlotId)
  /-- Members that have not issued `stop` (R100). -/
  active : List (CoreId × SlotId)
  /-- For each barrier, the members that have arrived. -/
  arrived : Vector (List (CoreId × SlotId)) 4
  deriving DecidableEq, Repr

/-- Life of a stage (R214, R216). -/
inductive StageStatus where
  | waiting | live | suspended | ended
  deriving DecidableEq, Repr

/-- A stage of a chain: its registers while it has no slot of its own or is not the running stage (R212, R216, R233). -/
structure Stage where
  status : StageStatus
  place : Option (CoreId × SlotId)
  pc : Word
  x : Vector Word 16
  v : Vector VecWord 4
  fflags : BitVec 5
  fewlim : Word
  /-- Halted at its equivalence point by a stop message (R233). -/
  halted : Bool
  /-- The link form at which it stopped in folded form: the link, whether it pops, and the words it needs (R216). -/
  need : Option (BitVec 2 × Bool × Nat)
  /-- A cause to be taken when the stage runs again (R322). -/
  cause : Option (BitVec 8 × Word)
  deriving DecidableEq, Repr

/-- A link: words that can be popped, words and a close in transit, and whether it is closed (R211, R214, R292). -/
structure Link where
  words : List Word
  transit : List Word
  closing : Bool
  closed : Bool
  deriving DecidableEq, Repr

/-- A chain that runs or starts (R211 to R216). -/
structure Chain where
  ref : ChainRef
  form : ChainForm
  priv : Level
  nst : Nat
  entry : Vector Word 4
  done : Word
  arg : Word
  stages : Vector Stage 4
  links : Vector Link 3
  /-- Folded: the slot that runs the stages, and the stage it runs (R216). -/
  folder : Option (CoreId × SlotId)
  running : BitVec 2
  /-- A switch in progress: target form, the slot that issued `chsw`, and the next stage the stop message visits (R233). -/
  switching : Option (ChainForm × CoreId × SlotId × Nat)
  deriving DecidableEq, Repr

/-- A label prefix map entry that is made and not yet valid (R45): its number, the cores whose acknowledgements are owed, and who
waits for them: a result of a slot, or a copy channel. -/
structure PrefixJob where
  id : Nat
  tenant : BitVec 16
  region : BitVec 12
  entry : Nat
  /-- The region's object entry, the slot in whose address space its pools lie, its combs, and which of the regions at its index it is. -/
  object : BitVec 512
  agent : Slot
  combs : List CombId
  era : Nat
  /-- The move that follows the entry's detach: the subtree's path and its new one (R48, R187). -/
  move : Option (Nat × Nat)
  owed : List CoreId
  core : CoreId
  slot : SlotId
  /-- The pc of the form that made it, and the place of the byte that holds its valid bit. -/
  pc : Word
  at_ : Loc
  answer : Option RegName
  ch : Option (BitVec 2)
  /-- Since when its write is held at the second stage, and at which address (R313). -/
  heldSince : Option Nat
  heldAt : Nat
  deriving DecidableEq, Repr

/-- A `kred` between its fork and its join (R60, R62): its operands at the fork, the range as paths or keys that region events keep up to
date, the last place summed, and the sum and count so far. -/
structure Reduction where
  core : CoreId
  slot : SlotId
  insn : BitVec 32
  region : BitVec 12
  entry : BitVec 512
  agent : Slot
  /-- Which of the regions at its index it sums (R330). -/
  era : Nat
  off : Nat
  lo : Nat
  hi : Nat
  /-- The last record summed, as a path or key. -/
  last : Option Nat
  sum : Nat
  count : Nat
  /-- Since when a read is held at the second stage, and at which address (R313). -/
  heldSince : Option Nat
  heldAt : Nat
  deriving DecidableEq, Repr

/-- A slot of a tenant that is switched out (R270): its context is in the tenant's area, and this is the slot it came from, for what
the area has no place for (DESIGN CHOICE, log 12). -/
structure Parked where
  tenant : BitVec 16
  core : CoreId
  slot : SlotId
  kept : Slot
  deriving DecidableEq, Repr

/-- A shootdown in progress (R230): issuer, operands, and the agents still to acknowledge. -/
structure Shootdown where
  id : Nat
  core : CoreId
  slot : SlotId
  tenant : BitVec 16
  kind : BitVec 3
  asid : BitVec 16
  addr : Word
  owed : List CoreId
  deriving DecidableEq, Repr

/-- Packet classes of the fabric (R275). -/
inductive PacketClass where
  | message | read | write | atomic | management
  deriving DecidableEq, Repr

/-- The answer to a one-sided packet: its number, whether it was performed, an atomic's old value, a read's data and bits (R275). -/
structure Answer where
  seq : Nat
  ok : Bool
  word : Word
  data : List Byte
  full : List Bool
  deriving DecidableEq, Repr

/-- A packet the source interface keeps until it is acknowledged (R348). -/
structure KeptPacket where
  seq : Nat
  /-- The packet before it in its stream that was kept when it was sent last (DEDUCED, log 38). -/
  after : Option Nat
  dest : BitVec 10
  cls : PacketClass
  tenant : BitVec 16
  /-- The message it carries, or the messages of a batch (R275, R277). -/
  msgs : List Message
  /-- The destination word of a wake (R229). -/
  wake : Option Word
  answer : Option Answer
  /-- The transfer it belongs to: core, channel and id. -/
  transfer : Option (CoreId × BitVec 2 × BitVec 32)
  addr : Word
  len : Nat
  data : List Byte
  full : List Bool
  op : AmoOp
  operand : Word
  expected : Word
  sent : Nat
  resent : Bool
  deriving DecidableEq, Repr

/-- A batch of messages of a partition to a host endpoint (R277). -/
structure Batch where
  pbase : CoreId
  endpoint : BitVec 10
  tenant : BitVec 16
  oldest : Nat
  msgs : List Message
  deriving DecidableEq, Repr

/-- What leaves the package (R275, R277, R284). -/
inductive Sent where
  | packet (p : KeptPacket)
  /-- A packet is taken, or refused (R276, R348, R349). -/
  | ack (dest : BitVec 10) (cls : PacketClass) (seq : Nat) (ok : Bool)
  deriving DecidableEq, Repr

/-- A partition's scheduler (R266 to R272): its first core, the entry it serves, since when, the frozen entries with the time
their freeze began, and the request it performs. -/
structure Scheduler where
  pbase : CoreId
  serving : Option (BitVec 4)
  since : Nat
  frozenAt : List (Nat × Word)
  /-- Slots that have still to hand over to the entry served (R269). -/
  handover : List (CoreId × SlotId)
  /-- Entry whose contexts are in the slots while a switch goes on, for those still to hand over. -/
  outgoing : Option (BitVec 4)
  /-- Tenants that a commit has reset (R347). -/
  resets : List (BitVec 16)
  /-- Slots that work of H kept from the tenant served: each takes its context once that work has ended (R269). -/
  late : List (CoreId × SlotId)
  /-- The entries of the last accepted commit as the scheduler holds them, its own fields among them (R265, R267). -/
  admitted : List (Nat × BitVec 512)
  /-- The request taken and not yet answered, and its status word once it is done (R266). -/
  request : Option Word
  status : Option Word
  /-- Transfers that a freeze still waited for when its slots were out (R346). -/
  engineOps : Option Nat
  deriving DecidableEq, Repr

/-- A log entry of the management controller (R288). -/
structure LogEntry where
  time : Word
  code : BitVec 16
  unit : BitVec 16
  data : BitVec 160
  deriving DecidableEq, Repr

/-- The management controller (R279 to R288, R295, R319 to R321). -/
structure Controller where
  flash : List Host.Cell
  minSvn : Vector (BitVec 32) 3
  rsaHash : BitVec 384
  slhHash : BitVec 384
  bank : Option Bool
  measures : Vector (BitVec 384) 4
  log : List LogEntry
  logNext : Nat
  sensors : Vector (BitVec 16) 7
  /-- The cycle at which each sensor was sampled last (R286). -/
  sampledAt : Vector Nat 7
  allowed : List (BitVec 10)
  started : Bool
  bootBlock : Option Nat
  heldRequests : List Event
  notices : List (BitVec 16 × BitVec 12)
  deadRecords : List (CoreId × Word × List LineTag)
  discarded : Nat
  /-- Corrected errors (R316). -/
  corrected : Nat
  /-- No bank held three valid images at power-on (R351). -/
  noBank : Bool
  /-- The correction that a time exchange asked for, the cycle from which it is made, and the part of a ns that the reference had then, in
  units of 1/33,000 ns (R287). -/
  slew : Int
  slewAt : Nat
  timeFrac : Nat
  retries : Vector Nat 32
  linkUp : Vector Bool 32
  deriving DecidableEq, Repr

/-- Who moves in a step (DESIGN CHOICE, log 1): the cycles that pass first, an event from outside or of a unit's own accord, or else the number of
the enabled move to take. -/
structure Tick where
  pick : Nat
  cycles : Nat
  input : Option Event
  deriving DecidableEq, Repr

/-- An event due at or after a cycle (DESIGN CHOICE, log 1). -/
structure Due where
  after : Nat
  event : Event
  deriving DecidableEq, Repr

/-- The slot on whose behalf a step acts. -/
structure Place where
  core : CoreId
  slot : SlotId
  deriving DecidableEq, Repr

/-- The package. The last six fields are the model's own (DESIGN CHOICE, logs 1 and 2). -/
structure State where
  mem : List Host.Cell
  memEmpty : List Nat
  memBad : List Nat
  cores : List (Nat × Core)
  s2base : List (Nat × Word)
  tnowoff : List (Nat × Word)
  s2copies : List (BitVec 16 × Nat × Word)
  dir : List DirEntry
  /-- Lines that each comb's L2 slice caches, oldest first (R12, R77). -/
  l2 : List (Nat × List LineTag)
  /-- Lost lines whose granule the second stage holds: their words are made uncorrectable once it is valid (R313, R320). -/
  lostHeld : List LineTag
  /-- Requests of lines that have arrived at homes in the present cycle (R81). -/
  arrivals : List (LineTag × CombId × CoreId)
  waiters : List Waiter
  gangs : List Gang
  admission : Vector (List Nat) 4
  chains : List Chain
  prefixJobs : List PrefixJob
  reductions : List Reduction
  failedShards : List (BitVec 16 × BitVec 12 × Nat × Word)
  /-- Regions that have been retired, by tenant and index (R328). -/
  retired : List (BitVec 16 × BitVec 12)
  shootdowns : List Shootdown
  overflow : List (Nat × List (CoreId × Message))
  kept : List KeptPacket
  /-- Sequence numbers received, with source endpoint and packet class, and whether the packet was taken or refused (R348, R349). -/
  received : List (BitVec 10 × PacketClass × Nat × Bool)
  batches : List Batch
  schedulers : List Scheduler
  parked : List Parked
  timeRef : Word
  endpoint : BitVec 10
  controller : Controller
  outbox : List Sent
  now : Nat
  fresh : Nat
  schedule : List Tick
  agenda : List Due
  cur : Place
  args : EventArgs
  deriving DecidableEq, Repr

/-- All registers of a bank 0 (R282). -/
def Bank.zero : Bank := { xpc := 0, xcause := 0, xval := 0, xvec := 0, xscratch := 0 }

/-- A slot after R282 step 3: idle at incarnation 0, banked registers 0, `tcmp` all ones (R234); the other registers 0, `m0` all
ones (DESIGN CHOICE, log 3). -/
def Slot.powerOn : Slot where
  x := Vector.replicate 32 0
  v := Vector.replicate 16 0
  m := (Vector.replicate 8 0).set 0 (BitVec.allOnes 64)
  lb := Vector.replicate 8 0
  pc := 0
  priv := .u
  light := false
  ie := false
  stage := 0
  form := none
  chain := none
  nesting := 0
  cause := none
  earlier := none
  badTable := none
  bankS := Bank.zero
  bankH := Bank.zero
  tcmp := BitVec.allOnes 64
  fewlim := 0
  mfmt := 0
  fflags := 0
  xlroot := 0
  objbase := 0
  objlim := 0
  cmtab := 0
  frbase := 0
  tenant := 0
  inc := 0
  state := .idle
  wait := .none
  stopped := false
  stoppedAt := 0
  flights := []
  flightNo := 0
  yielded := false
  issueAt := 0
  deliverAt := none
  handler := none
  pendStop := false
  pendTimer := false
  pendNotice := none
  gang := none
  others := []

/-- The repetition buffer held by no slot (R175). -/
def RepBuffer.free : RepBuffer :=
  { holder := none, waiters := [], words := [], phase := .ended, count := 0, stride := 0, iter := 0, pos := 0, issueAt := 0,
    start := 0, heldSince := none, heldAt := 0 }

/-- A core after R282 step 3 (DESIGN CHOICE, log 3, for what the rule does not name). -/
def Core.powerOn : Core where
  slots := Vector.replicate 16 Slot.powerOn
  spad := []
  spadEmpty := []
  spadBad := []
  split := 2
  splitWanted := none
  lines := []
  misses := []
  icache := []
  tlb := []
  prefixes := []
  rings := Vector.replicate 8 none
  za := Vector.replicate 4 0
  zaOwner := Vector.replicate 4 none
  zaTenant := Vector.replicate 4 none
  zaWaiters := Vector.replicate 4 []
  matrix := []
  rep := RepBuffer.free
  ahead := none
  mail := Vector.replicate 32 { word := 0, full := false }
  channels := Vector.replicate 4 { next := 0, queue := [], latch := none }
  inbox := []
  iface := []
  bindings := Vector.replicate 8 none
  deque := []
  slstk := 0
  pbase := 0
  plen := 0
  partWrites := []
  lastIssued := 15
  nextIssue := 0
  vectorAt := 0
  inc4 := 0
  dead := false
  power := .on
  heldAtComb := []
  forwarding := []
  vacated := []
  lastTnow := []
  foldBank := none

/-- The management controller at power-on: measurement registers 0 (R283), an empty log, no bank in use; flash, fuses, sensors
and the management list as log 3 says (DESIGN CHOICE). -/
def Controller.powerOn : Controller where
  flash := []
  minSvn := Vector.replicate 3 0
  rsaHash := 0
  slhHash := 0
  bank := none
  measures := Vector.replicate 4 0
  log := []
  logNext := 0
  sensors := Vector.replicate 7 0
  sampledAt := Vector.replicate 7 0
  allowed := []
  started := false
  bootBlock := none
  heldRequests := []
  notices := []
  deadRecords := []
  discarded := 0
  corrected := 0
  noBank := false
  slew := 0
  slewAt := 0
  timeFrac := 0
  retries := Vector.replicate 32 0
  linkUp := Vector.replicate 32 true

/-- The package right after reset: R282 step 3 done, the rest of the power-on sequence due (DESIGN CHOICE, log 6). Memory lists nothing: every
DRAM byte reads 0 and every word is full. -/
def State.reset : State where
  mem := []
  memEmpty := []
  memBad := []
  cores := []
  s2base := []
  tnowoff := []
  s2copies := []
  dir := []
  l2 := []
  lostHeld := []
  arrivals := []
  waiters := []
  gangs := []
  admission := Vector.replicate 4 []
  chains := []
  prefixJobs := []
  reductions := []
  failedShards := []
  retired := []
  shootdowns := []
  overflow := []
  kept := []
  received := []
  batches := []
  schedulers := []
  parked := []
  timeRef := 0
  endpoint := 0
  controller := Controller.powerOn
  outbox := []
  now := 0
  fresh := 0
  schedule := []
  agenda := [{ after := 0, event := { kind := .powerOn, args := {} } }]
  cur := { core := 0, slot := 0 }
  args := {}

end Sys2Proof.Machine
end

