-- ==== Sys2Proof/Machine/Bits.lean ====
section
/-!
DEFINITION. Bit fields, little-endian words, and the lists that stand for memories and tables. Memory is a list of cells with
strictly rising addresses and no cell that holds 0, the value an unlisted byte has (R282).
-/
namespace Sys2Proof.Machine

/-- Sign extension to a general register (R109). -/
def sext {n : Nat} (b : BitVec n) : Word := b.signExtend 64

/-- Zero extension to a general register (R109). -/
def zext {n : Nat} (b : BitVec n) : Word := b.setWidth 64

/-- Bits [hi:lo] of a word. -/
def bits {n : Nat} (w : BitVec n) (hi lo : Nat) : BitVec (hi - lo + 1) := w.extractLsb' lo (hi - lo + 1)

/-- Bits [hi:lo] of a word as a number. -/
def field {n : Nat} (w : BitVec n) (hi lo : Nat) : Nat := (w.toNat >>> lo) % 2 ^ (hi - lo + 1)

/-- A truth value in a general register. -/
def flag (b : Bool) : Word := if b then 1 else 0

/-- A multiple of `n`. -/
def multipleOf (n : Nat) (w : Word) : Bool := w.toNat % n = 0

/-- Every element of a list satisfies `p`, by structural recursion. -/
def allOf {α : Type} (p : α → Bool) : List α → Bool
  | [] => true
  | a :: r => p a && allOf p r

/-- Some element of a list satisfies `p`. -/
def someOf {α : Type} (p : α → Bool) : List α → Bool
  | [] => false
  | a :: r => p a || someOf p r

/-- The first element that satisfies `p`. -/
def firstOf {α : Type} (p : α → Bool) : List α → Option α
  | [] => none
  | a :: r => if p a then some a else firstOf p r

/-- Replace the first element that satisfies `p`. -/
def replaceFirst {α : Type} (p : α → Bool) (b : α) : List α → List α
  | [] => []
  | a :: r => if p a then b :: r else a :: replaceFirst p b r

/-- Remove the first element that satisfies `p`. -/
def removeFirst {α : Type} (p : α → Bool) : List α → List α
  | [] => []
  | a :: r => if p a then r else a :: removeFirst p r

/-- Keep the elements that satisfy `p`. -/
def keepIf {α : Type} (p : α → Bool) : List α → List α
  | [] => []
  | a :: r => if p a then a :: keepIf p r else keepIf p r

/-- The numbers from `lo`, `n` of them. -/
def upFrom (lo : Nat) : Nat → List Nat
  | 0 => []
  | n + 1 => lo :: upFrom (lo + 1) n

namespace Table

/-- The value at a key of a table, or the default. -/
def find {α : Type} (d : α) (k : Nat) : List (Nat × α) → α
  | [] => d
  | (k', v) :: r => if k' = k then v else find d k r

/-- Set the value at a key; keys rise. -/
def put {α : Type} (k : Nat) (v : α) : List (Nat × α) → List (Nat × α)
  | [] => [(k, v)]
  | (k', v') :: r => if k < k' then (k, v) :: (k', v') :: r else if k = k' then (k, v) :: r else (k', v') :: put k v r

/-- Remove a key. -/
def drop {α : Type} (k : Nat) : List (Nat × α) → List (Nat × α)
  | [] => []
  | (k', v') :: r => if k' = k then drop k r else (k', v') :: drop k r

end Table

namespace NatSet

/-- Membership in a rising list of numbers. -/
def has (k : Nat) : List Nat → Bool
  | [] => false
  | a :: r => a = k || has k r

/-- Insertion into a rising list of numbers. -/
def add (k : Nat) : List Nat → List Nat
  | [] => [k]
  | a :: r => if k < a then k :: a :: r else if k = a then a :: r else a :: add k r

/-- Removal. -/
def del (k : Nat) : List Nat → List Nat
  | [] => []
  | a :: r => if a = k then del k r else a :: del k r

/-- Insert or remove. -/
def set (k : Nat) (b : Bool) (l : List Nat) : List Nat := if b then add k l else del k l

end NatSet

namespace Cells

/-- The byte at an address; an unlisted one reads 0 (R282). -/
def read (a : Nat) : List Host.Cell → Byte
  | [] => 0
  | (a', b) :: r => if a' = a then b else read a r

/-- Remove an address. -/
def erase (a : Nat) : List Host.Cell → List Host.Cell
  | [] => []
  | (a', b) :: r => if a' = a then erase a r else (a', b) :: erase a r

/-- Insert a cell in order. -/
def insert (a : Nat) (b : Byte) : List Host.Cell → List Host.Cell
  | [] => [(a, b)]
  | (a', b') :: r => if a < a' then (a, b) :: (a', b') :: r else if a = a' then (a, b) :: r else (a', b') :: insert a b r

/-- Write one byte; a 0 is not listed. -/
def write (a : Nat) (b : Byte) (l : List Host.Cell) : List Host.Cell := if b = 0 then erase a l else insert a b l

/-- The number that `n` bytes from `a` hold, least significant byte first (R107). -/
def readNat (l : List Host.Cell) (a : Nat) : Nat → Nat
  | 0 => 0
  | n + 1 => (read a l).toNat + 256 * readNat l (a + 1) n

/-- Write the low `n` bytes of a number from `a`, least significant first. -/
def writeNat (v : Nat) (a : Nat) (l : List Host.Cell) : Nat → List Host.Cell
  | 0 => l
  | n + 1 => writeNat (v / 256) (a + 1) (write a (BitVec.ofNat 8 v) l) n

/-- Every address is above `lo` and rises, and no cell holds 0. -/
def risesFrom : Nat → List Host.Cell → Bool
  | _, [] => true
  | lo, (a, b) :: r => decide (lo ≤ a) && decide (b ≠ 0) && risesFrom (a + 1) r

/-- The canonical form of a memory. -/
def wf (l : List Host.Cell) : Bool := risesFrom 0 l

end Cells

/-- The number a list of bytes holds, least significant first. -/
def natOfBytes : List Byte → Nat
  | [] => 0
  | b :: r => b.toNat + 256 * natOfBytes r

/-- The low `n` bytes of a number, least significant first. -/
def bytesOfNat (v : Nat) : Nat → List Byte
  | 0 => []
  | n + 1 => BitVec.ofNat 8 v :: bytesOfNat (v / 256) n

/-- The most significant byte first, as keys and signatures are stored (R280). -/
def natOfBytesBig (l : List Byte) : Nat := natOfBytes l.reverse

/-- The level as `xstat` and `xcause` give it (R234). -/
def Level.code : Level → BitVec 2
  | .u => 0 | .s => 1 | .h => 2

/-- The level of a code; 3 names none (R225). -/
def Level.ofCode (c : BitVec 2) : Option Level :=
  match c.toNat with
  | 0 => some .u | 1 => some .s | 2 => some .h | _ => none

/-- `a` is at or below `b` (R16). -/
def Level.le (a b : Level) : Bool := a.code.toNat ≤ b.code.toNat

/-- Number of 1 bits (R138). -/
def popCount {n : Nat} (w : BitVec n) : Nat :=
  (List.range n).foldl (fun acc i => acc + (w.getLsbD i).toNat) 0

/-- Leading zero bits from bit `k - 1` down (R138). -/
def leadingZeros {n : Nat} (w : BitVec n) : Nat → Nat
  | 0 => 0
  | k + 1 => if w.getLsbD k then 0 else 1 + leadingZeros w k

/-- Trailing zero bits from bit `i` up, at most `k` of them (R138). -/
def trailingZeros {n : Nat} (w : BitVec n) (i : Nat) : Nat → Nat
  | 0 => 0
  | k + 1 => if w.getLsbD i then 0 else 1 + trailingZeros w (i + 1) k

/-- Bytes of a word in the opposite order (R138). -/
def reverseBytes (w : Word) : Word :=
  bits w 7 0 ++ bits w 15 8 ++ bits w 23 16 ++ bits w 31 24 ++ bits w 39 32 ++ bits w 47 40 ++ bits w 55 48 ++ bits w 63 56

end Sys2Proof.Machine
end

