-- ==== Sys2Proof/Machine/Float.lean ====
section
/-!
DEFINITION. Number formats and arithmetic (R17 to R27): integer lanes, the binary formats f64, f32 and bf16 computed exactly
and rounded once, the mk8 and xd8 decimal codes, and every flag of R22.
-/
namespace Sys2Proof.Machine

/-- A binary format: exponent and fraction widths (R19). -/
structure FloatFmt where
  e : Nat
  m : Nat
  deriving DecidableEq, Repr

def f64 : FloatFmt := { e := 11, m := 52 }
def f32 : FloatFmt := { e := 8, m := 23 }
def bf16 : FloatFmt := { e := 8, m := 7 }

namespace FloatFmt

def width (f : FloatFmt) : Nat := 1 + f.e + f.m
def bias (f : FloatFmt) : Int := 2 ^ (f.e - 1) - 1
def maxExp (f : FloatFmt) : Nat := 2 ^ f.e - 1

/-- The canonical NaN (R20). -/
def nan (f : FloatFmt) : Nat := f.maxExp <<< f.m + 2 ^ (f.m - 1)

/-- An infinity. -/
def inf (f : FloatFmt) (neg : Bool) : Nat := neg.toNat <<< (f.e + f.m) + f.maxExp <<< f.m

/-- The largest finite number. -/
def maxFinite (f : FloatFmt) (neg : Bool) : Nat := f.inf neg - 1

/-- A zero. -/
def zero (f : FloatFmt) (neg : Bool) : Nat := neg.toNat <<< (f.e + f.m)

end FloatFmt

/-- What the bits of a format stand for: a finite value is ± mant · 2^exp. -/
inductive FloatVal where
  | nan (signalling : Bool)
  | inf (neg : Bool)
  | fin (neg : Bool) (mant : Nat) (exp : Int)
  deriving DecidableEq, Repr

/-- The value of the bits of a format (R19). -/
def FloatFmt.decode (f : FloatFmt) (w : Nat) : FloatVal :=
  let frac := w % 2 ^ f.m
  let ex := (w >>> f.m) % 2 ^ f.e
  let neg := (w >>> (f.e + f.m)) % 2 = 1
  if ex = f.maxExp then
    if frac = 0 then .inf neg else .nan (frac < 2 ^ (f.m - 1))
  else if ex = 0 then .fin neg frac (1 - f.bias - f.m)
  else .fin neg (frac + 2 ^ f.m) (ex - f.bias - f.m)

/-- `fflags`: nv, dz, of, uf, nx in bits 4 to 0 (R22). -/
abbrev FFlags := BitVec 5

def nvFlag : FFlags := 16
def dzFlag : FFlags := 8
def ofFlag : FFlags := 4
def ufFlag : FFlags := 2
def nxFlag : FFlags := 1
def noFlags : FFlags := 0

/-- The floor of the base-2 logarithm of num / den, both positive. -/
def ratLog2 (num den : Nat) : Int :=
  let d : Int := (Nat.log2 num : Int) - Nat.log2 den
  -- 2^d ≤ num / den < 2^(d+1), or one less
  if d ≥ 0 then if den * 2 ^ d.toNat ≤ num then d else d - 1
  else if den ≤ num * 2 ^ (-d).toNat then d else d - 1

/-- num / den · 2^(-q) as quotient and whether a remainder is above, at or below half, and whether there is any. -/
structure Scaled where
  quot : Nat
  rem : Nat
  den : Nat

def scale (num den : Nat) (q : Int) : Scaled :=
  if q ≥ 0 then
    let d := den * 2 ^ q.toNat
    { quot := num / d, rem := num % d, den := d }
  else
    let n := num * 2 ^ (-q).toNat
    { quot := n / den, rem := n % den, den := den }

def Scaled.inexact (s : Scaled) : Bool := s.rem ≠ 0

/-- The integer that a magnitude rounds to, for a sign and mode (R21). -/
def Scaled.round (s : Scaled) (neg : Bool) : RMode → Nat
  | .rne => if 2 * s.rem < s.den then s.quot else if 2 * s.rem > s.den then s.quot + 1 else s.quot + s.quot % 2
  | .rz => s.quot
  | .rd => if neg && s.inexact then s.quot + 1 else s.quot
  | .ru => if !neg && s.inexact then s.quot + 1 else s.quot
  | .rna => if 2 * s.rem < s.den then s.quot else s.quot + 1

/-- Overflow under each mode (R21). -/
def FloatFmt.overflow (f : FloatFmt) (neg : Bool) : RMode → Nat
  | .rne => f.inf neg
  | .rna => f.inf neg
  | .rz => f.maxFinite neg
  | .rd => if neg then f.inf neg else f.maxFinite neg
  | .ru => if neg then f.maxFinite neg else f.inf neg

/-- The value ± num / den rounded once to a format, with the flags of, uf and nx; tininess is judged after rounding (R22). -/
def FloatFmt.round (f : FloatFmt) (rm : RMode) (neg : Bool) (num den : Nat) : Nat × FFlags :=
  if num = 0 then (f.zero neg, noFlags)
  else
    let ex := ratLog2 num den
    let emin : Int := 1 - f.bias
    let q := max ex emin - f.m
    let s := scale num den q
    let n := s.round neg rm
    let field : Int := if n < 2 ^ f.m then 0 else q + f.m + f.bias
    let mag : Nat := if n < 2 ^ f.m then n else field.toNat <<< f.m + (n - 2 ^ f.m)
    if mag ≥ f.maxExp <<< f.m then (f.overflow neg rm, ofFlag ||| nxFlag)
    else
      let unbounded := (scale num den (ex - f.m)).round neg rm
      let tiny := ex < emin && !(ex = emin - 1 && unbounded = 2 ^ (f.m + 1))
      let fl := if s.inexact then (if tiny then ufFlag ||| nxFlag else nxFlag) else noFlags
      (neg.toNat <<< (f.e + f.m) + mag, fl)

/-- An exact dyadic number n · 2^e. -/
structure Dyadic where
  n : Int
  e : Int
  deriving DecidableEq, Repr

namespace Dyadic

def mul (a b : Dyadic) : Dyadic := { n := a.n * b.n, e := a.e + b.e }

def add (a b : Dyadic) : Dyadic :=
  let e := min a.e b.e
  { n := a.n * 2 ^ (a.e - e).toNat + b.n * 2 ^ (b.e - e).toNat, e := e }

/-- Rounded once to a format; an exact zero takes the sign given. -/
def round (a : Dyadic) (f : FloatFmt) (rm : RMode) (zeroNeg : Bool) : Nat × FFlags :=
  if a.n = 0 then (f.zero zeroNeg, noFlags)
  else if a.e ≥ 0 then f.round rm (a.n < 0) (a.n.natAbs * 2 ^ a.e.toNat) 1
  else f.round rm (a.n < 0) a.n.natAbs (2 ^ (-a.e).toNat)

end Dyadic

namespace FloatVal

/-- The exact value of a finite number. -/
def dyadic : FloatVal → Dyadic
  | .fin neg mant exp => { n := if neg then -(mant : Int) else mant, e := exp }
  | _ => { n := 0, e := 0 }

def neg : FloatVal → Bool
  | .fin s _ _ => s
  | .inf s => s
  | .nan _ => false

def isZero : FloatVal → Bool
  | .fin _ m _ => m = 0
  | _ => false

def isNan : FloatVal → Bool
  | .nan _ => true
  | _ => false

def isInf : FloatVal → Bool
  | .inf _ => true
  | _ => false

def isSignalling : FloatVal → Bool
  | .nan s => s
  | _ => false

/-- nv for a signalling NaN among the operands (R20). -/
def nanFlags (l : List FloatVal) : FFlags := if someOf isSignalling l then nvFlag else noFlags

end FloatVal

/-- RNE(a · b + c), fused; `c` may be an exact −0 product's neighbour (R156). Zero signs follow IEEE 754: an exact zero sum is
−0 only when both addends are −0 under RNE. -/
def FloatFmt.fma (f : FloatFmt) (wa wb wc : Nat) (negProduct : Bool) : Nat × FFlags :=
  let a := f.decode wa
  let b := f.decode wb
  let c := f.decode wc
  if a.isNan || b.isNan || c.isNan then (f.nan, FloatVal.nanFlags [a, b, c])
  else
    let pneg := (a.neg != b.neg) != negProduct
    if (a.isInf && b.isZero) || (a.isZero && b.isInf) then (f.nan, nvFlag)
    else if a.isInf || b.isInf then
      if c.isInf && c.neg != pneg then (f.nan, nvFlag) else (f.inf pneg, noFlags)
    else if c.isInf then (f.inf c.neg, noFlags)
    else
      let p := a.dyadic.mul b.dyadic
      let p := if negProduct then { p with n := -p.n } else p
      let sum := p.add c.dyadic
      sum.round f .rne (pneg && c.neg)

/-- RNE(a + b) (R156). -/
def FloatFmt.add (f : FloatFmt) (wa wb : Nat) : Nat × FFlags :=
  let a := f.decode wa
  let b := f.decode wb
  if a.isNan || b.isNan then (f.nan, FloatVal.nanFlags [a, b])
  else if a.isInf then
    if b.isInf && a.neg != b.neg then (f.nan, nvFlag) else (f.inf a.neg, noFlags)
  else if b.isInf then (f.inf b.neg, noFlags)
  else (a.dyadic.add b.dyadic).round f .rne (a.neg && b.neg)

/-- The sign bit inverted, as `vneg` does (R20). -/
def FloatFmt.negate (f : FloatFmt) (w : Nat) : Nat :=
  if w < 2 ^ (f.e + f.m) then w + 2 ^ (f.e + f.m) else w - 2 ^ (f.e + f.m)

/-- The sign bit cleared, as `vabs` does (R20). -/
def FloatFmt.absolute (f : FloatFmt) (w : Nat) : Nat := w % 2 ^ (f.e + f.m)

/-- RNE(a − b) (R156): b's sign is inverted unless it is a NaN. -/
def FloatFmt.sub (f : FloatFmt) (wa wb : Nat) : Nat × FFlags := f.add wa (f.negate wb)

/-- RNE(a × b) (R156). -/
def FloatFmt.mul (f : FloatFmt) (wa wb : Nat) : Nat × FFlags :=
  let a := f.decode wa
  let b := f.decode wb
  let s := a.neg != b.neg
  if a.isNan || b.isNan then (f.nan, FloatVal.nanFlags [a, b])
  else if (a.isInf && b.isZero) || (a.isZero && b.isInf) then (f.nan, nvFlag)
  else if a.isInf || b.isInf then (f.inf s, noFlags)
  else (a.dyadic.mul b.dyadic).round f .rne s

/-- RNE(a / b) (R156, R22). -/
def FloatFmt.div (f : FloatFmt) (wa wb : Nat) : Nat × FFlags :=
  let a := f.decode wa
  let b := f.decode wb
  let s := a.neg != b.neg
  match a, b with
  | .nan _, _ => (f.nan, FloatVal.nanFlags [a, b])
  | _, .nan _ => (f.nan, FloatVal.nanFlags [a, b])
  | .inf _, .inf _ => (f.nan, nvFlag)
  | .inf _, .fin _ _ _ => (f.inf s, noFlags)
  | .fin _ _ _, .inf _ => (f.zero s, noFlags)
  | .fin _ ma ea, .fin _ mb eb =>
    if mb = 0 then if ma = 0 then (f.nan, nvFlag) else (f.inf s, dzFlag)
    else
      let d := ea - eb
      if d ≥ 0 then f.round .rne s (ma * 2 ^ d.toNat) mb else f.round .rne s ma (mb * 2 ^ (-d).toNat)

/-- The integer square root, bit by bit from bit `k` down. -/
def isqrt (n : Nat) : Nat → Nat → Nat
  | 0, r => r
  | k + 1, r => isqrt n k (if (r + 2 ^ k) * (r + 2 ^ k) ≤ n then r + 2 ^ k else r)

/-- RNE(√a) (R156). The root is found to more than the format's bits, and a remainder is kept as one further half. -/
def FloatFmt.sqrt (f : FloatFmt) (wa : Nat) : Nat × FFlags :=
  match f.decode wa with
  | .nan s => (f.nan, if s then nvFlag else noFlags)
  | .inf neg => if neg then (f.nan, nvFlag) else (f.inf false, noFlags)
  | .fin neg m e =>
    if m = 0 then (f.zero neg, noFlags)
    else if neg then (f.nan, nvFlag)
    else
      -- m · 2^e = n · 4^h with h whole, and n large enough for the root's bits
      let shift : Nat := 2 * f.m + 8 + (e % 2).toNat
      let n := m * 2 ^ shift
      let h : Int := (e - shift) / 2
      let r := isqrt n (f.m + f.m + 8) 0
      let num := 2 * r + (if r * r = n then 0 else 1)
      if h - 1 ≥ 0 then f.round .rne false (num * 2 ^ (h - 1).toNat) 1 else f.round .rne false num (2 ^ (1 - h).toNat)

/-- Order of two values that are no NaN, −0 below +0 when `zeros` (R20). -/
def FloatVal.less (zeros : Bool) : FloatVal → FloatVal → Bool
  | .inf s, .inf t => s && !t
  | .inf s, .fin _ _ _ => s
  | .fin _ _ _, .inf t => !t
  | .fin s m e, .fin t m' e' =>
    if m = 0 && m' = 0 then zeros && s && !t
    else
      let a := (FloatVal.fin s m e).dyadic
      let b := (FloatVal.fin t m' e').dyadic
      (a.add { b with n := -b.n }).n < 0
  | _, _ => false

/-- `vmin` and `vmax` (R20). -/
def FloatFmt.minMax (f : FloatFmt) (isMax : Bool) (wa wb : Nat) : Nat × FFlags :=
  let a := f.decode wa
  let b := f.decode wb
  let fl := FloatVal.nanFlags [a, b]
  if a.isNan && b.isNan then (f.nan, fl)
  else if a.isNan then (wb, fl)
  else if b.isNan then (wa, fl)
  else if isMax then (if a.less true b then wb else wa, noFlags)
  else (if b.less true a then wb else wa, noFlags)

/-- Comparisons of `vcmp` on floats (R158). -/
def FloatFmt.compare (f : FloatFmt) (c : CmpCond) (wa wb : Nat) : Bool × FFlags :=
  let a := f.decode wa
  let b := f.decode wb
  let nan := a.isNan || b.isNan
  let sig := FloatVal.nanFlags [a, b]
  let quiet := if nan then nvFlag else noFlags
  let equal := !nan && !(a.less false b) && !(b.less false a)
  match c with
  | .eq => (equal, sig)
  | .ne => (!equal, sig)
  | .lt => (!nan && a.less false b, quiet)
  | .le => (!nan && !(b.less false a), quiet)

/-- A float to another float format (R162). -/
def FloatFmt.convert (src dst : FloatFmt) (rm : RMode) (w : Nat) : Nat × FFlags :=
  match src.decode w with
  | .nan s => (dst.nan, if s then nvFlag else noFlags)
  | .inf s => (dst.inf s, noFlags)
  | .fin s m e => (FloatVal.fin s m e).dyadic.round dst rm s

/-- An integer to a float (R23). -/
def FloatFmt.ofInt (f : FloatFmt) (rm : RMode) (n : Int) : Nat × FFlags :=
  f.round rm (n < 0) n.natAbs 1

/-- The least and greatest value of an integer type of a width (R17). -/
def intMin (signed : Bool) (w : Nat) : Int := if signed then -2 ^ (w - 1) else 0
def intMax (signed : Bool) (w : Nat) : Int := if signed then 2 ^ (w - 1) - 1 else 2 ^ w - 1

/-- ± num / den to an integer: rounded, then saturated with nv, else nx when inexact (R23). -/
def ratToInt (rm : RMode) (neg : Bool) (num den : Nat) (signed : Bool) (w : Nat) : Int × FFlags :=
  let s := scale num den 0
  let n : Int := s.round neg rm
  let n := if neg then -n else n
  if n < intMin signed w then (intMin signed w, nvFlag)
  else if n > intMax signed w then (intMax signed w, nvFlag)
  else (n, if s.inexact then nxFlag else noFlags)

/-- A float to an integer (R23). -/
def FloatFmt.toInt (f : FloatFmt) (rm : RMode) (w : Nat) (signed : Bool) (width : Nat) : Int × FFlags :=
  match f.decode w with
  | .nan _ => (0, nvFlag)
  | .inf s => (if s then intMin signed width else intMax signed width, nvFlag)
  | .fin s m e =>
    if e ≥ 0 then ratToInt rm s (m * 2 ^ e.toNat) 1 signed width else ratToInt rm s m (2 ^ (-e).toNat) signed width

/-! Decimal codes (R24 to R27). -/

/-- The exact magnitude of a non-zero, non-NaR mk8 code: num / den (R24). -/
def mk8Magnitude (c : Nat) : Nat × Nat :=
  let b := c % 128
  let z := 6 - Nat.log2 b
  let rest := b - 2 ^ (6 - z)
  let p := match z with | 0 => 5 | 1 => 3 | 2 => 2 | 3 => 1 | _ => 0
  let e := rest >>> p
  let fr := rest % 2 ^ p
  let ex : Int :=
    match z, e with
    | 0, 0 => -1 | 0, _ => 0
    | 1, 0 => -3 | 1, 1 => -2 | 1, 2 => 1 | 1, _ => 2
    | 2, 0 => -5 | 2, 1 => -4 | 2, 2 => 3 | 2, _ => 4
    | 3, 0 => -7 | 3, 1 => -6 | 3, 2 => 5 | 3, _ => 6
    | 4, 0 => -9 | 4, 1 => -8 | 4, 2 => 7 | 4, _ => 8
    | 5, 0 => -10 | 5, _ => 9
    | _, _ => -11
  let n := 2 ^ p + 9 * fr
  if ex ≥ 0 then (n * 10 ^ ex.toNat, 2 ^ p) else (n, 2 ^ p * 10 ^ (-ex).toNat)

/-- decode(c): the f32 of an mk8 code (R25). -/
def mk8Decode (c : Nat) : Nat :=
  if c = 0 then 0
  else if c = 0x80 then f32.nan
  else (f32.round .rne (c ≥ 128) (mk8Magnitude c).1 (mk8Magnitude c).2).1

/-- The distance of two non-negative fractions, as a fraction. -/
def fracDistance (a b : Nat × Nat) : Nat × Nat :=
  let x := a.1 * b.2
  let y := b.1 * a.2
  (if x ≤ y then y - x else x - y, a.2 * b.2)

def fracLess (a b : Nat × Nat) : Bool := a.1 * b.2 < b.1 * a.2
def fracEq (a b : Nat × Nat) : Bool := a.1 * b.2 = b.1 * a.2

/-- The magnitude of a candidate of R26; code 0 stands for zero. -/
def mk8Candidate (c : Nat) : Nat × Nat := if c = 0 then (0, 1) else mk8Magnitude c

/-- The better of two candidates for a magnitude: nearer; on a tie the one whose bit 0 is 0; else the smaller (R26). -/
def mk8Better (x : Nat × Nat) (c d : Nat) : Nat :=
  let dc := fracDistance x (mk8Candidate c)
  let dd := fracDistance x (mk8Candidate d)
  if fracLess dc dd then c
  else if fracLess dd dc then d
  else if c % 2 = 0 && d % 2 = 1 then c
  else if d % 2 = 0 && c % 2 = 1 then d
  else if fracLess (mk8Candidate d) (mk8Candidate c) then d else c

/-- The code for ± num / den, exact, with its flags (R26). -/
def mk8Encode (neg : Bool) (num den : Nat) : Nat × FFlags :=
  if num = 0 then (0, noFlags)
  else if num > 10 ^ 9 * den then (if neg then 0x83 else 0x03, ofFlag ||| nxFlag)
  else
    let best := (List.range 127).foldl (fun c i => mk8Better (num, den) c (i + 1)) 0
    if best = 0 then (0, ufFlag ||| nxFlag)
    else (if neg then best + 128 else best, if fracEq (num, den) (mk8Candidate best) then noFlags else nxFlag)

/-- A float to mk8 (R26). -/
def FloatFmt.toMk8 (f : FloatFmt) (w : Nat) : Nat × FFlags :=
  match f.decode w with
  | .nan _ => (0x80, nvFlag)
  | .inf _ => (0x80, nvFlag)
  | .fin s m e => if e ≥ 0 then mk8Encode s (m * 2 ^ e.toNat) 1 else mk8Encode s m (2 ^ (-e).toNat)

/-- ± mant · 2^exp is the exact magnitude of an mk8 code. -/
def FloatVal.isMagnitude (c : Nat) : FloatVal → Bool
  | .fin _ m e => if e ≥ 0 then fracEq (m * 2 ^ e.toNat, 1) (mk8Magnitude c) else fracEq (m, 2 ^ (-e).toNat) (mk8Magnitude c)
  | _ => false

/-- An mk8 code to a float format (R25): decode(c) is rounded by the mode; nx is judged on the value delivered. -/
def mk8ToFloat (f : FloatFmt) (rm : RMode) (c : Nat) : Nat × FFlags :=
  if c = 0x80 then (f.nan, noFlags)
  else if c = 0 then (0, noFlags)
  else
    let r := (f32.convert f rm (mk8Decode c)).1
    (r, if (f.decode r).isMagnitude c then noFlags else nxFlag)

/-- An mk8 code to an integer (R25, R23): decode(c) is rounded and saturated; NaR raises nv, and any other code nx when the integer differs
from the exact decimal, and nothing else. -/
def mk8ToInt (rm : RMode) (c : Nat) (signed : Bool) (w : Nat) : Int × FFlags :=
  let n := (f32.toInt rm (mk8Decode c) signed w).1
  if c = 0x80 then (n, nvFlag)
  else if c = 0 then (n, noFlags)
  else (n, if fracEq (n.natAbs, 1) (mk8Magnitude c) then noFlags else nxFlag)

/-- decode(c) of an xd8 code: the f32 nearest 10^(s − 32), or the canonical NaN (R27). -/
def xd8Decode (c : Nat) : Nat :=
  if c ≥ 64 then f32.nan
  else if c ≥ 32 then (f32.round .rne false (10 ^ (c - 32)) 1).1
  else (f32.round .rne false 1 (10 ^ (32 - c))).1

/-! Integer lanes (R17, R18). -/

/-- Two's complement value of the low `w` bits. -/
def toSigned (w n : Nat) : Int := if n % 2 ^ w ≥ 2 ^ (w - 1) then (n % 2 ^ w : Int) - 2 ^ w else n % 2 ^ w

/-- The value of a lane of an integer type. -/
def laneInt (signed : Bool) (w n : Nat) : Int := if signed then toSigned w n else n % 2 ^ w

/-- An integer reduced modulo 2^w. -/
def wrapInt (w : Nat) (n : Int) : Nat := (n % 2 ^ w).toNat

/-- The quotient of R18 at a width. -/
def intDiv (signed : Bool) (w a b : Nat) : Nat :=
  let x := laneInt signed w a
  let y := laneInt signed w b
  if y = 0 then 2 ^ w - 1 else wrapInt w (Int.tdiv x y)

/-- The remainder of R18 at a width. -/
def intRem (signed : Bool) (w a b : Nat) : Nat :=
  let x := laneInt signed w a
  let y := laneInt signed w b
  if y = 0 then a % 2 ^ w else wrapInt w (Int.tmod x y)

end Sys2Proof.Machine
end

