-- ==== Sys2Proof/WellFormed.lean ====
section
/-!
DEFINITION. Which terms of `Instr` are instructions: the checks that R112, R153 and R335 make on the fields of a word beyond
what the types of the operands already exclude; an event
is always well formed.
-/
namespace Sys2Proof

/-- Why a term is no instruction, one name for each check. -/
inductive FormError where
  /-- The form does not accept the type (R153). -/
  | typeNotAccepted
  /-- `vcvt` from a type to itself (R162). -/
  | sameType
  /-- `.ps` with a format other than mk8 (R172). -/
  | popScale
  /-- `mmacs` with f32 or f64 (R172). -/
  | bitmapFormat
  /-- An odd register where a pair is named, or a `kred` pair below 2 (R110, R123). -/
  | oddPair
  /-- A send whose payload would pass `x31` (R125). -/
  | payloadRegister
  /-- A system register number that R234 leaves unassigned. -/
  | unassignedRegister
  deriving DecidableEq, Repr

/-- Integer lane types (R153). -/
def VType.isInteger : VType → Bool
  | .i8 | .z8 | .i32 | .z32 | .i64 | .z64 => true
  | .mk8 | .f32 | .bf16 | .f64 => false

/-- Float lane types (R153). -/
def VType.isFloat : VType → Bool
  | .f32 | .bf16 | .f64 => true
  | .i8 | .z8 | .mk8 | .i32 | .z32 | .i64 | .z64 => false

/-- Types of the arithmetic forms: integer and float (R153). -/
def VType.isArith (t : VType) : Bool := t.isInteger || t.isFloat

/-- Signed integer types (R153). -/
def VType.isSigned : VType → Bool
  | .i8 | .i32 | .i64 => true
  | .z8 | .z32 | .z64 | .mk8 | .f32 | .bf16 | .f64 => false

/-- The system register numbers of R234. -/
def sysRegAssigned (r : BitVec 12) : Bool :=
  r.toNat ≤ 0x005 || (0x008 ≤ r.toNat && r.toNat ≤ 0x00C) || (0x011 ≤ r.toNat && r.toNat ≤ 0x015) ||
  (0x100 ≤ r.toNat && r.toNat ≤ 0x108) || (0x200 ≤ r.toNat && r.toNat ≤ 0x203)

namespace Instr

def accepts (b : Bool) : Option FormError := if b then none else some .typeNotAccepted
def pair (b : Bool) : Option FormError := if b then none else some .oddPair
def register (r : BitVec 12) : Option FormError := if sysRegAssigned r then none else some .unassignedRegister

/-- The first check that a term fails, if any. -/
def formError : Instr → Option FormError
  | .vadd _ _ _ t _ => accepts t.isArith
  | .vsub _ _ _ t _ => accepts t.isArith
  | .vmul _ _ _ t _ => accepts t.isArith
  | .vdiv _ _ _ t _ => accepts t.isArith
  | .vmin _ _ _ t _ => accepts t.isArith
  | .vmax _ _ _ t _ => accepts t.isArith
  | .vfma _ _ _ t _ => accepts t.isArith
  | .vfms _ _ _ t _ => accepts t.isArith
  | .vshl _ _ _ t _ => accepts t.isInteger
  | .vshr _ _ _ t _ => accepts t.isInteger
  | .vsra _ _ _ t _ => accepts t.isInteger
  | .vcmp _ _ _ _ t _ => accepts t.isArith
  | .vabs _ _ t _ => accepts t.isArith
  | .vneg _ _ t _ => accepts t.isArith
  | .vsqrt _ _ t _ => accepts t.isFloat
  | .vredsum _ _ t _ => accepts t.isArith
  | .vredmax _ _ t _ => accepts t.isArith
  | .vredmin _ _ t _ => accepts t.isArith
  | .vcvt _ _ src t _ _ => if src = t then some .sameType else none
  | .mmac _ _ _ f _ _ ps => if ps && f != .mk8 then some .popScale else none
  | .mmacs _ _ _ _ f _ _ ps => if f = .f32 || f = .f64 then some .bitmapFormat else if ps && f != .mk8 then some .popScale else none
  | .kfirst _ a _ => pair (a.toNat % 2 = 0)
  | .knext _ a _ => pair (a.toNat % 2 = 0)
  | .kredI32 d c _ => pair (d.toNat % 2 = 0 && 2 ≤ d.toNat && c.toNat % 2 = 0)
  | .kredI64 d c _ => pair (d.toNat % 2 = 0 && 2 ≤ d.toNat && c.toNat % 2 = 0)
  | .kredF32 d c _ => pair (d.toNat % 2 = 0 && 2 ≤ d.toNat && c.toNat % 2 = 0)
  | .kredF64 d c _ => pair (d.toNat % 2 = 0 && 2 ≤ d.toNat && c.toNat % 2 = 0)
  | .skey _ a _ => pair (a.toNat % 2 = 0)
  | .scoord d _ _ => pair (d.toNat % 2 = 0)
  | .msend _ t _ => if t.toNat ≤ 28 then none else some .payloadRegister
  | .msendnb _ _ t _ => if t.toNat ≤ 28 then none else some .payloadRegister
  | .srd _ r => register r
  | .swr _ _ r => register r
  | .sset _ _ r => register r
  | .sclr _ _ r => register r
  | .lb .. | .lh .. | .lw .. | .ld .. | .lbz .. | .lhz .. | .lwz .. | .ldAq .. | .sb .. | .sh .. | .sw .. | .sd ..
  | .sdRl .. | .addi .. | .slli .. | .clz .. | .ctz .. | .popc .. | .sextw .. | .zextw .. | .rev8 .. | .slti ..
  | .sltni .. | .xori .. | .srli .. | .srai .. | .ori .. | .andi .. | .add .. | .sll .. | .slt .. | .sltn ..
  | .xor .. | .srl .. | .or .. | .and .. | .sub .. | .sra .. | .orn .. | .andn .. | .min .. | .max .. | .minn ..
  | .maxn .. | .mul .. | .mulh .. | .mulhn .. | .div .. | .divn .. | .rem .. | .remn .. | .lhi .. | .apc .. | .jal ..
  | .jalr .. | .beq .. | .bne .. | .blt .. | .bge .. | .bltn .. | .bgen .. | .fence .. | .fenceK .. | .amoswap ..
  | .amoadd .. | .amoand .. | .amoor .. | .amoxor .. | .amomin .. | .amomax .. | .amominn .. | .amomaxn ..
  | .amocas .. | .ldfe .. | .ldff .. | .ldfx .. | .sdef .. | .sdff .. | .fempty .. | .fstate .. | .vld .. | .vlds ..
  | .vldx .. | .vst .. | .vsts .. | .vstx .. | .vand .. | .vor .. | .vxor .. | .vsel .. | .vperm .. | .vslide ..
  | .vbcast .. | .vmvx .. | .mand .. | .mor .. | .mnot .. | .vpopm .. | .mzero .. | .mldz .. | .mstz .. | .mscl ..
  | .macq .. | .mrel .. | .matrixOpComplete | .rgset .. | .rgwf .. | .rgwe .. | .rghd .. | .rgtl .. | .rgrd ..
  | .rpbeg | .rpend | .rpgo .. | .rpgoa .. | .rpjoin | .bufferIssue | .runaheadJoin | .lbroot .. | .lbkid ..
  | .lbapp .. | .lbins .. | .lbdel .. | .lbanc .. | .lbcmp .. | .lbpar .. | .lbdep .. | .lbres .. | .lbmov ..
  | .lbfix .. | .lbcp .. | .lblm .. | .lbsm .. | .lbxg .. | .lbld .. | .lbst .. | .kredComplete | .sld .. | .sst ..
  | .sadd .. | .keyEngineAnswer | .heldKeyedRequest | .prefixInvalidate | .prefixEntryActivate | .spawn .. | .sret
  | .sync .. | .yield | .hop .. | .hopk .. | .ganggo .. | .gbar .. | .stop | .gangAdmission | .mdone | .mbput ..
  | .mbget .. | .chgo .. | .get .. | .put .. | .vget .. | .vput .. | .chend | .stageStart | .mvcp .. | .mv2d ..
  | .mvgth .. | .mvsct .. | .mvfill .. | .mvget .. | .mvput .. | .mvamo .. | .mvring .. | .sdense .. | .ssparse ..
  | .mvwait .. | .mvid .. | .transferComplete | .mvringSlotFree | .ecall | .ebreak | .xret | .wfm | .fenceI
  | .tlbinv .. | .dtwr .. | .dtrd .. | .wake .. | .mbind .. | .chsw .. | .pshare .. | .systemRegisterWrite
  | .sramcfgWrite | .splitTakesEffect | .partitionRegisterWrite | .chainStopMessage | .asyncTrap | .timer
  | .managementNotice | .waitLimit | .resultUsable | .pageWalk | .secondStageResume | .secondStageHoldTimeout
  | .launch | .hopArrival | .dequePop | .steal | .messageArrival | .messageDelivery | .wakeMessage | .halt
  | .slotResume | .stopRequest | .convert | .shootdown | .shootdownAck | .rds | .rdx | .upg | .wb | .forward
  | .ownerAnswer | .invalidation | .invalidationAck | .grant | .discoveryAnswer | .directoryDrop | .lineEviction
  | .powerGate | .answerTimeout | .coreDeclaredDead | .deadCoreRecord | .commit | .saveCore | .restoreCore
  | .clearForwarding | .freeze | .resume | .tenantDeadline | .budgetExhausted | .slotHandover | .forwardingExpiry
  | .hostBatchTimeout | .oneSidedRead | .oneSidedWrite | .remoteAtomic | .fabricReply | .fabricResendTimeout
  | .packetUndeliverable | .linkStateChange | .powerOn | .attestation | .sensorRead | .logRead | .timeExchange
  | .commitUpdate | .sensorAboveLimit | .discoveryProbe | .neighbourQueueArrival | .linkLevelRetry
  | .packetAcknowledgement | .powerUpComplete | .illegalInstruction | .instructionFetchFault => none

/-- A term that is an instruction or an event of the machine. -/
abbrev WellFormed (i : Instr) : Prop := i.formError = none

end Instr
end Sys2Proof
end

