-- ==== Sys2Proof/Machine/Lanes.lean ====
section
/-!
DEFINITION. Lanes of a vector register and what the vector forms compute in one lane (R150 to R163).
-/
namespace Sys2Proof.Machine

/-- Lane width (R150). -/
def VType.laneWidth : VType → Nat
  | .i8 | .z8 | .mk8 => 8
  | .i32 | .z32 | .f32 | .bf16 => 32
  | .i64 | .z64 | .f64 => 64

/-- Lane count (R150). -/
def VType.lanes (t : VType) : Nat := 512 / laneWidth t

/-- Bytes of a lane's memory element (R150). -/
def VType.elemBytes : VType → Nat
  | .bf16 => 2
  | t => laneWidth t / 8

/-- The float format of a type (R19). -/
def VType.floatFmt : VType → FloatFmt
  | .f64 => f64
  | .bf16 => bf16
  | _ => f32

/-- Lane i of a register. -/
def laneOf (t : VType) (v : VecWord) (i : Nat) : Nat := (v.toNat >>> (VType.laneWidth t * i)) % 2 ^ VType.laneWidth t

/-- The lane as an operand: bits [31:16] of a bf16 lane are ignored (R150). -/
def operandOf (t : VType) (v : VecWord) (i : Nat) : Nat :=
  match t with
  | .bf16 => laneOf t v i % 2 ^ 16
  | _ => laneOf t v i

/-- The register whose lanes are the numbers of a list, lane 0 first. -/
def ofLanes (t : VType) : List Nat → Nat
  | [] => 0
  | n :: r => n % 2 ^ VType.laneWidth t + 2 ^ VType.laneWidth t * ofLanes t r

/-- Lane i is active under a mask (R151). -/
def activeLane (mask : Word) (i : Nat) : Bool := mask.getLsbD i

/-- Compute each active lane; an inactive one keeps its old value (R151). The flags of active lanes are ORed (R22). -/
def mapLanes (t : VType) (mask : Word) (old : VecWord) (f : Nat → Nat × FFlags) : VecWord × FFlags :=
  let r := (List.range (VType.lanes t)).map fun i => if activeLane mask i then f i else (laneOf t old i, noFlags)
  (BitVec.ofNat 512 (ofLanes t (r.map Prod.fst)), r.foldl (fun a p => a ||| p.2) noFlags)

/-- The same for effects that raise no flag. -/
def mapLanesQuiet (t : VType) (mask : Word) (old : VecWord) (f : Nat → Nat) : VecWord :=
  (mapLanes t mask old fun i => (f i, noFlags)).1

/-- The two-operand arithmetic forms (R156). -/
inductive ArithOp where
  | add | sub | mul | div | min | max
  deriving DecidableEq, Repr

/-- One lane of an arithmetic form (R156). -/
def arithLane (op : ArithOp) (t : VType) (a b : Nat) : Nat × FFlags :=
  if t.isFloat then
    let f := VType.floatFmt t
    match op with
    | .add => f.add a b | .sub => f.sub a b | .mul => f.mul a b | .div => f.div a b
    | .min => f.minMax false a b | .max => f.minMax true a b
  else
    let w := VType.laneWidth t
    let x := laneInt t.isSigned w a
    let y := laneInt t.isSigned w b
    match op with
    | .add => (wrapInt w (x + y), noFlags) | .sub => (wrapInt w (x - y), noFlags) | .mul => (wrapInt w (x * y), noFlags)
    | .div => (intDiv t.isSigned w a b, noFlags)
    | .min => (if x ≤ y then a else b, noFlags) | .max => (if x ≤ y then b else a, noFlags)

/-- `vfma` and `vfms` (R156). -/
def fmaLane (negative : Bool) (t : VType) (a b c : Nat) : Nat × FFlags :=
  if t.isFloat then (VType.floatFmt t).fma a b c negative
  else
    let w := VType.laneWidth t
    let p := laneInt t.isSigned w a * laneInt t.isSigned w b
    (wrapInt w (laneInt t.isSigned w c + (if negative then -p else p)), noFlags)

/-- `vabs` (R156). -/
def absLane (t : VType) (a : Nat) : Nat :=
  if t.isFloat then (VType.floatFmt t).absolute a
  else wrapInt (VType.laneWidth t) (laneInt t.isSigned (VType.laneWidth t) a).natAbs

/-- `vneg` (R156). -/
def negLane (t : VType) (a : Nat) : Nat :=
  if t.isFloat then (VType.floatFmt t).negate a
  else wrapInt (VType.laneWidth t) (-(laneInt t.isSigned (VType.laneWidth t) a))

/-- The logical forms act on every bit of a lane (R157). -/
inductive LogicOp where
  | and | or | xor
  deriving DecidableEq, Repr

def logicLane (op : LogicOp) (a b : Nat) : Nat :=
  match op with
  | .and => a &&& b | .or => a ||| b | .xor => a ^^^ b

/-- The shifts: the count is the low log2(w) bits of the lane (R157). -/
inductive ShiftOp where
  | left | right | arith
  deriving DecidableEq, Repr

def shiftLane (op : ShiftOp) (t : VType) (a b : Nat) : Nat :=
  let w := VType.laneWidth t
  let n := b % w
  match op with
  | .left => (a <<< n) % 2 ^ w
  | .right => a >>> n
  | .arith => wrapInt w (toSigned w a / 2 ^ n)

/-- `vcmp` in one lane (R158). -/
def compareLane (c : CmpCond) (t : VType) (a b : Nat) : Bool × FFlags :=
  if t.isFloat then (VType.floatFmt t).compare c a b
  else
    let x := laneInt t.isSigned (VType.laneWidth t) a
    let y := laneInt t.isSigned (VType.laneWidth t) b
    match c with
    | .eq => (x = y, noFlags) | .ne => (x ≠ y, noFlags) | .lt => (x < y, noFlags) | .le => (x ≤ y, noFlags)

/-- The reductions (R160). -/
inductive ReduceOp where
  | sum | max | min
  deriving DecidableEq, Repr

/-- The identity of a reduction (R160). -/
def reduceIdentity (op : ReduceOp) (t : VType) : Nat :=
  let w := VType.laneWidth t
  if t.isFloat then
    match op with
    | .sum => 0 | .max => (VType.floatFmt t).inf true | .min => (VType.floatFmt t).inf false
  else
    match op with
    | .sum => 0 | .max => wrapInt w (intMin t.isSigned w) | .min => wrapInt w (intMax t.isSigned w)

/-- One step of a reduction: accumulator, whether a lane and a lane that is no NaN was seen, and the flags so far (R160). -/
structure ReduceAcc where
  acc : Nat
  seen : Bool
  nonnan : Bool
  flags : FFlags
  deriving DecidableEq, Repr

def reduceStep (op : ReduceOp) (t : VType) (r : ReduceAcc) (a : Nat) : ReduceAcc :=
  match op with
  | .sum =>
    let (n, fl) := arithLane .add t r.acc a
    { acc := n, seen := true, nonnan := true, flags := r.flags ||| fl }
  | .max | .min =>
    let o : ArithOp := if op = .max then .max else .min
    if t.isFloat then
      let v := (VType.floatFmt t).decode a
      if v.isNan then { r with seen := true, flags := r.flags ||| FloatVal.nanFlags [v] }
      else { acc := (arithLane o t r.acc a).1, seen := true, nonnan := true, flags := r.flags }
    else { acc := (arithLane o t r.acc a).1, seen := true, nonnan := true, flags := r.flags }

/-- A reduction over the active lanes in increasing order, as a general register, with its flags (R160). -/
def reduceLanes (op : ReduceOp) (t : VType) (mask : Word) (v : VecWord) : Word × FFlags :=
  let start : ReduceAcc := { acc := reduceIdentity op t, seen := false, nonnan := false, flags := noFlags }
  let r := (List.range (VType.lanes t)).foldl
    (fun acc i => if activeLane mask i then reduceStep op t acc (operandOf t v i) else acc) start
  let acc := if op ≠ .sum && t.isFloat && r.seen && !r.nonnan then (VType.floatFmt t).nan else r.acc
  (if t.isSigned then BitVec.ofInt 64 (toSigned (VType.laneWidth t) acc) else BitVec.ofNat 64 acc, r.flags)

/-- One lane of `vcvt` (R162). -/
def convertLane (src dst : VType) (rm : RMode) (a : Nat) : Nat × FFlags :=
  let ws := VType.laneWidth src
  let wd := VType.laneWidth dst
  match src with
  | .mk8 =>
    if dst.isFloat then mk8ToFloat (VType.floatFmt dst) rm a
    else
      let (n, fl) := mk8ToInt rm a dst.isSigned wd
      (wrapInt wd n, fl)
  | .f32 | .bf16 | .f64 =>
    let f := VType.floatFmt src
    match dst with
    | .mk8 => f.toMk8 a
    | .f32 | .bf16 | .f64 => f.convert (VType.floatFmt dst) rm a
    | .i8 | .z8 | .i32 | .z32 | .i64 | .z64 =>
      let (n, fl) := f.toInt rm a dst.isSigned wd
      (wrapInt wd n, fl)
  | .i8 | .z8 | .i32 | .z32 | .i64 | .z64 =>
    let n := laneInt src.isSigned ws a
    match dst with
    | .mk8 => mk8Encode (n < 0) n.natAbs 1
    | .f32 | .bf16 | .f64 => (VType.floatFmt dst).ofInt rm n
    | .i8 | .z8 | .i32 | .z32 | .i64 | .z64 => (wrapInt wd n, noFlags)

end Sys2Proof.Machine
end

