-- ==== Sys2Proof/Config.lean ====
section
/-!
DEFINITION. What the spec leaves to an implementation or leaves open: constants without a body, of which nothing can be
proved but that they are what they are (DESIGN CHOICE, logs 2, 68 and 82). The spec's own fixed sizes are named where they are used.
-/
namespace Sys2Proof.Config

/-- The RSASSA-PSS signature of a message by the device identity key, 384 bytes (R285; DESIGN CHOICE, log 68). -/
opaque rsaSign : List Byte → BitVec 3072

/-- The SLH-DSA signature of a message by the device identity key, 16,224 bytes (R285; DESIGN CHOICE, log 68). -/
opaque slhSign : List Byte → BitVec 129792

/-- The certificate chain of the device identity keys, leaf first (R285; DESIGN CHOICE, log 68). -/
opaque certificates : List Byte

/-- The device serial number, 16 bytes (R285; DESIGN CHOICE, log 68). -/
opaque serial : BitVec 128

/-- Whether an endpoint of the domain is a host adapter (R275, R277; DESIGN CHOICE, log 68). -/
opaque isHost : BitVec 10 → Bool

/-- A value the spec does not state, fresh for each number (DESIGN CHOICE, log 2). -/
opaque freeWord : Nat → Word

/-- What a unit takes for an uncorrectable word that it reads for itself in a cycle, at a machine-physical address (DESIGN CHOICE, log 82). -/
opaque unreadable : Nat → Nat → Word

end Sys2Proof.Config
end

