-- ==== Sys2Proof/Decode.lean ====
section
/-!
DEFINITION. The decoder of Icrin words (R107 to R128, R335), total and refusing by name, and after it the encoder, written
from the same tables.
-/
namespace Sys2Proof

/-- Why a word is no instruction (R112, R335). -/
inductive DecodeError where
  /-- The major opcode is unassigned (R111). -/
  | unassignedOp
  /-- The minor fields name no form. -/
  | unassignedForm
  /-- A field the form does not use, or whose upper bits must be 0, is not 0 (R110). -/
  | unusedField
  /-- A type, format, scope or rounding code is reserved. -/
  | reservedCode
  /-- The fields are those of a form that refuses them (R153 and the forms' own limits). -/
  | form (e : FormError)
  deriving DecidableEq, Repr

/-- The six basic fields of a word (R107). -/
structure Fields where
  op : BitVec 7
  rd : BitVec 5
  f3 : BitVec 3
  rs1 : BitVec 5
  rs2 : BitVec 5
  f7 : BitVec 7
  deriving DecidableEq, Repr

namespace Fields

/-- The fields of a word: op [31:25], rd [24:20], f3 [19:17], rs1 [16:12], rs2 [11:7], f7 [6:0] (R107). -/
def ofWord (w : BitVec 32) : Fields where
  op := w.extractLsb' 25 7
  rd := w.extractLsb' 20 5
  f3 := w.extractLsb' 17 3
  rs1 := w.extractLsb' 12 5
  rs2 := w.extractLsb' 7 5
  f7 := w.extractLsb' 0 7

/-- The word of six fields (R107). -/
def toWord (f : Fields) : BitVec 32 := f.op ++ f.rd ++ f.f3 ++ f.rs1 ++ f.rs2 ++ f.f7

/-- The I-layout immediate [11:0] (R108). -/
def immI (f : Fields) : BitVec 12 := f.rs2 ++ f.f7

/-- The S- and B-layout immediate: [11:7] in rd, [6:0] in f7 (R108). -/
def immS (f : Fields) : BitVec 12 := f.rd ++ f.f7

/-- The U- and J-layout immediate [19:0] (R108). -/
def immU (f : Fields) : BitVec 20 := f.f3 ++ f.rs1 ++ f.rs2 ++ f.f7

/-- The type code [6:3] of a V-format word (R108). -/
def typeCode (f : Fields) : BitVec 4 := f.f7.extractLsb' 3 4

/-- The mask field [2:0] of a V-format word (R108). -/
def mask (f : Fields) : BitVec 3 := f.f7.extractLsb' 0 3

/-- The low bits of a register field (R110). -/
def rd4 (f : Fields) : BitVec 4 := f.rd.extractLsb' 0 4
def rs14 (f : Fields) : BitVec 4 := f.rs1.extractLsb' 0 4
def rs24 (f : Fields) : BitVec 4 := f.rs2.extractLsb' 0 4
def rd3 (f : Fields) : BitVec 3 := f.rd.extractLsb' 0 3
def rs13 (f : Fields) : BitVec 3 := f.rs1.extractLsb' 0 3
def rs23 (f : Fields) : BitVec 3 := f.rs2.extractLsb' 0 3

/-- Bit 4 of a register field, the selector bits of R110. -/
def rdTop (f : Fields) : Bool := f.rd.getLsbD 4
def rs1Top (f : Fields) : Bool := f.rs1.getLsbD 4
def rs2Top (f : Fields) : Bool := f.rs2.getLsbD 4

/-- Bits [4:3] of a register field are 0, as a 3-bit name requires (R110). -/
def rdSmall (f : Fields) : Bool := f.rd.extractLsb' 3 2 = 0#2
def rs1Small (f : Fields) : Bool := f.rs1.extractLsb' 3 2 = 0#2
def rs2Small (f : Fields) : Bool := f.rs2.extractLsb' 3 2 = 0#2

/-- Selector of VMISC: 2 rs2[4] + rd[4] (R119). -/
def sel (f : Fields) : Nat := 2 * f.rs2Top.toNat + f.rdTop.toNat

end Fields

abbrev Decoded := Except DecodeError Instr

/-- A form whose unused fields must be 0 (R110). -/
def Decoded.unless (zero : Bool) (i : Instr) : Decoded := if zero then .ok i else .error .unusedField

/-- Lane type codes (R117). -/
def VType.ofCode (c : BitVec 4) : Option VType :=
  match c.toNat with
  | 0 => some .i8 | 1 => some .z8 | 2 => some .mk8 | 4 => some .i32 | 5 => some .z32
  | 6 => some .f32 | 7 => some .bf16 | 8 => some .i64 | 9 => some .z64 | 10 => some .f64
  | _ => none

def VType.code : VType → BitVec 4
  | .i8 => 0#4 | .z8 => 1#4 | .mk8 => 2#4 | .i32 => 4#4 | .z32 => 5#4
  | .f32 => 6#4 | .bf16 => 7#4 | .i64 => 8#4 | .z64 => 9#4 | .f64 => 10#4

/-- Format codes of the matrix forms (R120). -/
def Fmt.ofCode (c : BitVec 3) : Option Fmt :=
  match c.toNat with
  | 0 => some .mk8 | 1 => some .bf16 | 2 => some .f32 | 3 => some .f64 | 4 => some .i8
  | _ => none

def Fmt.code : Fmt → BitVec 3
  | .mk8 => 0#3 | .bf16 => 1#3 | .f32 => 2#3 | .f64 => 3#3 | .i8 => 4#3

/-- Scope codes (R114). -/
def Scope.ofCode (c : BitVec 3) : Option Scope :=
  match c.toNat with
  | 0 => some .slot | 1 => some .core | 2 => some .comb | 3 => some .die | 4 => some .pkg | 5 => some .sys
  | _ => none

def Scope.code : Scope → BitVec 3
  | .slot => 0#3 | .core => 1#3 | .comb => 2#3 | .die => 3#3 | .pkg => 4#3 | .sys => 5#3

/-- Order codes (R114). -/
def Order.ofCode (c : BitVec 2) : Order :=
  match c.toNat with
  | 0 => .rlx | 1 => .acq | 2 => .rel | _ => .ar

def Order.code : Order → BitVec 2
  | .rlx => 0#2 | .acq => 1#2 | .rel => 2#2 | .ar => 3#2

/-- Rounding-mode codes (R21). -/
def RMode.ofCode (c : BitVec 3) : Option RMode :=
  match c.toNat with
  | 0 => some .rne | 1 => some .rz | 2 => some .rd | 3 => some .ru | 4 => some .rna
  | _ => none

def RMode.code : RMode → BitVec 3
  | .rne => 0#3 | .rz => 1#3 | .rd => 2#3 | .ru => 3#3 | .rna => 4#3

/-- Condition codes of `vcmp` (R119). -/
def CmpCond.ofCode (c : BitVec 2) : CmpCond :=
  match c.toNat with
  | 0 => .eq | 1 => .ne | 2 => .lt | _ => .le

def CmpCond.code : CmpCond → BitVec 2
  | .eq => 0#2 | .ne => 1#2 | .lt => 2#2 | .le => 3#2

/-- Chain form bit (R126). -/
def ChainForm.ofBit (b : Bool) : ChainForm := if b then .folded else .spread

def ChainForm.code : ChainForm → BitVec 1
  | .spread => 0#1 | .folded => 1#1

/-- Operation codes of the atomics (R115); 10 to 15 are unassigned. -/
def AmoOp.ofCode (c : BitVec 4) : Option AmoOp :=
  match c.toNat with
  | 0 => some .swap | 1 => some .add | 2 => some .and | 3 => some .or | 4 => some .xor
  | 5 => some .min | 6 => some .max | 7 => some .minn | 8 => some .maxn | 9 => some .cas
  | _ => none

def AmoOp.code : AmoOp → BitVec 4
  | .swap => 0#4 | .add => 1#4 | .and => 2#4 | .or => 3#4 | .xor => 4#4
  | .min => 5#4 | .max => 6#4 | .minn => 7#4 | .maxn => 8#4 | .cas => 9#4

/-- LOAD (R113). -/
def decodeLoad (f : Fields) : Decoded :=
  match f.f3.toNat with
  | 0 => .ok (.lb f.rd f.rs1 f.immI) | 1 => .ok (.lh f.rd f.rs1 f.immI)
  | 2 => .ok (.lw f.rd f.rs1 f.immI) | 3 => .ok (.ld f.rd f.rs1 f.immI)
  | 4 => .ok (.lbz f.rd f.rs1 f.immI) | 5 => .ok (.lhz f.rd f.rs1 f.immI)
  | 6 => .ok (.lwz f.rd f.rs1 f.immI) | _ => .ok (.ldAq f.rd f.rs1 f.immI)

/-- STORE (R113). -/
def decodeStore (f : Fields) : Decoded :=
  match f.f3.toNat with
  | 0 => .ok (.sb f.immS f.rs1 f.rs2) | 1 => .ok (.sh f.immS f.rs1 f.rs2)
  | 2 => .ok (.sw f.immS f.rs1 f.rs2) | 3 => .ok (.sd f.immS f.rs1 f.rs2)
  | 7 => .ok (.sdRl f.immS f.rs1 f.rs2)
  | _ => .error .unassignedForm

/-- The shift and unary forms of OPI f3 = 1 (R113). -/
def decodeOpi1 (f : Fields) : Decoded :=
  match (f.immI.extractLsb' 6 6).toNat with
  | 0 => .ok (.slli f.rd f.rs1 (f.immI.extractLsb' 0 6))
  | 0b100000 =>
    match (f.immI.extractLsb' 0 6).toNat with
    | 0 => .ok (.clz f.rd f.rs1) | 1 => .ok (.ctz f.rd f.rs1) | 2 => .ok (.popc f.rd f.rs1)
    | 3 => .ok (.sextw f.rd f.rs1) | 4 => .ok (.zextw f.rd f.rs1) | 5 => .ok (.rev8 f.rd f.rs1)
    | _ => .error .unassignedForm
  | _ => .error .unassignedForm

/-- OPI (R113). -/
def decodeOpi (f : Fields) : Decoded :=
  match f.f3.toNat with
  | 0 => .ok (.addi f.rd f.rs1 f.immI)
  | 1 => decodeOpi1 f
  | 2 => .ok (.slti f.rd f.rs1 f.immI)
  | 3 => .ok (.sltni f.rd f.rs1 f.immI)
  | 4 => .ok (.xori f.rd f.rs1 f.immI)
  | 5 =>
    match (f.immI.extractLsb' 6 6).toNat with
    | 0 => .ok (.srli f.rd f.rs1 (f.immI.extractLsb' 0 6))
    | 0b010000 => .ok (.srai f.rd f.rs1 (f.immI.extractLsb' 0 6))
    | _ => .error .unassignedForm
  | 6 => .ok (.ori f.rd f.rs1 f.immI)
  | _ => .ok (.andi f.rd f.rs1 f.immI)

/-- OP (R113). -/
def decodeOp (f : Fields) : Decoded :=
  match f.f7.toNat, f.f3.toNat with
  | 0x00, 0 => .ok (.add f.rd f.rs1 f.rs2) | 0x00, 1 => .ok (.sll f.rd f.rs1 f.rs2)
  | 0x00, 2 => .ok (.slt f.rd f.rs1 f.rs2) | 0x00, 3 => .ok (.sltn f.rd f.rs1 f.rs2)
  | 0x00, 4 => .ok (.xor f.rd f.rs1 f.rs2) | 0x00, 5 => .ok (.srl f.rd f.rs1 f.rs2)
  | 0x00, 6 => .ok (.or f.rd f.rs1 f.rs2) | 0x00, 7 => .ok (.and f.rd f.rs1 f.rs2)
  | 0x20, 0 => .ok (.sub f.rd f.rs1 f.rs2) | 0x20, 5 => .ok (.sra f.rd f.rs1 f.rs2)
  | 0x20, 6 => .ok (.orn f.rd f.rs1 f.rs2) | 0x20, 7 => .ok (.andn f.rd f.rs1 f.rs2)
  | 0x05, 4 => .ok (.min f.rd f.rs1 f.rs2) | 0x05, 5 => .ok (.max f.rd f.rs1 f.rs2)
  | 0x05, 6 => .ok (.minn f.rd f.rs1 f.rs2) | 0x05, 7 => .ok (.maxn f.rd f.rs1 f.rs2)
  | _, _ => .error .unassignedForm

/-- MULDIV (R113). -/
def decodeMuldiv (f : Fields) : Decoded :=
  if f.f7 = 0#7 then
    match f.f3.toNat with
    | 0 => .ok (.mul f.rd f.rs1 f.rs2) | 1 => .ok (.mulh f.rd f.rs1 f.rs2) | 2 => .ok (.mulhn f.rd f.rs1 f.rs2)
    | 4 => .ok (.div f.rd f.rs1 f.rs2) | 5 => .ok (.divn f.rd f.rs1 f.rs2)
    | 6 => .ok (.rem f.rd f.rs1 f.rs2) | 7 => .ok (.remn f.rd f.rs1 f.rs2)
    | _ => .error .unassignedForm
  else .error .unassignedForm

/-- BRANCH (R113). -/
def decodeBranch (f : Fields) : Decoded :=
  match f.f3.toNat with
  | 0 => .ok (.beq f.immS f.rs1 f.rs2) | 1 => .ok (.bne f.immS f.rs1 f.rs2)
  | 4 => .ok (.blt f.immS f.rs1 f.rs2) | 5 => .ok (.bge f.immS f.rs1 f.rs2)
  | 6 => .ok (.bltn f.immS f.rs1 f.rs2) | 7 => .ok (.bgen f.immS f.rs1 f.rs2)
  | _ => .error .unassignedForm

/-- FENCE (R116). -/
def decodeFence (f : Fields) : Decoded :=
  match f.f3.toNat with
  | 0 | 1 =>
    if f.rd = 0#5 ∧ f.rs1 = 0#5 ∧ f.immI.extractLsb' 3 9 = 0#9 then
      match Scope.ofCode (f.immI.extractLsb' 0 3) with
      | some c => if f.f3 = 0#3 then .ok (.fence c) else .ok (.fenceK c)
      | none => .error .reservedCode
    else .error .unusedField
  | _ => .error .unassignedForm

/-- ATOM (R115). -/
def decodeAtom (f : Fields) : Decoded :=
  if f.f7.getLsbD 0 then .error .unusedField
  else
    match AmoOp.ofCode (f.f7.extractLsb' 3 4), Scope.ofCode f.f3 with
    | none, _ => .error .unassignedForm
    | _, none => .error .reservedCode
    | some op, some c =>
      let o := Order.ofCode (f.f7.extractLsb' 1 2)
      match op with
      | .swap => .ok (.amoswap f.rd c f.rs1 f.rs2 o) | .add => .ok (.amoadd f.rd c f.rs1 f.rs2 o)
      | .and => .ok (.amoand f.rd c f.rs1 f.rs2 o) | .or => .ok (.amoor f.rd c f.rs1 f.rs2 o)
      | .xor => .ok (.amoxor f.rd c f.rs1 f.rs2 o) | .min => .ok (.amomin f.rd c f.rs1 f.rs2 o)
      | .max => .ok (.amomax f.rd c f.rs1 f.rs2 o) | .minn => .ok (.amominn f.rd c f.rs1 f.rs2 o)
      | .maxn => .ok (.amomaxn f.rd c f.rs1 f.rs2 o) | .cas => .ok (.amocas f.rd c f.rs1 f.rs2 o)

/-- SYNC (R113). -/
def decodeSync (f : Fields) : Decoded :=
  match f.f3.toNat with
  | 0 => .ok (.ldfe f.rd f.rs1 f.immI) | 1 => .ok (.ldff f.rd f.rs1 f.immI) | 2 => .ok (.ldfx f.rd f.rs1 f.immI)
  | 3 => .ok (.sdef f.immS f.rs1 f.rs2) | 4 => .ok (.sdff f.immS f.rs1 f.rs2)
  | 5 => Decoded.unless (f.rd = 0#5) (.fempty f.rs1 f.immI)
  | 6 => .ok (.fstate f.rd f.rs1 f.immI)
  | _ => .error .unassignedForm

/-- A V-format word whose type is not reserved (R117). -/
def withType (f : Fields) (k : VType → Decoded) : Decoded :=
  match VType.ofCode f.typeCode with
  | some t => k t
  | none => .error .reservedCode

/-- VLOAD (R118). -/
def decodeVload (f : Fields) : Decoded :=
  withType f fun t =>
    match f.f3.toNat with
    | 0 => Decoded.unless (!f.rdTop && f.rs2 = 0#5) (.vld f.rd4 f.rs1 t f.mask)
    | 1 => Decoded.unless (!f.rdTop) (.vlds f.rd4 f.rs1 f.rs2 t f.mask)
    | 2 => Decoded.unless (!f.rdTop && !f.rs2Top) (.vldx f.rd4 f.rs1 f.rs24 t f.mask)
    | _ => .error .unassignedForm

/-- VSTORE (R118). -/
def decodeVstore (f : Fields) : Decoded :=
  withType f fun t =>
    match f.f3.toNat with
    | 0 => Decoded.unless (!f.rdTop && f.rs2 = 0#5) (.vst f.rd4 f.rs1 t f.mask)
    | 1 => Decoded.unless (!f.rdTop) (.vsts f.rd4 f.rs1 f.rs2 t f.mask)
    | 2 => Decoded.unless (!f.rdTop && !f.rs2Top) (.vstx f.rd4 f.rs1 f.rs24 t f.mask)
    | _ => .error .unassignedForm

/-- VARITH (R118). -/
def decodeVarith (f : Fields) : Decoded :=
  withType f fun t =>
    if f.rdTop || f.rs1Top || f.rs2Top then .error .unusedField
    else
      match f.f3.toNat with
      | 0 => .ok (.vadd f.rd4 f.rs14 f.rs24 t f.mask) | 1 => .ok (.vsub f.rd4 f.rs14 f.rs24 t f.mask)
      | 2 => .ok (.vmul f.rd4 f.rs14 f.rs24 t f.mask) | 3 => .ok (.vdiv f.rd4 f.rs14 f.rs24 t f.mask)
      | 4 => .ok (.vmin f.rd4 f.rs14 f.rs24 t f.mask) | 5 => .ok (.vmax f.rd4 f.rs14 f.rs24 t f.mask)
      | 6 => .ok (.vfma f.rd4 f.rs14 f.rs24 t f.mask) | _ => .ok (.vfms f.rd4 f.rs14 f.rs24 t f.mask)

/-- The unary group of VMISC, f3 = 6 (R119). -/
def decodeVunary (f : Fields) (t : VType) : Decoded :=
  let vecUnary := !f.rdTop && !f.rs1Top
  let maskForm := f.typeCode = 0#4 && f.rs1Small
  match f.rs2.toNat with
  | 0 => Decoded.unless vecUnary (.vabs f.rd4 f.rs14 t f.mask)
  | 1 => Decoded.unless vecUnary (.vneg f.rd4 f.rs14 t f.mask)
  | 2 => Decoded.unless vecUnary (.vsqrt f.rd4 f.rs14 t f.mask)
  | 3 => Decoded.unless (!f.rs1Top) (.vredsum f.rd f.rs14 t f.mask)
  | 4 => Decoded.unless (!f.rs1Top) (.vredmax f.rd f.rs14 t f.mask)
  | 5 => Decoded.unless (!f.rs1Top) (.vredmin f.rd f.rs14 t f.mask)
  | 6 => Decoded.unless (!f.rdTop) (.vbcast f.rd4 f.rs1 t f.mask)
  | 7 => Decoded.unless (!f.rs1Top && f.mask = 0#3) (.vmvx f.rd f.rs14 t)
  | 8 => Decoded.unless (maskForm && f.rdSmall) (.mand f.rd3 f.rs13 f.mask)
  | 9 => Decoded.unless (maskForm && f.rdSmall) (.mor f.rd3 f.rs13 f.mask)
  | 10 => Decoded.unless (maskForm && f.rdSmall && f.mask = 0#3) (.mnot f.rd3 f.rs13)
  | 11 => Decoded.unless (maskForm && f.mask = 0#3) (.vpopm f.rd f.rs13)
  | _ => .error .unassignedForm

/-- `vcvt`: rm = (rs1[4], rd[4], rs2[4]), source type in rs2[3:0] (R119, R162). -/
def decodeVcvt (f : Fields) (t : VType) : Decoded :=
  match RMode.ofCode (f.rs1.extractLsb' 4 1 ++ f.rd.extractLsb' 4 1 ++ f.rs2.extractLsb' 4 1),
      VType.ofCode f.rs24 with
  | some rm, some src => .ok (.vcvt f.rd4 f.rs14 src t rm f.mask)
  | _, _ => .error .reservedCode

/-- VMISC (R119). -/
def decodeVmisc (f : Fields) : Decoded :=
  withType f fun t =>
    match f.f3.toNat with
    | 0 =>
      if f.rs1Top then .error .unusedField
      else
        match f.sel with
        | 0 => .ok (.vand f.rd4 f.rs14 f.rs24 t f.mask) | 1 => .ok (.vor f.rd4 f.rs14 f.rs24 t f.mask)
        | 2 => .ok (.vxor f.rd4 f.rs14 f.rs24 t f.mask) | _ => .error .unassignedForm
    | 1 =>
      if f.rs1Top then .error .unusedField
      else
        match f.sel with
        | 0 => .ok (.vshl f.rd4 f.rs14 f.rs24 t f.mask) | 1 => .ok (.vshr f.rd4 f.rs14 f.rs24 t f.mask)
        | 2 => .ok (.vsra f.rd4 f.rs14 f.rs24 t f.mask) | _ => .error .unassignedForm
    | 2 =>
      Decoded.unless (!f.rs1Top && !f.rs2Top)
        (.vcmp (CmpCond.ofCode (f.rd.extractLsb' 3 2)) f.rd3 f.rs14 f.rs24 t f.mask)
    | 3 => if f.sel = 0 then Decoded.unless (!f.rs1Top) (.vsel f.rd4 f.rs14 f.rs24 t f.mask) else .error .unassignedForm
    | 4 => if f.sel = 0 then Decoded.unless (!f.rs1Top) (.vperm f.rd4 f.rs14 f.rs24 t f.mask) else .error .unassignedForm
    | 5 => if f.rdTop then .error .unassignedForm else Decoded.unless (!f.rs1Top) (.vslide f.rd4 f.rs14 f.rs2 t f.mask)
    | 6 => decodeVunary f t
    | _ => decodeVcvt f t

/-- The fields of the M format: [11:9] za, [8:6] ring A, [5:3] ring B, [2:0] fmt (R108). -/
def Fields.zaTop (f : Fields) : Bool := f.immI.getLsbD 11
def Fields.za (f : Fields) : BitVec 2 := f.immI.extractLsb' 9 2
def Fields.ringA (f : Fields) : BitVec 3 := f.immI.extractLsb' 6 3
def Fields.ringB (f : Fields) : BitVec 3 := f.immI.extractLsb' 3 3
def Fields.fmtCode (f : Fields) : BitVec 3 := f.immI.extractLsb' 0 3

/-- A matrix word whose format is not reserved (R120). -/
def withFmt (f : Fields) (k : Fmt → Decoded) : Decoded :=
  match Fmt.ofCode f.fmtCode with
  | some t => k t
  | none => .error .reservedCode

/-- MATRIX (R120). -/
def decodeMatrix (f : Fields) : Decoded :=
  let noPops := f.rd = 0#5
  let noRs1 := f.rs1 = 0#5
  let noRings := f.ringA = 0#3 && f.ringB = 0#3
  let noFmt := f.fmtCode = 0#3
  if f.zaTop then .error .unusedField
  else
    match f.f3.toNat with
    | 0 =>
      withFmt f fun t =>
        Decoded.unless (f.rdSmall && noRs1)
          (.mmac f.za f.ringA f.ringB t (f.rd.getLsbD 0) (f.rd.getLsbD 1) (f.rd.getLsbD 2))
    | 1 =>
      withFmt f fun t =>
        Decoded.unless f.rdSmall
          (.mmacs f.za f.ringA f.ringB f.rs1 t (f.rd.getLsbD 0) (f.rd.getLsbD 1) (f.rd.getLsbD 2))
    | 2 => Decoded.unless (noPops && noRs1 && noRings && noFmt) (.mzero f.za)
    | 3 => withFmt f fun t => Decoded.unless (noPops && noRings) (.mldz f.rs1 f.za t)
    | 4 => withFmt f fun t => Decoded.unless (noPops && noRings) (.mstz f.rs1 f.za t)
    | 5 => Decoded.unless (noPops && noRs1 && f.za = 0#2 && f.ringB = 0#3 && noFmt) (.mscl f.ringA)
    | 6 => Decoded.unless (noPops && noRs1 && noRings && noFmt) (.macq f.za)
    | _ => Decoded.unless (noPops && noRs1 && noRings && noFmt) (.mrel f.za)

/-- The repetition forms of RING, f3 = 6 (R121). -/
def decodeRepeat (f : Fields) : Decoded :=
  match f.f7.toNat with
  | 0 => Decoded.unless (f.rd = 0#5 && f.rs1 = 0#5 && f.rs2 = 0#5) .rpbeg
  | 1 => Decoded.unless (f.rd = 0#5 && f.rs1 = 0#5 && f.rs2 = 0#5) .rpend
  | 2 => Decoded.unless (f.rd = 0#5 && !f.rs2Top) (.rpgo f.rs1 f.rs24)
  | 3 => Decoded.unless (f.rd = 0#5 && !f.rs2Top) (.rpgoa f.rs1 f.rs24)
  | 4 => Decoded.unless (f.rd = 0#5 && f.rs1 = 0#5 && f.rs2 = 0#5) .rpjoin
  | _ => .error .unassignedForm

/-- RING (R121). -/
def decodeRing (f : Fields) : Decoded :=
  let plain := f.f7 = 0#7 && f.rs2 = 0#5
  match f.f3.toNat with
  | 0 => Decoded.unless (plain && f.rdSmall) (.rgset f.rd3 f.rs1)
  | 1 => Decoded.unless (plain && f.rdSmall && f.rs1 = 0#5) (.rgwf f.rd3)
  | 2 => Decoded.unless (plain && f.rdSmall && f.rs1 = 0#5) (.rgwe f.rd3)
  | 3 => Decoded.unless (plain && f.rdSmall && f.rs1 = 0#5) (.rghd f.rd3)
  | 4 => Decoded.unless (plain && f.rdSmall && f.rs1 = 0#5) (.rgtl f.rd3)
  | 5 => Decoded.unless (plain && f.rs1Small) (.rgrd f.rd f.rs13)
  | 6 => decodeRepeat f
  | _ => .error .unassignedForm

/-- LABEL, f3 = 0 (R122). -/
def decodeLabel0 (f : Fields) : Decoded :=
  match f.f7.toNat with
  | 0 => Decoded.unless (f.rdSmall && f.rs2 = 0#5) (.lbroot f.rd3 f.rs1)
  | 1 => Decoded.unless (f.rdSmall && f.rs1Small) (.lbkid f.rd3 f.rs13 f.rs2)
  | 2 => Decoded.unless (f.rdSmall && f.rs1Small && f.rs2 = 0#5) (.lbapp f.rd3 f.rs13)
  | 3 => Decoded.unless (f.rdSmall && f.rs1Small && f.rs2 = 0#5) (.lbins f.rd3 f.rs13)
  | 4 => Decoded.unless (f.rd = 0#5 && f.rs1Small && f.rs2 = 0#5) (.lbdel f.rs13)
  | 5 => Decoded.unless (f.rs1Small && f.rs2Small) (.lbanc f.rd f.rs13 f.rs23)
  | 6 => Decoded.unless (f.rs1Small && f.rs2Small) (.lbcmp f.rd f.rs13 f.rs23)
  | 7 => Decoded.unless (f.rdSmall && f.rs1Small && f.rs2 = 0#5) (.lbpar f.rd3 f.rs13)
  | 8 => Decoded.unless (f.rs1Small && f.rs2 = 0#5) (.lbdep f.rd f.rs13)
  | 9 => Decoded.unless (f.rs1Small && f.rs2 = 0#5) (.lbres f.rd f.rs13)
  | 10 => Decoded.unless (f.rdSmall && f.rs1Small && f.rs2Small) (.lbmov f.rd3 f.rs13 f.rs23)
  | 11 => Decoded.unless (f.rdSmall && f.rs1 = 0#5 && f.rs2 = 0#5) (.lbfix f.rd3)
  | 12 => Decoded.unless (f.rdSmall && f.rs1Small && f.rs2 = 0#5) (.lbcp f.rd3 f.rs13)
  | 13 => Decoded.unless (f.rdSmall && f.rs2 = 0#5) (.lblm f.rd3 f.rs1)
  | 14 => Decoded.unless (f.rd = 0#5 && f.rs2Small) (.lbsm f.rs1 f.rs23)
  | 15 => Decoded.unless (f.rs1Small && f.rs2.extractLsb' 1 4 = 0#4) (.lbxg f.rd f.rs13 (f.rs2.extractLsb' 0 1))
  | _ => .error .unassignedForm

/-- LABEL (R122). -/
def decodeLabel (f : Fields) : Decoded :=
  match f.f3.toNat with
  | 0 => decodeLabel0 f
  | 1 => Decoded.unless f.rs1Small (.lbld f.rd f.rs13 f.immI)
  | 2 => Decoded.unless f.rs1Small (.lbst f.immS f.rs13 f.rs2)
  | _ => .error .unassignedForm

/-- KEYSCAN (R123). -/
def decodeKeyscan (f : Fields) : Decoded :=
  match f.f3.toNat with
  | 0 => Decoded.unless f.rs1Small (.kfirst f.rd f.rs13 f.immI)
  | 1 => Decoded.unless f.rs1Small (.knext f.rd f.rs13 f.immI)
  | 2 => Decoded.unless f.rs1Small (.kredI32 f.rd f.rs13 f.immI)
  | 3 => Decoded.unless f.rs1Small (.kredI64 f.rd f.rs13 f.immI)
  | 4 => Decoded.unless f.rs1Small (.kredF32 f.rd f.rs13 f.immI)
  | 5 => Decoded.unless f.rs1Small (.kredF64 f.rd f.rs13 f.immI)
  | _ => .error .unassignedForm

/-- SPARSE (R123). -/
def decodeSparse (f : Fields) : Decoded :=
  match f.f3.toNat with
  | 0 => Decoded.unless f.rdSmall (.skey f.rd3 f.rs1 f.immI)
  | 1 => Decoded.unless f.rs1Small (.sld f.rd f.rs13 f.immI)
  | 2 => Decoded.unless f.rs1Small (.sst f.rd f.rs13 f.immI)
  | 3 => Decoded.unless f.rs1Small (.sadd f.rd f.rs13 f.immI)
  | 4 => Decoded.unless f.rs1Small (.scoord f.rd f.rs13 f.immI)
  | _ => .error .unassignedForm

/-- THREAD (R124). -/
def decodeThread (f : Fields) : Decoded :=
  if f.rd = 0#5 then
    match f.f3.toNat with
    | 0 => .ok (.spawn f.rs1 f.immI)
    | 1 => Decoded.unless (f.rs1 = 0#5 && f.immI = 0#12) .sret
    | 2 => Decoded.unless (f.immI = 0#12) (.sync f.rs1)
    | 3 => Decoded.unless (f.rs1 = 0#5 && f.immI = 0#12) .yield
    | 4 => Decoded.unless (f.immI = 0#12) (.hop f.rs1)
    | 5 => Decoded.unless f.rs1Small (.hopk f.rs13 f.immI)
    | 6 => Decoded.unless (f.immI = 0#12) (.ganggo f.rs1)
    | _ =>
      match (f.immI.extractLsb' 2 10).toNat with
      | 0 => Decoded.unless (f.rs1 = 0#5) (.gbar (f.immI.extractLsb' 0 2))
      | 4 => if f.immI.extractLsb' 0 2 = 0#2 then Decoded.unless (f.rs1 = 0#5) .stop else .error .unassignedForm
      | _ => .error .unassignedForm
  else .error .unusedField

/-- MESSAGE (R125). -/
def decodeMessage (f : Fields) : Decoded :=
  let cls := f.f7.extractLsb' 0 3
  let send := f.f7.extractLsb' 3 4 = 0#4
  let word := f.f7.extractLsb' 0 2
  let box := f.f7.extractLsb' 2 5 = 0#5 && f.rs1Small
  match f.f3.toNat with
  | 0 => Decoded.unless (send && f.rd = 0#5) (.msend f.rs1 f.rs2 cls)
  | 1 => Decoded.unless send (.msendnb f.rd f.rs1 f.rs2 cls)
  | 2 => Decoded.unless (f.rd = 0#5 && f.rs1 = 0#5 && f.immI = 0#12) .mdone
  | 3 => Decoded.unless (box && f.rd = 0#5) (.mbput f.rs13 f.rs2 word)
  | 4 => Decoded.unless (box && f.rs2 = 0#5) (.mbget f.rd f.rs13 word)
  | _ => .error .unassignedForm

/-- CHAIN (R126). -/
def decodeChain (f : Fields) : Decoded :=
  match f.f3.toNat with
  | 0 => Decoded.unless (f.rd = 0#5 && f.f7.extractLsb' 1 6 = 0#6) (.chgo f.rs1 f.rs2 (ChainForm.ofBit (f.f7.getLsbD 0)))
  | 1 => Decoded.unless (f.rs1 = 0#5) (.get f.rd f.immI)
  | 2 => Decoded.unless (f.rd = 0#5 && f.immI = 0#12) (.put f.rs1)
  | 3 => Decoded.unless (!f.rdTop && f.rs1 = 0#5) (.vget f.rd4 f.immI)
  | 4 => Decoded.unless (f.rd = 0#5 && !f.rs1Top && f.immI = 0#12) (.vput f.rs14)
  | 5 => Decoded.unless (f.rd = 0#5 && f.rs1 = 0#5 && f.immI = 0#12) .chend
  | _ => .error .unassignedForm

/-- MOVE (R127). -/
def decodeMove (f : Fields) : Decoded :=
  let ch := f.f3.extractLsb' 0 2
  if f.f3.getLsbD 2 then .error .unusedField
  else
    match f.f7.toNat with
    | 0 => .ok (.mvcp f.rd ch f.rs1 f.rs2) | 1 => .ok (.mv2d f.rd ch f.rs1 f.rs2)
    | 2 => .ok (.mvgth f.rd ch f.rs1 f.rs2) | 3 => .ok (.mvsct f.rd ch f.rs1 f.rs2)
    | 4 => .ok (.mvfill f.rd ch f.rs1 f.rs2) | 5 => .ok (.mvget f.rd ch f.rs1 f.rs2)
    | 6 => .ok (.mvput f.rd ch f.rs1 f.rs2) | 7 => .ok (.mvamo f.rd ch f.rs1 f.rs2)
    | 8 => .ok (.mvring f.rd ch f.rs1 f.rs2) | 9 => .ok (.sdense f.rd ch f.rs1 f.rs2)
    | 10 => .ok (.ssparse f.rd ch f.rs1 f.rs2)
    | 16 => Decoded.unless (f.rd = 0#5 && f.rs2 = 0#5) (.mvwait ch f.rs1)
    | 17 => Decoded.unless (f.rs1 = 0#5 && f.rs2 = 0#5) (.mvid f.rd ch)
    | _ => .error .unassignedForm

/-- SYSTEM (R128). -/
def decodeSystem (f : Fields) : Decoded :=
  match f.f3.toNat with
  | 0 =>
    match f.immI.toNat with
    | 0 => Decoded.unless (f.rd = 0#5 && f.rs1 = 0#5) .ecall
    | 1 => Decoded.unless (f.rd = 0#5 && f.rs1 = 0#5) .ebreak
    | 2 => Decoded.unless (f.rd = 0#5 && f.rs1 = 0#5) .xret
    | 3 => Decoded.unless (f.rd = 0#5 && f.rs1 = 0#5) .wfm
    | 4 => Decoded.unless (f.rd = 0#5 && f.rs1 = 0#5) .fenceI
    | _ => .error .unassignedForm
  | 1 => Decoded.unless (f.rs1 = 0#5) (.srd f.rd f.immI)
  | 2 => .ok (.swr f.rd f.rs1 f.immI)
  | 3 => .ok (.sset f.rd f.rs1 f.immI)
  | 4 => .ok (.sclr f.rd f.rs1 f.immI)
  | 5 =>
    match f.f7.toNat with
    | 0 => Decoded.unless (f.rd = 0#5) (.tlbinv f.rs1 f.rs2)
    | 1 => Decoded.unless (f.rd = 0#5) (.dtwr f.rs1 f.rs2)
    | 2 => Decoded.unless (f.rd = 0#5) (.dtrd f.rs1 f.rs2)
    | 3 => Decoded.unless (f.rd = 0#5 && f.rs2 = 0#5) (.wake f.rs1)
    | 4 => Decoded.unless (f.rd = 0#5 && f.rs2Small) (.mbind f.rs1 f.rs23)
    | 5 => Decoded.unless (f.rd = 0#5 && f.rs2.extractLsb' 1 4 = 0#4) (.chsw f.rs1 (ChainForm.ofBit (f.rs2.getLsbD 0)))
    | 6 => .ok (.pshare f.rd f.rs1 f.rs2)
    | _ => .error .unassignedForm
  | _ => .error .unassignedForm

/-- The groups by major opcode (R111). -/
def decodeFields (f : Fields) : Decoded :=
  match f.op.toNat with
  | 0x01 => decodeLoad f
  | 0x02 => decodeStore f
  | 0x03 => decodeOpi f
  | 0x04 => decodeOp f
  | 0x05 => decodeMuldiv f
  | 0x06 => .ok (.lhi f.rd f.immU)
  | 0x07 => .ok (.apc f.rd f.immU)
  | 0x08 => .ok (.jal f.rd f.immU)
  | 0x09 => if f.f3 = 0#3 then .ok (.jalr f.rd f.rs1 f.immI) else .error .unassignedForm
  | 0x0A => decodeBranch f
  | 0x0B => decodeFence f
  | 0x0C => decodeAtom f
  | 0x0D => decodeSync f
  | 0x10 => decodeVload f
  | 0x11 => decodeVstore f
  | 0x12 => decodeVarith f
  | 0x13 => decodeVmisc f
  | 0x18 => decodeMatrix f
  | 0x19 => decodeRing f
  | 0x20 => decodeLabel f
  | 0x21 => decodeKeyscan f
  | 0x22 => decodeSparse f
  | 0x28 => decodeThread f
  | 0x29 => decodeMessage f
  | 0x2A => decodeChain f
  | 0x30 => decodeMove f
  | 0x38 => decodeSystem f
  | _ => .error .unassignedOp

/-- The decoder: the instruction of a word, or the name of what is wrong with it (R112). -/
def decode (w : BitVec 32) : Decoded :=
  match decodeFields (Fields.ofWord w) with
  | .ok i =>
    match i.formError with
    | none => .ok i
    | some e => .error (.form e)
  | .error e => .error e

/-- The word that four bytes hold, least significant byte at the lowest address (R107). -/
def wordOfBytes (b0 b1 b2 b3 : Byte) : BitVec 32 := b3 ++ b2 ++ b1 ++ b0

/-- The bytes of a word as memory holds them, lowest address first (R107). -/
def bytesOfWord (w : BitVec 32) : List Byte :=
  [w.extractLsb' 0 8, w.extractLsb' 8 8, w.extractLsb' 16 8, w.extractLsb' 24 8]

/-- The decoder on bytes: the instruction of the first four and the bytes after them. -/
def decodeBytes : List Byte → Except DecodeError (Instr × List Byte)
  | b0 :: b1 :: b2 :: b3 :: rest => (decode (wordOfBytes b0 b1 b2 b3)).map fun i => (i, rest)
  | _ => .error .unassignedOp

/-- The instruction of the opcode table's word `w` of `nbits` bits: the bytes are laid out as memory holds them, bits above
`nbits` are 0, and the decoder reads them. Every Icrin word has 32 bits (R107). -/
def decodeTableWord (nbits w : Nat) : Option Instr :=
  match decodeBytes (bytesOfWord (BitVec.ofNat 32 (w % 2 ^ nbits))) with
  | .ok (i, _) => if nbits ≤ 32 then some i else none
  | .error _ => none

/-! The encoder, from the formats of R108. -/

/-- R format. -/
def encR (op : BitVec 7) (rd : BitVec 5) (f3 : BitVec 3) (rs1 rs2 : BitVec 5) (f7 : BitVec 7) : BitVec 32 :=
  Fields.toWord ⟨op, rd, f3, rs1, rs2, f7⟩

/-- I format. -/
def encI (op : BitVec 7) (rd : BitVec 5) (f3 : BitVec 3) (rs1 : BitVec 5) (imm : BitVec 12) : BitVec 32 :=
  encR op rd f3 rs1 (imm.extractLsb' 7 5) (imm.extractLsb' 0 7)

/-- S and B formats. -/
def encS (op : BitVec 7) (f3 : BitVec 3) (imm : BitVec 12) (rs1 rs2 : BitVec 5) : BitVec 32 :=
  encR op (imm.extractLsb' 7 5) f3 rs1 rs2 (imm.extractLsb' 0 7)

/-- U and J formats. -/
def encU (op : BitVec 7) (rd : BitVec 5) (imm : BitVec 20) : BitVec 32 :=
  encR op rd (imm.extractLsb' 17 3) (imm.extractLsb' 12 5) (imm.extractLsb' 7 5) (imm.extractLsb' 0 7)

/-- V format. -/
def encV (op : BitVec 7) (rd : BitVec 5) (f3 : BitVec 3) (rs1 rs2 : BitVec 5) (t : VType) (m : BitVec 3) : BitVec 32 :=
  encR op rd f3 rs1 rs2 (t.code ++ m)

/-- M format: pop field in rd, za, rings and format in [11:0]. -/
def encM (rd : BitVec 5) (f3 : BitVec 3) (rs1 : BitVec 5) (z : BitVec 2) (a b f : BitVec 3) : BitVec 32 :=
  encI 0x18#7 rd f3 rs1 (0#1 ++ z ++ a ++ b ++ f)

/-- ATOM words: operation, order and a 0 in [6:0]. -/
def encA (op : AmoOp) (d : BitVec 5) (c : Scope) (s t : BitVec 5) (o : Order) : BitVec 32 :=
  encR 0x0C#7 d c.code s t (op.code ++ o.code ++ 0#1)

/-- A 4-bit register number, bit 4 of its field 0 (R110). -/
def wide4 (r : BitVec 4) : BitVec 5 := 0#1 ++ r

/-- A 3-bit register number, bits [4:3] of its field 0 (R110). -/
def wide3 (r : BitVec 3) : BitVec 5 := 0#2 ++ r

/-- The pop field: bit 20 ring A, bit 21 ring B, bit 22 the scale ring (R120). -/
def popField (pa pb ps : Bool) : BitVec 5 := 0#2 ++ BitVec.ofBool ps ++ BitVec.ofBool pb ++ BitVec.ofBool pa

/-- The word of an instruction; an event has none (R107). -/
def encode : Instr → Option (BitVec 32)
  | .lb d s i => some (encI 0x01#7 d 0#3 s i)
  | .lh d s i => some (encI 0x01#7 d 1#3 s i)
  | .lw d s i => some (encI 0x01#7 d 2#3 s i)
  | .ld d s i => some (encI 0x01#7 d 3#3 s i)
  | .lbz d s i => some (encI 0x01#7 d 4#3 s i)
  | .lhz d s i => some (encI 0x01#7 d 5#3 s i)
  | .lwz d s i => some (encI 0x01#7 d 6#3 s i)
  | .ldAq d s i => some (encI 0x01#7 d 7#3 s i)
  | .sb i s t => some (encS 0x02#7 0#3 i s t)
  | .sh i s t => some (encS 0x02#7 1#3 i s t)
  | .sw i s t => some (encS 0x02#7 2#3 i s t)
  | .sd i s t => some (encS 0x02#7 3#3 i s t)
  | .sdRl i s t => some (encS 0x02#7 7#3 i s t)
  | .addi d s i => some (encI 0x03#7 d 0#3 s i)
  | .slli d s h => some (encI 0x03#7 d 1#3 s (0b000000#6 ++ h))
  | .clz d s => some (encI 0x03#7 d 1#3 s (0b100000#6 ++ 0#6))
  | .ctz d s => some (encI 0x03#7 d 1#3 s (0b100000#6 ++ 1#6))
  | .popc d s => some (encI 0x03#7 d 1#3 s (0b100000#6 ++ 2#6))
  | .sextw d s => some (encI 0x03#7 d 1#3 s (0b100000#6 ++ 3#6))
  | .zextw d s => some (encI 0x03#7 d 1#3 s (0b100000#6 ++ 4#6))
  | .rev8 d s => some (encI 0x03#7 d 1#3 s (0b100000#6 ++ 5#6))
  | .slti d s i => some (encI 0x03#7 d 2#3 s i)
  | .sltni d s i => some (encI 0x03#7 d 3#3 s i)
  | .xori d s i => some (encI 0x03#7 d 4#3 s i)
  | .srli d s h => some (encI 0x03#7 d 5#3 s (0b000000#6 ++ h))
  | .srai d s h => some (encI 0x03#7 d 5#3 s (0b010000#6 ++ h))
  | .ori d s i => some (encI 0x03#7 d 6#3 s i)
  | .andi d s i => some (encI 0x03#7 d 7#3 s i)
  | .add d s t => some (encR 0x04#7 d 0#3 s t 0x00#7)
  | .sll d s t => some (encR 0x04#7 d 1#3 s t 0x00#7)
  | .slt d s t => some (encR 0x04#7 d 2#3 s t 0x00#7)
  | .sltn d s t => some (encR 0x04#7 d 3#3 s t 0x00#7)
  | .xor d s t => some (encR 0x04#7 d 4#3 s t 0x00#7)
  | .srl d s t => some (encR 0x04#7 d 5#3 s t 0x00#7)
  | .or d s t => some (encR 0x04#7 d 6#3 s t 0x00#7)
  | .and d s t => some (encR 0x04#7 d 7#3 s t 0x00#7)
  | .sub d s t => some (encR 0x04#7 d 0#3 s t 0x20#7)
  | .sra d s t => some (encR 0x04#7 d 5#3 s t 0x20#7)
  | .orn d s t => some (encR 0x04#7 d 6#3 s t 0x20#7)
  | .andn d s t => some (encR 0x04#7 d 7#3 s t 0x20#7)
  | .min d s t => some (encR 0x04#7 d 4#3 s t 0x05#7)
  | .max d s t => some (encR 0x04#7 d 5#3 s t 0x05#7)
  | .minn d s t => some (encR 0x04#7 d 6#3 s t 0x05#7)
  | .maxn d s t => some (encR 0x04#7 d 7#3 s t 0x05#7)
  | .mul d s t => some (encR 0x05#7 d 0#3 s t 0#7)
  | .mulh d s t => some (encR 0x05#7 d 1#3 s t 0#7)
  | .mulhn d s t => some (encR 0x05#7 d 2#3 s t 0#7)
  | .div d s t => some (encR 0x05#7 d 4#3 s t 0#7)
  | .divn d s t => some (encR 0x05#7 d 5#3 s t 0#7)
  | .rem d s t => some (encR 0x05#7 d 6#3 s t 0#7)
  | .remn d s t => some (encR 0x05#7 d 7#3 s t 0#7)
  | .lhi d i => some (encU 0x06#7 d i)
  | .apc d i => some (encU 0x07#7 d i)
  | .jal d i => some (encU 0x08#7 d i)
  | .jalr d s i => some (encI 0x09#7 d 0#3 s i)
  | .beq i s t => some (encS 0x0A#7 0#3 i s t)
  | .bne i s t => some (encS 0x0A#7 1#3 i s t)
  | .blt i s t => some (encS 0x0A#7 4#3 i s t)
  | .bge i s t => some (encS 0x0A#7 5#3 i s t)
  | .bltn i s t => some (encS 0x0A#7 6#3 i s t)
  | .bgen i s t => some (encS 0x0A#7 7#3 i s t)
  | .fence c => some (encI 0x0B#7 0#5 0#3 0#5 (0#9 ++ c.code))
  | .fenceK c => some (encI 0x0B#7 0#5 1#3 0#5 (0#9 ++ c.code))
  | .amoswap d c s t o => some (encA .swap d c s t o)
  | .amoadd d c s t o => some (encA .add d c s t o)
  | .amoand d c s t o => some (encA .and d c s t o)
  | .amoor d c s t o => some (encA .or d c s t o)
  | .amoxor d c s t o => some (encA .xor d c s t o)
  | .amomin d c s t o => some (encA .min d c s t o)
  | .amomax d c s t o => some (encA .max d c s t o)
  | .amominn d c s t o => some (encA .minn d c s t o)
  | .amomaxn d c s t o => some (encA .maxn d c s t o)
  | .amocas d c s t o => some (encA .cas d c s t o)
  | .ldfe d s i => some (encI 0x0D#7 d 0#3 s i)
  | .ldff d s i => some (encI 0x0D#7 d 1#3 s i)
  | .ldfx d s i => some (encI 0x0D#7 d 2#3 s i)
  | .sdef i s t => some (encS 0x0D#7 3#3 i s t)
  | .sdff i s t => some (encS 0x0D#7 4#3 i s t)
  | .fempty s i => some (encI 0x0D#7 0#5 5#3 s i)
  | .fstate d s i => some (encI 0x0D#7 d 6#3 s i)
  | .vld d s t m => some (encV 0x10#7 (wide4 d) 0#3 s 0#5 t m)
  | .vlds d s g t m => some (encV 0x10#7 (wide4 d) 1#3 s g t m)
  | .vldx d s v t m => some (encV 0x10#7 (wide4 d) 2#3 s (wide4 v) t m)
  | .vst d s t m => some (encV 0x11#7 (wide4 d) 0#3 s 0#5 t m)
  | .vsts d s g t m => some (encV 0x11#7 (wide4 d) 1#3 s g t m)
  | .vstx d s v t m => some (encV 0x11#7 (wide4 d) 2#3 s (wide4 v) t m)
  | .vadd d a b t m => some (encV 0x12#7 (wide4 d) 0#3 (wide4 a) (wide4 b) t m)
  | .vsub d a b t m => some (encV 0x12#7 (wide4 d) 1#3 (wide4 a) (wide4 b) t m)
  | .vmul d a b t m => some (encV 0x12#7 (wide4 d) 2#3 (wide4 a) (wide4 b) t m)
  | .vdiv d a b t m => some (encV 0x12#7 (wide4 d) 3#3 (wide4 a) (wide4 b) t m)
  | .vmin d a b t m => some (encV 0x12#7 (wide4 d) 4#3 (wide4 a) (wide4 b) t m)
  | .vmax d a b t m => some (encV 0x12#7 (wide4 d) 5#3 (wide4 a) (wide4 b) t m)
  | .vfma d a b t m => some (encV 0x12#7 (wide4 d) 6#3 (wide4 a) (wide4 b) t m)
  | .vfms d a b t m => some (encV 0x12#7 (wide4 d) 7#3 (wide4 a) (wide4 b) t m)
  | .vand d a b t m => some (encV 0x13#7 (0#1 ++ d) 0#3 (wide4 a) (0#1 ++ b) t m)
  | .vor d a b t m => some (encV 0x13#7 (1#1 ++ d) 0#3 (wide4 a) (0#1 ++ b) t m)
  | .vxor d a b t m => some (encV 0x13#7 (0#1 ++ d) 0#3 (wide4 a) (1#1 ++ b) t m)
  | .vshl d a b t m => some (encV 0x13#7 (0#1 ++ d) 1#3 (wide4 a) (0#1 ++ b) t m)
  | .vshr d a b t m => some (encV 0x13#7 (1#1 ++ d) 1#3 (wide4 a) (0#1 ++ b) t m)
  | .vsra d a b t m => some (encV 0x13#7 (0#1 ++ d) 1#3 (wide4 a) (1#1 ++ b) t m)
  | .vcmp c n a b t m => some (encV 0x13#7 (c.code ++ n) 2#3 (wide4 a) (wide4 b) t m)
  | .vsel d a b t k => some (encV 0x13#7 (wide4 d) 3#3 (wide4 a) (wide4 b) t k)
  | .vperm d a b t m => some (encV 0x13#7 (wide4 d) 4#3 (wide4 a) (wide4 b) t m)
  | .vslide d a g t m => some (encV 0x13#7 (wide4 d) 5#3 (wide4 a) g t m)
  | .vabs d a t m => some (encV 0x13#7 (wide4 d) 6#3 (wide4 a) 0#5 t m)
  | .vneg d a t m => some (encV 0x13#7 (wide4 d) 6#3 (wide4 a) 1#5 t m)
  | .vsqrt d a t m => some (encV 0x13#7 (wide4 d) 6#3 (wide4 a) 2#5 t m)
  | .vredsum d a t m => some (encV 0x13#7 d 6#3 (wide4 a) 3#5 t m)
  | .vredmax d a t m => some (encV 0x13#7 d 6#3 (wide4 a) 4#5 t m)
  | .vredmin d a t m => some (encV 0x13#7 d 6#3 (wide4 a) 5#5 t m)
  | .vbcast d s t m => some (encV 0x13#7 (wide4 d) 6#3 s 6#5 t m)
  | .vmvx d a t => some (encV 0x13#7 d 6#3 (wide4 a) 7#5 t 0#3)
  | .mand d a b => some (encR 0x13#7 (wide3 d) 6#3 (wide3 a) 8#5 (0#4 ++ b))
  | .mor d a b => some (encR 0x13#7 (wide3 d) 6#3 (wide3 a) 9#5 (0#4 ++ b))
  | .mnot d a => some (encR 0x13#7 (wide3 d) 6#3 (wide3 a) 10#5 0#7)
  | .vpopm d a => some (encR 0x13#7 d 6#3 (wide3 a) 11#5 0#7)
  | .vcvt d a src t rm m => some (encV 0x13#7 (rm.code.extractLsb' 1 1 ++ d) 7#3 (rm.code.extractLsb' 2 1 ++ a) (rm.code.extractLsb' 0 1 ++ src.code) t m)
  | .mmac z a b f pa pb ps => some (encM (popField pa pb ps) 0#3 0#5 z a b f.code)
  | .mmacs z a b s f pa pb ps => some (encM (popField pa pb ps) 1#3 s z a b f.code)
  | .mzero z => some (encM 0#5 2#3 0#5 z 0#3 0#3 0#3)
  | .mldz s z f => some (encM 0#5 3#3 s z 0#3 0#3 f.code)
  | .mstz s z f => some (encM 0#5 4#3 s z 0#3 0#3 f.code)
  | .mscl a => some (encM 0#5 5#3 0#5 0#2 a 0#3 0#3)
  | .macq z => some (encM 0#5 6#3 0#5 z 0#3 0#3 0#3)
  | .mrel z => some (encM 0#5 7#3 0#5 z 0#3 0#3 0#3)
  | .rgset g s => some (encR 0x19#7 (wide3 g) 0#3 s 0#5 0#7)
  | .rgwf g => some (encR 0x19#7 (wide3 g) 1#3 0#5 0#5 0#7)
  | .rgwe g => some (encR 0x19#7 (wide3 g) 2#3 0#5 0#5 0#7)
  | .rghd g => some (encR 0x19#7 (wide3 g) 3#3 0#5 0#5 0#7)
  | .rgtl g => some (encR 0x19#7 (wide3 g) 4#3 0#5 0#5 0#7)
  | .rgrd d g => some (encR 0x19#7 d 5#3 (wide3 g) 0#5 0#7)
  | .rpbeg => some (encR 0x19#7 0#5 6#3 0#5 0#5 0#7)
  | .rpend => some (encR 0x19#7 0#5 6#3 0#5 0#5 1#7)
  | .rpgo s t => some (encR 0x19#7 0#5 6#3 s (wide4 t) 2#7)
  | .rpgoa s t => some (encR 0x19#7 0#5 6#3 s (wide4 t) 3#7)
  | .rpjoin => some (encR 0x19#7 0#5 6#3 0#5 0#5 4#7)
  | .lbroot d s => some (encR 0x20#7 (wide3 d) 0#3 s 0#5 0#7)
  | .lbkid d a t => some (encR 0x20#7 (wide3 d) 0#3 (wide3 a) t 1#7)
  | .lbapp d a => some (encR 0x20#7 (wide3 d) 0#3 (wide3 a) 0#5 2#7)
  | .lbins d a => some (encR 0x20#7 (wide3 d) 0#3 (wide3 a) 0#5 3#7)
  | .lbdel a => some (encR 0x20#7 0#5 0#3 (wide3 a) 0#5 4#7)
  | .lbanc d a b => some (encR 0x20#7 d 0#3 (wide3 a) (wide3 b) 5#7)
  | .lbcmp d a b => some (encR 0x20#7 d 0#3 (wide3 a) (wide3 b) 6#7)
  | .lbpar d a => some (encR 0x20#7 (wide3 d) 0#3 (wide3 a) 0#5 7#7)
  | .lbdep d a => some (encR 0x20#7 d 0#3 (wide3 a) 0#5 8#7)
  | .lbres d a => some (encR 0x20#7 d 0#3 (wide3 a) 0#5 9#7)
  | .lbmov d a b => some (encR 0x20#7 (wide3 d) 0#3 (wide3 a) (wide3 b) 10#7)
  | .lbfix d => some (encR 0x20#7 (wide3 d) 0#3 0#5 0#5 11#7)
  | .lbcp d a => some (encR 0x20#7 (wide3 d) 0#3 (wide3 a) 0#5 12#7)
  | .lblm d s => some (encR 0x20#7 (wide3 d) 0#3 s 0#5 13#7)
  | .lbsm s b => some (encR 0x20#7 0#5 0#3 s (wide3 b) 14#7)
  | .lbxg d a h => some (encR 0x20#7 d 0#3 (wide3 a) (0#4 ++ h) 15#7)
  | .lbld d a i => some (encI 0x20#7 d 1#3 (wide3 a) i)
  | .lbst i a t => some (encS 0x20#7 2#3 i (wide3 a) t)
  | .kfirst d a k => some (encI 0x21#7 d 0#3 (wide3 a) k)
  | .knext d a k => some (encI 0x21#7 d 1#3 (wide3 a) k)
  | .kredI32 d c k => some (encI 0x21#7 d 2#3 (wide3 c) k)
  | .kredI64 d c k => some (encI 0x21#7 d 3#3 (wide3 c) k)
  | .kredF32 d c k => some (encI 0x21#7 d 4#3 (wide3 c) k)
  | .kredF64 d c k => some (encI 0x21#7 d 5#3 (wide3 c) k)
  | .skey d a k => some (encI 0x22#7 (wide3 d) 0#3 a k)
  | .sld d a k => some (encI 0x22#7 d 1#3 (wide3 a) k)
  | .sst d a k => some (encI 0x22#7 d 2#3 (wide3 a) k)
  | .sadd d a k => some (encI 0x22#7 d 3#3 (wide3 a) k)
  | .scoord d a k => some (encI 0x22#7 d 4#3 (wide3 a) k)
  | .spawn s i => some (encI 0x28#7 0#5 0#3 s i)
  | .sret => some (encI 0x28#7 0#5 1#3 0#5 0#12)
  | .sync s => some (encI 0x28#7 0#5 2#3 s 0#12)
  | .yield => some (encI 0x28#7 0#5 3#3 0#5 0#12)
  | .hop s => some (encI 0x28#7 0#5 4#3 s 0#12)
  | .hopk a k => some (encI 0x28#7 0#5 5#3 (wide3 a) k)
  | .ganggo s => some (encI 0x28#7 0#5 6#3 s 0#12)
  | .gbar n => some (encI 0x28#7 0#5 7#3 0#5 (0#10 ++ n))
  | .stop => some (encI 0x28#7 0#5 7#3 0#5 0x010#12)
  | .msend s t c => some (encR 0x29#7 0#5 0#3 s t (0#4 ++ c))
  | .msendnb d s t c => some (encR 0x29#7 d 1#3 s t (0#4 ++ c))
  | .mdone => some (encR 0x29#7 0#5 2#3 0#5 0#5 0#7)
  | .mbput b t w => some (encR 0x29#7 0#5 3#3 (wide3 b) t (0#5 ++ w))
  | .mbget d b w => some (encR 0x29#7 d 4#3 (wide3 b) 0#5 (0#5 ++ w))
  | .chgo s t f => some (encR 0x2A#7 0#5 0#3 s t (0#6 ++ f.code))
  | .get d i => some (encI 0x2A#7 d 1#3 0#5 i)
  | .put s => some (encI 0x2A#7 0#5 2#3 s 0#12)
  | .vget d i => some (encI 0x2A#7 (wide4 d) 3#3 0#5 i)
  | .vput a => some (encI 0x2A#7 0#5 4#3 (wide4 a) 0#12)
  | .chend => some (encI 0x2A#7 0#5 5#3 0#5 0#12)
  | .mvcp d c s t => some (encR 0x30#7 d (0#1 ++ c) s t 0#7)
  | .mv2d d c s t => some (encR 0x30#7 d (0#1 ++ c) s t 1#7)
  | .mvgth d c s t => some (encR 0x30#7 d (0#1 ++ c) s t 2#7)
  | .mvsct d c s t => some (encR 0x30#7 d (0#1 ++ c) s t 3#7)
  | .mvfill d c s t => some (encR 0x30#7 d (0#1 ++ c) s t 4#7)
  | .mvget d c s t => some (encR 0x30#7 d (0#1 ++ c) s t 5#7)
  | .mvput d c s t => some (encR 0x30#7 d (0#1 ++ c) s t 6#7)
  | .mvamo d c s t => some (encR 0x30#7 d (0#1 ++ c) s t 7#7)
  | .mvring d c s t => some (encR 0x30#7 d (0#1 ++ c) s t 8#7)
  | .sdense d c s t => some (encR 0x30#7 d (0#1 ++ c) s t 9#7)
  | .ssparse d c s t => some (encR 0x30#7 d (0#1 ++ c) s t 10#7)
  | .mvwait c s => some (encR 0x30#7 0#5 (0#1 ++ c) s 0#5 16#7)
  | .mvid d c => some (encR 0x30#7 d (0#1 ++ c) 0#5 0#5 17#7)
  | .ecall => some (encI 0x38#7 0#5 0#3 0#5 0#12)
  | .ebreak => some (encI 0x38#7 0#5 0#3 0#5 1#12)
  | .xret => some (encI 0x38#7 0#5 0#3 0#5 2#12)
  | .wfm => some (encI 0x38#7 0#5 0#3 0#5 3#12)
  | .fenceI => some (encI 0x38#7 0#5 0#3 0#5 4#12)
  | .srd d r => some (encI 0x38#7 d 1#3 0#5 r)
  | .swr d s r => some (encI 0x38#7 d 2#3 s r)
  | .sset d s r => some (encI 0x38#7 d 3#3 s r)
  | .sclr d s r => some (encI 0x38#7 d 4#3 s r)
  | .tlbinv s t => some (encR 0x38#7 0#5 5#3 s t 0#7)
  | .dtwr s t => some (encR 0x38#7 0#5 5#3 s t 1#7)
  | .dtrd s t => some (encR 0x38#7 0#5 5#3 s t 2#7)
  | .wake s => some (encR 0x38#7 0#5 5#3 s 0#5 3#7)
  | .mbind s c => some (encR 0x38#7 0#5 5#3 s (wide3 c) 4#7)
  | .chsw s f => some (encR 0x38#7 0#5 5#3 s (0#4 ++ f.code) 5#7)
  | .pshare d s t => some (encR 0x38#7 d 5#3 s t 6#7)
  | .matrixOpComplete | .bufferIssue | .runaheadJoin | .kredComplete | .keyEngineAnswer | .heldKeyedRequest
  | .prefixInvalidate | .prefixEntryActivate | .gangAdmission | .stageStart | .transferComplete | .mvringSlotFree
  | .systemRegisterWrite | .sramcfgWrite | .splitTakesEffect | .partitionRegisterWrite | .chainStopMessage
  | .asyncTrap | .timer | .managementNotice | .waitLimit | .resultUsable | .pageWalk | .secondStageResume
  | .secondStageHoldTimeout | .launch | .hopArrival | .dequePop | .steal | .messageArrival | .messageDelivery
  | .wakeMessage | .halt | .slotResume | .stopRequest | .convert | .shootdown | .shootdownAck | .rds | .rdx | .upg
  | .wb | .forward | .ownerAnswer | .invalidation | .invalidationAck | .grant | .discoveryAnswer | .directoryDrop
  | .lineEviction | .powerGate | .answerTimeout | .coreDeclaredDead | .deadCoreRecord | .commit | .saveCore
  | .restoreCore | .clearForwarding | .freeze | .resume | .tenantDeadline | .budgetExhausted | .slotHandover
  | .forwardingExpiry | .hostBatchTimeout | .oneSidedRead | .oneSidedWrite | .remoteAtomic | .fabricReply
  | .fabricResendTimeout | .packetUndeliverable | .linkStateChange | .powerOn | .attestation | .sensorRead | .logRead
  | .timeExchange | .commitUpdate | .sensorAboveLimit | .discoveryProbe | .neighbourQueueArrival | .linkLevelRetry
  | .packetAcknowledgement | .powerUpComplete | .illegalInstruction | .instructionFetchFault => none

end Sys2Proof
end

