-- ==== Sys2Proof/Machine/Ops.lean ====
section
/-!
DEFINITION. The named operations over slots, registers and the agenda, how an instruction stops, taking an exception and
returning from one (R13, R88, R225, R293, R294, R301).
-/
namespace Sys2Proof.Machine

/-! Cores and slots. -/

namespace State

/-- The core of a global logical number (R8). -/
def core (s : State) (c : CoreId) : Core := Table.find Core.powerOn c.toNat s.cores

def setCore (s : State) (c : CoreId) (v : Core) : State := { s with cores := Table.put c.toNat v s.cores }

/-- A slot of a core. -/
def slot (s : State) (c : CoreId) (k : SlotId) : Slot := (s.core c).slots[k.toNat]'(k.isLt)

def setSlot (s : State) (c : CoreId) (k : SlotId) (t : Slot) : State :=
  s.setCore c { s.core c with slots := (s.core c).slots.set k.toNat t k.isLt }

/-- The slot on whose behalf the step acts, and its core. -/
def me (s : State) : Slot := s.slot s.cur.core s.cur.slot
def setMe (s : State) (t : Slot) : State := s.setSlot s.cur.core s.cur.slot t
def myCore (s : State) : Core := s.core s.cur.core
def setMyCore (s : State) (v : Core) : State := s.setCore s.cur.core v

def modSlot (s : State) (c : CoreId) (k : SlotId) (f : Slot → Slot) : State := s.setSlot c k (f (s.slot c k))
def modCore (s : State) (c : CoreId) (f : Core → Core) : State := s.setCore c (f (s.core c))
def modMe (s : State) (f : Slot → Slot) : State := s.setMe (f s.me)

/-- Put an event on the agenda, due `delay` cycles from now (DESIGN CHOICE, log 1). -/
def post (s : State) (e : Instr) (a : EventArgs) (delay : Nat := 0) : State :=
  { s with agenda := s.agenda ++ [{ after := s.now + delay, event := { kind := e, args := a } }] }

/-- The next free value (DESIGN CHOICE, log 2). -/
def takeFresh (s : State) : Word × State := (Config.freeWord s.fresh, { s with fresh := s.fresh + 1 })

end State

/-! Registers (R13, R151): `x0` reads 0 and `m0` all ones, and writes to them have no effect. -/

namespace Slot

def getX (t : Slot) (r : BitVec 5) : Word := if r = 0#5 then 0 else t.x[r.toNat]'(r.isLt)
def setX (t : Slot) (r : BitVec 5) (w : Word) : Slot := if r = 0#5 then t else { t with x := t.x.set r.toNat w r.isLt }
def getV (t : Slot) (r : BitVec 4) : VecWord := t.v[r.toNat]'(r.isLt)
def setV (t : Slot) (r : BitVec 4) (w : VecWord) : Slot := { t with v := t.v.set r.toNat w r.isLt }
def getM (t : Slot) (r : BitVec 3) : Word := if r = 0#3 then BitVec.allOnes 64 else t.m[r.toNat]'(r.isLt)
def setM (t : Slot) (r : BitVec 3) (w : Word) : Slot := if r = 0#3 then t else { t with m := t.m.set r.toNat w r.isLt }
def getL (t : Slot) (r : BitVec 3) : LabelWord := t.lb[r.toNat]'(r.isLt)
def setL (t : Slot) (r : BitVec 3) (w : LabelWord) : Slot := { t with lb := t.lb.set r.toNat w r.isLt }

/-- The banked registers of a level; U has none and reads the S copy (R16, R234). -/
def bank (t : Slot) : Level → Bank
  | .h => t.bankH
  | .s => t.bankS
  | .u => t.bankS

def setBank (t : Slot) (l : Level) (b : Bank) : Slot :=
  match l with
  | .h => { t with bankH := b }
  | .s => { t with bankS := b }
  | .u => { t with bankS := b }

/-- A register is pending (R133, R152, R181); `x0` and `m0` never are. -/
def isPending (t : Slot) (r : RegName) : Bool :=
  r ≠ .x 0 && r ≠ .m 0 && someOf (fun f => f.reg = r) t.flights

/-- Accesses outstanding (R133). -/
def outstanding (t : Slot) : Nat := (keepIf (fun f => f.access) t.flights).length

/-- Every earlier access is performed and every earlier result usable (R293). -/
def drained (t : Slot) : Bool := t.flights.isEmpty

/-- Record a result or access in flight. -/
def launchFlight (t : Slot) (r : RegName) (access : Bool) (line : Option LineTag) : Slot :=
  { t with flights := t.flights ++ [{ reg := r, access := access, line := line, no := t.flightNo }], flightNo := t.flightNo + 1 }

/-- The slot enters a wait; its pc stays (R87). -/
def park (t : Slot) (st : SlotState) (w : Wait) : Slot := { t with state := st, wait := w }

/-- The slot returns to `run`. -/
def unpark (t : Slot) : Slot := { t with state := .run, wait := .none }

end Slot

/-! How an instruction stops short of its effect. -/

/-- A fault record's contents (R308): what the walk found. -/
structure FaultInfo where
  va : Word
  acc : Access
  level : BitVec 3
  reason : BitVec 8
  entry : Word
  deriving DecidableEq, Repr

/-- Why an instruction does not complete at this step. -/
inductive Stop where
  /-- A synchronous trap with its cause and xval (R293). -/
  | trap (cause : BitVec 8) (xval : Word)
  /-- The slot leaves `run`; the instruction is issued again from the start when the wait ends (R87). -/
  | park (st : SlotState) (w : Wait)
  /-- A translation wait (R76). -/
  | translation (f : FaultInfo)
  /-- An access held at the home's controller, and the cause and xval it takes once it has been held too long (R313, R329). -/
  | held (gpa : Nat) (cause : BitVec 8) (xval : Word)
  /-- An uncorrectable word at pool address `va`, guest-physical `gpa`, fails a shard, homed at a comb, of a region (R329). -/
  | shard (region : BitVec 12) (entry : Nat) (home : CombId) (va : Word) (gpa : Nat)
  /-- An uncorrectable word of a table at a guest-physical address traps 0x15 with `xval` (R317). -/
  | badTable (gpa : Nat) (xval : Word)
  /-- A model fault. -/
  | fault (f : Fault)
  deriving DecidableEq, Repr

/-- Computations of one step: state in, and a value or a stop with the state out. -/
abbrev M := EStateM Stop State

/-- Where the pc goes after an instruction's own effect. -/
inductive Flow where
  /-- To the next instruction. -/
  | step
  /-- To an address. -/
  | to (pc : Word)
  /-- The effect has set the pc, or the slot's work has ended. -/
  | stay
  deriving DecidableEq, Repr

def trap {α : Type} (cause : BitVec 8) (xval : Word) : M α := throw (.trap cause xval)
def parkAs {α : Type} (st : SlotState) (w : Wait) : M α := throw (.park st w)
def engineWait {α : Type} (e : EngineWait) : M α := parkAs .engwait (.engine e)

/-- The acting slot. -/
def myself : M Slot := do return (← get).me
def theCore : M Core := do return (← get).myCore
def modMe (f : Slot → Slot) : M Unit := modify fun s => s.modMe f
def modMyCore (f : Core → Core) : M Unit := modify fun s => s.setMyCore (f s.myCore)
def readX (r : BitVec 5) : M Word := do return (← get).me.getX r
def writeX (r : BitVec 5) (w : Word) : M Unit := modMe fun t => t.setX r w
def postEvent (e : Instr) (a : EventArgs) (delay : Nat := 0) : M Unit := modify fun s => s.post e a delay

/-- The acting slot's result is pending; the event that makes it usable comes about at any time, as R4 binds no latency (R133). -/
def pendResult (r : RegName) (access : Bool) (line : Option LineTag) : M Unit := do
  modMe fun t => t.launchFlight r access line
  let s ← get
  if line.isNone then postEvent .resultUsable { core := s.cur.core, slot := s.cur.slot, reg := r }

/-! Cause codes and xval layouts. -/

def causeTarget : BitVec 8 := 0x00
def causeFetch : BitVec 8 := 0x01
def causeIllegal : BitVec 8 := 0x02
def causeBreak : BitVec 8 := 0x03
def causeAlign : BitVec 8 := 0x04
def causeDenied : BitVec 8 := 0x05
def causeWaitLimit : BitVec 8 := 0x09
def causeObject : BitVec 8 := 0x0A
def causeExpired : BitVec 8 := 0x0B
def causeDead : BitVec 8 := 0x0C
def causePool : BitVec 8 := 0x0D
def causeRefused : BitVec 8 := 0x0E
def causeChain : BitVec 8 := 0x0F
def causeRing : BitVec 8 := 0x10
def causeMatrix : BitVec 8 := 0x11
def causeMessage : BitVec 8 := 0x12
def causeHop : BitVec 8 := 0x13
def causeConverted : BitVec 8 := 0x14
def causeUncorrectable : BitVec 8 := 0x15
def causeEndpoint : BitVec 8 := 0x16
def causeCopy : BitVec 8 := 0x18

/-- The word of an instruction, as xval carries it. -/
def wordOf (i : Instr) : BitVec 32 := (encode i).getD 0

/-- xval with the instruction word in [63:32], a unit in [15:8] and a subcode in [7:0] (R296, R332). -/
def xvalUnit (i : Instr) (unit sub : BitVec 8) : Word := wordOf i ++ 0#16 ++ unit ++ sub

/-- xval of cause 0x02 (R332). -/
def xvalSub (i : Instr) (sub : BitVec 8) : Word := xvalUnit i 0 sub

/-- xval of cause 0x0A outside keyed forms (R334). -/
def xvalObject (i : Instr) (index : BitVec 16) (sub : BitVec 8) : Word := wordOf i ++ index ++ 0#8 ++ sub

/-- xval of the keyed causes (R324). -/
def xvalKeyed (i : Instr) (region : BitVec 12) (operand : BitVec 4) (sub : BitVec 8) : Word :=
  wordOf i ++ region ++ operand ++ 0#8 ++ sub

/-! Taking an exception and returning from one (R225, R294). -/

/-- The level a synchronous trap is taken at: S for an issuer at U; at S only `ecall` and `ebreak` go to H (R225, R294). -/
def trapLevel (cause : BitVec 8) (p : Level) : Level :=
  if cause = 0x07 ∨ cause = 0x08 then .h else if cause = causeBreak ∧ p = .s then .h else if p = .h then .h else .s

/-- The level an asynchronous cause is taken at (R294). -/
def asyncLevel (cause : BitVec 8) (p : Level) : Level := if cause = 3 ∨ p = .h then .h else .s

/-- The word of `xcause` (R234). -/
def causeWord (async : Bool) (p : Level) (ie : Bool) (cause : BitVec 8) : Word :=
  BitVec.ofBool async ++ p.code ++ BitVec.ofBool ie ++ 0#52 ++ cause

/-- Trap entry (R225): the pc, cause and value are saved at level `l`, the slot runs there with ie 0 at the handler's address.
A trap in a chain stage is counted until its `xret` (R301). -/
def Slot.enterTrap (t : Slot) (l : Level) (async : Bool) (cause : BitVec 8) (xval : Word) : Slot :=
  let b := { t.bank l with xpc := t.pc, xcause := causeWord async t.priv t.ie cause, xval := xval }
  { t.setBank l b with
    priv := l, ie := false, pc := (t.bank l).xvec &&& ~~~3#64, state := .run, wait := .none,
    nesting := if t.form.isSome then t.nesting + 1 else t.nesting }

/-- Return from a trap at level `l` (R225). -/
def Slot.leaveTrap (t : Slot) (l p : Level) : Slot :=
  { t with pc := (t.bank l).xpc, priv := p, ie := (t.bank l).xcause.getLsbD 60, nesting := t.nesting - 1 }

/-! Names of places. -/

/-- `slotid` (R9). -/
def slotIdWord (endpoint : BitVec 10) (c : CoreId) (k : SlotId) : Word := 0#39 ++ endpoint ++ c ++ k

/-- The sender word: `slotid` with the incarnation in [40:25] (R88, R207). -/
def State.senderWord (s : State) (c : CoreId) (k : SlotId) : Word := 0#23 ++ (s.slot c k).inc ++ s.endpoint ++ c ++ k

/-- A destination word with chk = 1 that names a slot at its present incarnation (R207, R308). -/
def State.checkedWord (s : State) (c : CoreId) (k : SlotId) : Word := 0#22 ++ 1#1 ++ (s.slot c k).inc ++ s.endpoint ++ c ++ k

/-- Fields of a destination word (R207). -/
def destZero (w : Word) : Bool := bits w 63 42 = 0
def destChk (w : Word) : Bool := w.getLsbD 41
def destInc (w : Word) : BitVec 16 := w.extractLsb' 25 16
def destPackage (w : Word) : BitVec 10 := w.extractLsb' 15 10
def destCore (w : Word) : CoreId := w.extractLsb' 4 11
def destSlot (w : Word) : SlotId := w.extractLsb' 0 4

/-- The comb of a core (R8). -/
def combOf (c : CoreId) : CombId := c.extractLsb' 3 8

/-- One round of the Hilbert index, for the bit `i` of the coordinates: what it adds, and the coordinates it leaves (R7). -/
def hilbertRound (i : Nat) (x y : BitVec 3) : Nat × BitVec 3 × BitVec 3 :=
  let rx := x.getLsbD i
  let ry := y.getLsbD i
  let add := 4 ^ i * ((if rx then 3 else 0) ^^^ (if ry then 1 else 0))
  if ry then (add, x, y) else if rx then (add, 7 - y, 7 - x) else (add, y, x)

/-- The Hilbert index H(x, y) of the comb at (x, y) of its die (R7). -/
def hilbert (x y : BitVec 3) : BitVec 6 :=
  let (a, x, y) := hilbertRound 2 x y
  let (b, x, y) := hilbertRound 1 x y
  let (c, _, _) := hilbertRound 0 x y
  BitVec.ofNat 6 (a + b + c)

/-- The comb at (x, y) of a die, and the core with number `c` within it, by its global logical number (R7, R8). -/
def combAt (die : BitVec 2) (x y : BitVec 3) : CombId := die ++ hilbert x y
def coreAt (die : BitVec 2) (x y : BitVec 3) (c : BitVec 3) : CoreId := combAt die x y ++ c

/-- The die of a core (R8). -/
def dieOf (c : CoreId) : BitVec 2 := c.extractLsb' 9 2

/-- The cores of a comb, ascending. -/
def coresOfComb (b : CombId) : List CoreId := (List.range 8).map fun i => b ++ BitVec.ofNat 3 i

/-- Core `c` lies in the partition whose registers core `p` holds (R263). -/
def State.inPartition (s : State) (p c : CoreId) : Bool :=
  let q := s.core p
  q.pbase.toNat ≤ c.toNat && c.toNat < q.pbase.toNat + q.plen.toNat

/-- The cores of the partition whose registers core `p` holds, ascending (R263). -/
def State.partition (s : State) (p : CoreId) : List CoreId :=
  let q := s.core p
  (upFrom q.pbase.toNat (Nat.min q.plen.toNat (2048 - q.pbase.toNat))).map (BitVec.ofNat 11)

/-- The combs that hold a core of a list, in its order, each once. -/
def combsOf : List CoreId → List CombId
  | [] => []
  | c :: r => let q := combsOf r; if someOf (fun b => b = combOf c) q then q else combOf c :: q

/-- The hypervisor's tenant (R74). -/
def hvTenant : BitVec 16 := 0xFFFF

/-- The tenant whose tags a slot's accesses carry (R73, R74). -/
def Slot.accessTenant (t : Slot) : BitVec 16 := if t.priv = .h then hvTenant else t.tenant

end Sys2Proof.Machine
end

