-- ==== Sys2Proof/Machine/Flags.lean ====
section
/-!
DEFINITION. The flags of a slot (R22): a float form ORs the flags of its active lanes into `fflags`; no other form changes them.
What each operation raises stands beside it in Float.lean and Lanes.lean.
-/
namespace Sys2Proof.Machine

/-- `fflags` with flags raised (R22). -/
def Slot.raise (t : Slot) (f : FFlags) : Slot := { t with fflags := t.fflags ||| f }

def raiseFlags (f : FFlags) : M Unit := modMe fun t => t.raise f

end Sys2Proof.Machine
end

