-- ==== Sys2Proof/Machine/Log.lean ====
section
/-!
DEFINITION. The package's time and the management controller's log (R272, R287, R288, R295, R354).
-/
namespace Sys2Proof.Machine

/-! Time. -/

/-- Units of time in a ns: a cycle at the core clock of 3.3 GHz is 10,000 of them, and 100 ppm of a cycle is one (R2, R287). -/
def timeUnits : Nat := 33000

/-- A correction of at most 100 ppm of the cycles gone by (R287). -/
def slewed (want : Int) (gone : Nat) : Int := max (-(gone : Int)) (min want gone)

/-- The package reference in units of time (R272), its corrections slewed (R287). -/
def State.fineTime (s : State) : Int :=
  let gone := s.now - s.controller.slewAt
  ((s.timeRef.toNat * timeUnits + s.controller.timeFrac + 10000 * gone : Nat) : Int) + slewed s.controller.slew gone

/-- The package reference in ns (R272). -/
def State.reference (s : State) : Word := BitVec.ofInt 64 (s.fineTime / timeUnits)

/-! The log (R288, R354). -/

/-- The log's entry count (R288). -/
def logSize : Nat := 4096

/-- Bytes 12 to 31 of a log entry, from bytes at their places there. -/
def logData (l : List (Nat × Nat × Nat)) : BitVec 160 :=
  BitVec.ofNat 160 (l.foldl (fun n p => n + p.2.2 % 256 ^ p.2.1 * 256 ^ (p.1 - 12)) 0)

/-- The controller logs an event; the oldest entry gives way (R288). -/
def State.logOnly (s : State) (code unit : BitVec 16) (data : BitVec 160) : State :=
  let k := s.controller
  let e : LogEntry := { time := s.reference, code := code, unit := unit, data := data }
  let log := if k.log.length < logSize then k.log ++ [e] else k.log.set (k.logNext % logSize) e
  { s with controller := { k with log := log, logNext := (k.logNext + 1) % logSize } }

/-- Codes that H must act on (R295). -/
def noticed (code : BitVec 16) : Bool := code = 0x0002 || code = 0x0003 || code = 0x0005 || code = 0x0012 || code = 0x0013 || code = 0x0031

/-- An event is logged, and H is given notice of those it must act on (R295). -/
def State.logEvent (s : State) (code unit : BitVec 16) (data : BitVec 160) : State :=
  let n := s.controller.logNext
  let s := s.logOnly code unit data
  if noticed code then s.post .managementNotice { code := code, num := n } else s

/-- The unit field of a core (R288). -/
def unitOf (c : CoreId) : BitVec 16 := dieOf c ++ c.extractLsb' 3 6 ++ 0#5 ++ c.extractLsb' 0 3

/-- A shard of a region is marked failed, once, and the controller logs it with its xval (R329, R354). -/
def State.failShard (s : State) (tenant : BitVec 16) (region : BitVec 12) (entry : Nat) (home : CombId) (va : Word) : State :=
  if someOf (fun f => f.1 = tenant && f.2.1 = region && f.2.2.1 = entry) s.failedShards then s
  else ({ s with failedShards := s.failedShards ++ [(tenant, region, entry, va)] }).logEvent 0x0005 (home ++ 0#8)
    (logData [(12, 8, va.toNat)])

end Sys2Proof.Machine
end

