-- ==== Sys2Proof/Machine/Memory.lean ====
section
/-!
DEFINITION. Memory: scratchpad (R11, R68), machine-physical memory and the second stage (R72, R74, R313), the first-stage walk
(R63 to R67), the checks on an access (R306), homes (R69 to R71), uncorrectable words (R316 to R318) and plain loads and stores.
-/
namespace Sys2Proof.Machine

/-! Machine-physical memory. -/

/-- Machine-physical addresses that the layout of R72 has: bits [39:37] are 0. -/
def physLimit : Nat := 2 ^ 37

namespace State

def memRead (s : State) (a n : Nat) : Nat := Cells.readNat s.mem a n
def memWrite (s : State) (a n v : Nat) : State := { s with mem := Cells.writeNat v a s.mem n }
def memFull (s : State) (a : Nat) : Bool := !NatSet.has (a / 8 * 8) s.memEmpty
def memSetFull (s : State) (a : Nat) (b : Bool) : State := { s with memEmpty := NatSet.set (a / 8 * 8) (!b) s.memEmpty }
def memIsBad (s : State) (a : Nat) : Bool := NatSet.has (a / 8 * 8) s.memBad

end State

/-! Scratchpad (R11, R68, R102, R235). -/

/-- Scratchpad bytes under a split (R11). -/
def spadSize (split : BitVec 2) : Nat :=
  match split.toNat with
  | 0 => 393216 | 1 => 262144 | _ => 131072

/-- Bytes of the deque area at the top of scratchpad (R102). -/
def dequeBytes : Nat := 40960

/-- The first byte of the deque area (R102). -/
def Core.dequeBase (c : Core) : Nat := spadSize c.split - dequeBytes

/-- A continuation record as its 20 doublewords (R102). -/
def Continuation.words (r : Continuation) : List Word :=
  [r.pc, r.frame, r.mfmt, 0#14 ++ r.priv.code ++ r.tenant ++ r.inc ++ 0#12 ++ r.slot, r.x3, r.x4] ++ r.h.toList

/-- A doubleword of a list, 0 past its end. -/
def wordAt : List Word → Nat → Word
  | [], _ => 0
  | w :: _, 0 => w
  | _ :: r, n + 1 => wordAt r n

/-- A byte of the deque area: the oldest record fills its last 160 bytes, and younger ones lie below it; the rest reads 0 (R102; DEDUCED, log 11). -/
def Core.dequeByte (c : Core) (off : Nat) : Byte :=
  match c.deque[255 - off / 160]? with
  | some r => BitVec.ofNat 8 ((wordAt r.words (off % 160 / 8)).toNat >>> (8 * (off % 8)))
  | none => 0

/-- A byte of scratchpad. -/
def Core.spadByte (c : Core) (off : Nat) : Byte :=
  if c.dequeBase ≤ off && off < spadSize c.split then c.dequeByte (off - c.dequeBase) else Cells.read off c.spad

/-- `n` bytes of scratchpad as a number. -/
def Core.spadRead (c : Core) (off : Nat) : Nat → Nat
  | 0 => 0
  | n + 1 => (c.spadByte off).toNat + 256 * c.spadRead (off + 1) n

def Core.spadWrite (c : Core) (off n v : Nat) : Core := { c with spad := Cells.writeNat v off c.spad n }

/-- The virtual address of scratchpad byte 0 (R68). -/
def spadWindow : Nat := 0xFFFFFFFFFFF00000

def inWindow (va : Word) : Bool := spadWindow ≤ va.toNat
def windowOffset (va : Word) : Nat := va.toNat - spadWindow

/-! The second stage (R72, R73, R313). -/

/-- The machine-physical address of the second-stage entry of a guest-physical address (R72). -/
def State.stageTwoPlace (s : State) (tenant : BitVec 16) (gpa : Nat) : Nat :=
  (bits (Table.find 0#64 tenant.toNat s.s2base) 39 18).toNat * 2 ^ 18 + 8 * (gpa / 2 ^ 25)

/-- The second-stage entry of a guest-physical address as the controllers use it: their copy if they hold one, else the table. Between a
change of the table and H's synchronisation R73 and R314 allow either entry: the controllers share one copy, made when an entry is
first used, and an entry not yet copied is read from the table (DESIGN CHOICE, log 49). -/
def State.stageTwo (s : State) (tenant : BitVec 16) (gpa : Nat) : Word :=
  let g := gpa / 2 ^ 25
  match firstOf (fun e => e.1 = tenant && e.2.1 = g) s.s2copies with
  | some e => e.2.2
  | none => BitVec.ofNat 64 (s.memRead (s.stageTwoPlace tenant gpa) 8)

/-- The entry has to be read from the table, and its word there is uncorrectable (R317). -/
def State.stageTwoBad (s : State) (tenant : BitVec 16) (gpa : Nat) : Bool :=
  !someOf (fun e => e.1 = tenant && e.2.1 = gpa / 2 ^ 25) s.s2copies && s.memIsBad (s.stageTwoPlace tenant gpa)

/-- The controllers keep a copy of the entry once it is used (R73). -/
def State.copyStageTwo (s : State) (tenant : BitVec 16) (gpa : Nat) : State :=
  let g := gpa / 2 ^ 25
  if tenant = hvTenant then s
  else if someOf (fun e => e.1 = tenant && e.2.1 = g) s.s2copies then s
  else { s with s2copies := s.s2copies ++ [(tenant, g, s.stageTwo tenant gpa)] }

def stageTwoValid (e : Word) : Bool := e.getLsbD 0
def stageTwoRead (e : Word) : Bool := e.getLsbD 1
def stageTwoWrite (e : Word) : Bool := e.getLsbD 2

/-- The machine-physical address that an entry gives (R72). -/
def stageTwoAddr (e : Word) (gpa : Nat) : Nat := field e 36 25 * 2 ^ 25 + gpa % 2 ^ 25

/-- What the second stage makes of an access (R313, R317). -/
inductive Granted where
  | granted (a : Nat)
  /-- V = 0. -/
  | held
  /-- A missing right. -/
  | refused
  /-- The entry is uncorrectable. -/
  | bad
  /-- H names an address that the layout of R72 does not have. -/
  | absent
  deriving DecidableEq, Repr

/-- An access that reads, and one that writes. -/
def readsFrom (acc : Access) : Bool := acc ≠ .store
def writesTo (acc : Access) : Bool := acc = .store || acc = .rmw

/-- The second stage of an access to a guest-physical address; H's accesses have none (R72, R74, R313). Bits of an entry that R72 has as zero
are ignored (R72 gives them no fate; DESIGN CHOICE, log 79). -/
def State.second (s : State) (tenant : BitVec 16) (gpa : Nat) (acc : Access) : Granted :=
  if tenant = hvTenant then (if gpa < physLimit then .granted gpa else .absent)
  else if s.stageTwoBad tenant gpa then .bad
  else
    let e := s.stageTwo tenant gpa
    if !stageTwoValid e then .held
    else if (readsFrom acc && !stageTwoRead e) || (writesTo acc && !stageTwoWrite e) then .refused
    else .granted (stageTwoAddr e gpa)

/-- Some word among `n` bytes of machine-physical memory is uncorrectable (R316). -/
def State.memBadIn (s : State) (a n : Nat) : Bool := someOf (fun i => s.memIsBad (a + 8 * i)) (List.range ((a % 8 + n + 7) / 8))

/-- Guest-physical memory as hardware reads it for itself (R66, R71, R234): the bytes, or why they cannot be had. -/
def State.guestRead (s : State) (tenant : BitVec 16) (gpa n : Nat) : Except Granted Nat :=
  match s.second tenant gpa .load with
  | .granted a => if s.memBadIn a n then .error .bad else .ok (s.memRead a n)
  | g => .error g

/-! L2 slices (R12, R77). -/

/-- Flits of a message (R275). -/
def flitsOf (m : Message) : Nat := match m.body with | .hop _ _ => 4 | _ => 1

/-- Flits that a comb's overflow pool of 256 KiB holds (R12). -/
def poolFlits : Nat := 4096

def State.pool (s : State) (b : CombId) : List (CoreId × Message) := Table.find [] b.toNat s.overflow
def poolUsed (l : List (CoreId × Message)) : Nat := l.foldl (fun n p => n + flitsOf p.2) 0

/-- Lines of a comb's 2 MiB slice that the overflow pool has not claimed (R12). -/
def State.sliceLines (s : State) (b : CombId) : Nat := 16384 - (poolUsed (s.pool b) + 1) / 2

/-- A slice keeps no more lines than it has room for; the oldest give way (R12; DESIGN CHOICE, log 50). -/
def State.trimSlice (s : State) (b : CombId) : State :=
  let l := Table.find [] b.toNat s.l2
  if l.length ≤ s.sliceLines b then s else { s with l2 := Table.put b.toNat (l.drop (l.length - s.sliceLines b)) s.l2 }

/-- The slice at a line's home caches it (R77). -/
def State.cacheL2 (s : State) (b : CombId) (tag : LineTag) : State :=
  let l := Table.find [] b.toNat s.l2
  if someOf (fun t => t = tag) l then s else { s with l2 := Table.put b.toNat (l ++ [tag]) s.l2 }.trimSlice b

/-! Homes (R69 to R71). -/

/-- The guest-physical address of entry `i` of the comb mask table (R71). One of 2^40 or more, which no guest-physical space has, is read
as any other: its second-stage entry lies past the tenant's table (R71 gives it no fate; DESIGN CHOICE, log 78). -/
def Slot.maskAddr (t : Slot) (i : Nat) : Nat := field t.cmtab 39 5 * 32 + 32 * i

/-- The combs of entry `i` of the comb mask table, ascending; none when the entry names no comb (R71). An entry that the second stage
refuses to read names no comb (R69 gives such a read no fate; DESIGN CHOICE, log 51). -/
def State.maskCombs (s : State) (t : Slot) (i : Nat) : Except Granted (List CombId) :=
  if i > field t.cmtab 63 52 then .ok []
  else
    match s.guestRead t.accessTenant (t.maskAddr i) 32 with
    | .error .refused => .ok []
    | .error g => .error g
    | .ok m => .ok ((List.range 256).filterMap fun n => if m.testBit n then some (BitVec.ofNat 8 n) else none)

/-- The mask table is read and names no comb. -/
def State.maskEmpty (s : State) (t : Slot) (i : Nat) : Bool :=
  match s.maskCombs t i with | .ok l => l.isEmpty | .error _ => false

/-- The hashed comb of a line among a list (R69). -/
def hashedComb (line : BitVec 33) (l : List CombId) : Option CombId :=
  let h := line.extractLsb' 0 16 ^^^ line.extractLsb' 16 16 ^^^ (line.extractLsb' 32 1).setWidth 16
  l[(h.toNat * l.length) >>> 16]?

/-- The home comb of a line under mode 0 (R69, R70). A core whose partition is empty (R263 gives it no comb) homes it at its own
comb (DESIGN CHOICE, log 52). -/
def State.hashedHome (s : State) (c : CoreId) (line : BitVec 33) : CombId := (hashedComb line (combsOf (s.partition c))).getD (combOf c)

/-- The home comb of a line of a page with leaf `pte`, for a core of the partition (R69), or what stops the read of the mask table. A leaf of
mode 2 in the TLB whose mask entry has come to name no comb homes its lines at the core's own comb (R69 gives the walk's wait alone; DESIGN
CHOICE, log 76). -/
def State.homeOf (s : State) (c : CoreId) (t : Slot) (pte : Word) (line : BitVec 33) : Except Granted CombId :=
  match field pte 51 50 with
  | 1 => .ok (pte.extractLsb' 52 8)
  | 2 =>
    match s.maskCombs t (field pte 63 52) with
    | .ok l => .ok ((hashedComb line l).getD (combOf c))
    | .error g => .error g
  | _ => .ok (s.hashedHome c line)

/-! The first stage (R63 to R67). -/

/-- Index bits of a level (R63). -/
def levelIndex (va : Word) : Nat → Nat
  | 0 => field va 56 47
  | 1 => field va 46 36
  | 2 => field va 35 25
  | _ => field va 24 14

/-- Bits of the page that a leaf at a level maps (R65). -/
def levelBits : Nat → Nat
  | 1 => 36
  | 2 => 25
  | _ => 14

def pteValid (p : Word) : Bool := p.getLsbD 0
def pteR (p : Word) : Bool := p.getLsbD 1
def pteW (p : Word) : Bool := p.getLsbD 2
def pteX (p : Word) : Bool := p.getLsbD 3
def pteU (p : Word) : Bool := p.getLsbD 4
def pteG (p : Word) : Bool := p.getLsbD 5
def pteA (p : Word) : Bool := p.getLsbD 6
def pteD (p : Word) : Bool := p.getLsbD 7
def pteCow (p : Word) : Bool := p.getLsbD 8
def pteF (p : Word) : Bool := p.getLsbD 9
def ptePointer (p : Word) : Bool := p.extractLsb' 1 3 = 0#3

/-- What a walk comes to (R66). -/
inductive Walked where
  /-- A leaf with its level and the machine-physical and guest-physical addresses of its entry. -/
  | leaf (pte : Word) (level : Nat) (at_ gpa : Nat)
  | wait (f : FaultInfo)
  /-- An uncorrectable entry (R317). -/
  | bad
  deriving DecidableEq, Repr

/-- A leaf whose entry R65 or R69 does not allow. R69 has home[11:8] zero under mode 1 and gives another value no fate: it is taken
as malformed too (DESIGN CHOICE, log 53). -/
def State.malformedLeaf (s : State) (t : Slot) (pte : Word) (level : Nat) : Bool :=
  field pte 49 40 ≠ 0 || level = 0 || field pte 51 50 = 3 ||
  (level = 1 && field pte 35 14 ≠ 0) || (level = 2 && field pte 24 14 ≠ 0) ||
  (field pte 51 50 = 1 && field pte 63 60 ≠ 0) ||
  (field pte 51 50 = 2 && s.maskEmpty t (field pte 63 52))

/-- The walk from a level down (R66), `fuel` levels left. -/
def State.walkFrom (s : State) (t : Slot) (va : Word) (acc : Access) (table level : Nat) : Nat → Walked
  | 0 => .wait { va := va, acc := acc, level := BitVec.ofNat 3 level, reason := 4, entry := 0 }
  | fuel + 1 =>
    let gpa := table + 8 * levelIndex va level
    match s.second t.tenant gpa .load with
    | .held | .refused | .absent => .wait { va := va, acc := acc, level := BitVec.ofNat 3 level, reason := 5, entry := BitVec.ofNat 64 gpa }
    | .bad => .bad
    | .granted a =>
      if s.memIsBad a then .bad
      else
        let pte := BitVec.ofNat 64 (s.memRead a 8)
        let info (reason : BitVec 8) : FaultInfo :=
          { va := va, acc := acc, level := BitVec.ofNat 3 level, reason := reason, entry := pte }
        if !pteValid pte then .wait (info 1)
        else if ptePointer pte then
          if field pte 49 40 ≠ 0 || level = 3 then .wait (info 4)
          else s.walkFrom t va acc (field pte 39 14 * 2 ^ 14) (level + 1) fuel
        else if s.malformedLeaf t pte level then .wait (info 4)
        else .leaf pte level a gpa

/-- The walk of a virtual address in a slot's address space (R64, R66). -/
def State.walk (s : State) (t : Slot) (va : Word) (acc : Access) : Walked :=
  s.walkFrom t va acc (field t.xlroot 39 14 * 2 ^ 14) 0 4

/-- The guest-physical addresses of the entries that a walk reads, the root's first. -/
def State.walkReads (s : State) (t : Slot) (va : Word) (table level : Nat) : Nat → List Nat
  | 0 => []
  | fuel + 1 =>
    let gpa := table + 8 * levelIndex va level
    match s.second t.tenant gpa .load with
    | .granted a =>
      let pte := BitVec.ofNat 64 (s.memRead a 8)
      gpa :: (if pteValid pte && ptePointer pte then s.walkReads t va (field pte 39 14 * 2 ^ 14) (level + 1) fuel else [])
    | _ => []

/-- The guest-physical address of the entry at which a walk meets an uncorrectable word (R317). -/
def State.badEntry (s : State) (t : Slot) (va : Word) (table level : Nat) : Nat → Option Nat
  | 0 => none
  | fuel + 1 =>
    let gpa := table + 8 * levelIndex va level
    match s.second t.tenant gpa .load with
    | .bad => some gpa
    | .granted a =>
      let pte := BitVec.ofNat 64 (s.memRead a 8)
      if s.memIsBad a then some gpa
      else if pteValid pte && ptePointer pte then s.badEntry t va (field pte 39 14 * 2 ^ 14) (level + 1) fuel
      else none
    | _ => none

/-- The TLB entry that covers an address (R67). -/
def tlbMatches (tenant : BitVec 16) (asid : BitVec 16) (va : Word) (e : TlbEntry) : Bool :=
  e.tenant = tenant && (e.asid = asid || pteG e.pte) && e.page = va.toNat / 2 ^ e.bits

def Slot.asid (t : Slot) : BitVec 16 := t.xlroot.extractLsb' 48 16

def Core.tlbFind (c : Core) (t : Slot) (va : Word) : Option TlbEntry := firstOf (tlbMatches t.tenant t.asid va) c.tlb

/-- Fill the TLB; of 512 entries the oldest gives way (R67; DESIGN CHOICE, log 8). -/
def Core.tlbFill (c : Core) (e : TlbEntry) : Core :=
  let l := if c.tlb.length < 512 then c.tlb else c.tlb.tail
  { c with tlb := l ++ [e] }

/-! One access (R306). -/

/-- The cause of a refused access: 0x05, or 0x01 for a fetch (R306). -/
def deniedCause (acc : Access) : BitVec 8 := if acc = .fetch then causeFetch else causeDenied

/-- The rights of a leaf that fail (R306). -/
def rightsFail (p : Level) (pte : Word) (acc : Access) : Bool :=
  (p = .u && !pteU pte) ||
  (match acc with
   | .load => !pteR pte
   | .fetch => !pteX pte
   | .store => !pteW pte && !pteCow pte
   | .rmw => !pteR pte || (!pteW pte && !pteCow pte))

/-- A scratchpad access (R68, R306). -/
def State.locateSpad (s : State) (c : CoreId) (va : Word) (n : Nat) (acc : Access) : Except Stop Loc :=
  let q := s.core c
  let off := windowOffset va
  if acc = .fetch || spadSize q.split < off + n || (writesTo acc && q.dequeBase ≤ off) then .error (.trap (deniedCause acc) va)
  else .ok { place := .spad c off, tag := { tenant := 0, line := 0 }, home := combOf c }

/-- A machine-physical access of H (R74). -/
def locatePhys (va : Word) (acc : Access) : Except Stop Loc :=
  if va.toNat ≥ 2 ^ 40 then .error (.trap (deniedCause acc) va)
  else if va.toNat ≥ physLimit then .error (.fault (.noSuchAddress va.toNat))
  else .ok { place := .mem va.toNat, tag := { tenant := hvTenant, line := va.extractLsb' 7 33 }, home := va.extractLsb' 29 8 }

/-- What stops an access that the second stage does not let through (R313, R317): a hold, with what it takes if it lasts too long, or a
cause; an uncorrectable entry of a table is reported as a walker's (DEDUCED, log 54). -/
def stopGuest (gpa : Nat) (cause : BitVec 8) (xval : Word) : Granted → Stop
  | .held => .held gpa cause xval
  | .bad => .badTable gpa xval
  | .absent => .fault (.noSuchAddress gpa)
  | _ => .trap cause xval

/-- The second stage of an access (R313): the home is found, then its controller applies it. -/
def State.locateGuest (s : State) (c : CoreId) (t : Slot) (va : Word) (acc : Access) (e : TlbEntry) : Except Stop Loc :=
  let gpa := field e.pte 39 14 * 2 ^ 14 + va.toNat % 2 ^ e.bits
  let line := BitVec.ofNat 33 (gpa / 128)
  match s.homeOf c t e.pte line with
  | .error g => .error (stopGuest (t.maskAddr (field e.pte 63 52)) (deniedCause acc) va g)
  | .ok home =>
    match s.second t.tenant gpa acc with
    | .granted a => .ok { place := .mem a, tag := { tenant := t.tenant, line := line }, home := home }
    | g => .error (stopGuest gpa (deniedCause acc) va g)

/-- The leaf's own conditions (R306): fabric page, rights, copy-on-write; then whether the entry must be walked again to set A or D (R66). -/
def leafCheck (p : Level) (va : Word) (acc : Access) (e : TlbEntry) : Except Stop Unit :=
  let level : BitVec 3 := if e.bits = 36 then 1 else if e.bits = 25 then 2 else 3
  let info (reason : BitVec 8) : FaultInfo := { va := va, acc := acc, level := level, reason := reason, entry := e.pte }
  if pteF e.pte then .error (.translation (info 3))
  else if rightsFail p e.pte acc then .error (.trap (deniedCause acc) va)
  else if writesTo acc && pteCow e.pte then .error (.translation (info 2))
  else if !pteA e.pte || (writesTo acc && !pteD e.pte) then .error (.park .memwait (.walk va acc))
  else .ok ()

/-- The checks on one access of `n` bytes by a slot of core `c`, in the order of R306. -/
def State.locate (s : State) (c : CoreId) (t : Slot) (va : Word) (n : Nat) (acc : Access) : Except Stop Loc :=
  if acc ≠ .fetch && !multipleOf n va then .error (.trap causeAlign va)
  else if t.priv ≠ .h && bits va 63 57 ≠ (if va.getLsbD 56 then BitVec.allOnes 7 else 0#7) then .error (.trap (deniedCause acc) va)
  else if inWindow va then s.locateSpad c va n acc
  else if t.priv = .h then locatePhys va acc
  else
    match (s.core c).tlbFind t va with
    | none => .error (.park .memwait (.walk va acc))
    | some e => do
      leafCheck t.priv va acc e
      s.locateGuest c t va acc e

/-- The same in a step of the acting slot. -/
def locate (va : Word) (n : Nat) (acc : Access) : M Loc := do
  let s ← get
  match s.locate s.cur.core s.me va n acc with
  | .ok l => return l
  | .error e => throw e

/-- Every access of a form is located before any is performed; the first that fails decides (R307). -/
def locateAll (n : Nat) (acc : Access) : List Word → M (List Loc)
  | [] => return []
  | va :: r => do
    let l ← locate va n acc
    let ls ← locateAll n acc r
    return l :: ls

/-! Bytes and bits of a location. -/

/-- The guest-physical address of a place in flat memory. -/
def Loc.guest (l : Loc) : Nat := l.tag.line.toNat * 128 + (match l.place with | .mem a => a % 128 | _ => 0)

/-- The byte `i` bytes further on. -/
def WordLoc.plus : WordLoc → Nat → WordLoc
  | .mem a, i => .mem (a + i)
  | .spad c o, i => .spad c (o + i)
  | .mail c b w, _ => .mail c b w

/-- The number of a mailbox word in its core (R210). -/
def mailIndex (b : BitVec 3) (w : BitVec 2) : Nat := 4 * b.toNat + w.toNat

theorem mailIndex_lt (b : BitVec 3) (w : BitVec 2) : mailIndex b w < 32 := by
  have := b.isLt; have := w.isLt; unfold mailIndex; omega

namespace State

/-- `n` bytes of a location as a number. -/
def readLoc (s : State) (l : WordLoc) (n : Nat) : Nat :=
  match l with
  | .mem a => s.memRead a n
  | .spad c o => (s.core c).spadRead o n
  | .mail c b w => ((s.core c).mail[mailIndex b w]'(mailIndex_lt b w)).word.toNat % 256 ^ n

/-- Write `n` bytes of a location. -/
def writeLoc (s : State) (l : WordLoc) (n v : Nat) : State :=
  match l with
  | .mem a => s.memWrite a n v
  | .spad c o => s.modCore c fun q => q.spadWrite o n v
  | .mail c b w => s.modCore c fun q =>
      { q with mail := q.mail.set (mailIndex b w) { q.mail[mailIndex b w]'(mailIndex_lt b w) with word := BitVec.ofNat 64 v } (mailIndex_lt b w) }

/-- The full/empty bit of the word of a location (R15, R78). -/
def isFull (s : State) (l : WordLoc) : Bool :=
  match l with
  | .mem a => s.memFull a
  | .spad c o => !NatSet.has (o / 8 * 8) (s.core c).spadEmpty
  | .mail c b w => ((s.core c).mail[mailIndex b w]'(mailIndex_lt b w)).full

def setFull (s : State) (l : WordLoc) (b : Bool) : State :=
  match l with
  | .mem a => s.memSetFull a b
  | .spad c o => s.modCore c fun q => { q with spadEmpty := NatSet.set (o / 8 * 8) (!b) q.spadEmpty }
  | .mail c m w => s.modCore c fun q =>
      { q with mail := q.mail.set (mailIndex m w) { q.mail[mailIndex m w]'(mailIndex_lt m w) with full := b } (mailIndex_lt m w) }

/-- The word of a location holds an uncorrectable error (R316). -/
def isBad (s : State) (l : WordLoc) : Bool :=
  match l with
  | .mem a => s.memIsBad a
  | .spad c o => NatSet.has (o / 8 * 8) (s.core c).spadBad
  | .mail _ _ _ => false

def setBad (s : State) (l : WordLoc) (b : Bool) : State :=
  match l with
  | .mem a => { s with memBad := NatSet.set (a / 8 * 8) b s.memBad }
  | .spad c o => s.modCore c fun q => { q with spadBad := NatSet.set (o / 8 * 8) b q.spadBad }
  | .mail _ _ _ => s

/-- A whole word written over an uncorrectable one has good check bits and is full (R318). -/
def repairWord (s : State) (l : WordLoc) : State := if s.isBad l then (s.setBad l false).setFull l true else s

end State

/-! Coherence as an access meets it (R77 to R85). -/

/-- The bits of the sectors that `n` bytes from an address touch in its line (R77). -/
def sectorsOf (a n : Nat) : BitVec 4 :=
  ([0, 1, 2, 3] : List Nat).foldl (fun m i => if a % 128 / 32 ≤ i && 32 * i < a % 128 + n then m ||| BitVec.ofNat 4 (2 ^ i) else m) 0

/-- A store of `n` bytes covers every sector it touches (R77). -/
def coversSectors (a n : Nat) (acc : Access) : Bool := acc = .store && a % 32 = 0 && n % 32 = 0

def Core.findLine (c : Core) (tag : LineTag) : Option CacheLine := firstOf (fun l => l.tag = tag) c.lines

def Core.putLine (c : Core) (l : CacheLine) : Core :=
  if someOf (fun k => k.tag = l.tag) c.lines then { c with lines := replaceFirst (fun k => k.tag = l.tag) l c.lines }
  else { c with lines := c.lines ++ [l] }

def Core.dropLine (c : Core) (tag : LineTag) : Core := { c with lines := keepIf (fun l => l.tag ≠ tag) c.lines }

/-- The request event a core sends to a home (R81). -/
def requestEvent : LineWant → Instr
  | .read => .rds
  | .write => .rdx
  | .upgrade => .upg

/-- What a core must ask the home for before an access, if anything (R79, R81). -/
def lineWant (st : Option LineState) (writes : Bool) : Option LineWant :=
  match st, writes with
  | some .m, _ | some .e, _ => none
  | some .o, false | some .s, false => none
  | some .o, true | some .s, true => some .upgrade
  | some .i, true | none, true => some .write
  | some .i, false | none, false => some .read

/-- A core asks the home for a line, or for more of its sectors with a request that is under way (R77, R81). -/
def State.miss (s : State) (c : CoreId) (l : Loc) (w : LineWant) (sectors : BitVec 4) : State :=
  let q := s.core c
  let same (m : Miss) : Bool := m.tag = l.tag && m.want = w
  match firstOf same q.misses with
  | some m => s.setCore c { q with misses := replaceFirst same { m with sectors := m.sectors ||| sectors } q.misses }
  | none =>
    (s.setCore c { q with misses := q.misses ++ [{ tag := l.tag, want := w, home := l.home, sectors := sectors }] }).post
      (requestEvent w) { core := c, inc := q.inc4, tag := l.tag, comb := l.home }

/-- An access of `n` bytes by core `c` at its cache: a hit marks the line M for a store; what the core has no right to or lacks a
sector of, the home is asked for, and a whole sector stored is not fetched (R77, R79, R81). An absent sector of a line that the core
holds is asked for by RdS, or by RdX where a store needs a right too (DESIGN CHOICE, log 55). The line the access waits for, if it missed. -/
def State.touch (s : State) (c : CoreId) (l : Loc) (acc : Access) (n : Nat) : State × Option LineTag :=
  match l.place with
  | .mem a =>
    let q := s.core c
    let need := sectorsOf a n
    match q.findLine l.tag, lineWant ((q.findLine l.tag).map (·.state)) (writesTo acc) with
    | some k, none =>
      let k := { k with state := if writesTo acc then .m else k.state }
      if need &&& ~~~k.sectors = 0 || coversSectors a n acc then
        (s.setCore c (q.putLine { k with sectors := k.sectors ||| need }), none)
      else ((s.setCore c (q.putLine k)).miss c l .read need, some l.tag)
    | none, none => (s, none)
    | some k, some w =>
      let fetch := need &&& ~~~k.sectors ≠ 0 && !coversSectors a n acc
      (s.miss c l (if fetch then .write else w) need, some l.tag)
    | none, some w => (s.miss c l w need, some l.tag)
  | _ => (s, none)

/-- The bytes of L1D lines that a split leaves (R11). -/
def lineRoom (split : BitVec 2) : Nat :=
  match split.toNat with
  | 0 => 3072 | 1 => 4096 | _ => 5120

/-- A request under way is answered: its sectors are no longer missing, and the accesses that waited for the line alone are performed
(R81, R133). -/
def Core.answerMiss (q : Core) (tag : LineTag) (m : Bool) : Core :=
  let q := { q with misses := removeFirst (fun k : Miss => k.tag = tag && ((k.want = .read) = !m)) q.misses }
  if someOf (fun k : Miss => k.tag = tag) q.misses then q
  else { q with slots := q.slots.map fun t => { t with flights := keepIf (fun f : Flight => f.line ≠ some tag) t.flights } }

/-- A directory entry that is between requests and has none queued. -/
def DirEntry.quiet (d : DirEntry) : Bool :=
  d.serving.isNone && d.queue.isEmpty &&
  (match d.state with | .u | .s | .o | .x => true | _ => false)

/-- Every core of a table without a line. -/
def dropLineAll (tag : LineTag) : List (Nat × Core) → List (Nat × Core)
  | [] => []
  | (k, q) :: r => (k, if someOf (fun l => l.tag = tag) q.lines then q.dropLine tag else q) :: dropLineAll tag r

/-- A grant of a line, under way to its core. -/
def Due.grants (tag : LineTag) (d : Due) : Bool := d.event.kind = .grant && d.event.args.tag = tag

/-- The grants of a line that are under way reach their cores (R81). -/
def State.landGrants (s : State) (tag : LineTag) : State :=
  let s' : State := { s with agenda := keepIf (fun d => !d.grants tag) s.agenda }
  (keepIf (Due.grants tag) s.agenda).foldl (fun s d => s.modCore d.event.args.core fun q => q.answerMiss tag (d.event.args.st = .m)) s'

/-- The home recalls or invalidates every cached copy of a line before it acts on a word itself, as for RdX: grants on their way arrive
first, then no core holds the line (R81, R144, R197). A line whose request is being served is left to that request. -/
def State.recall (s : State) (l : Loc) : State :=
  match l.place with
  | .mem _ =>
    match firstOf (fun d => d.tag = l.tag) s.dir with
    | some d =>
      if d.quiet then
        let s := (s.landGrants l.tag).cacheL2 l.home l.tag
        { s with
          cores := dropLineAll l.tag s.cores
          dir := replaceFirst (fun d => d.tag = l.tag) { d with state := .u, owner := none, sharers := 0 } s.dir }
      else s
    | none => let s := (s.landGrants l.tag).cacheL2 l.home l.tag; { s with cores := dropLineAll l.tag s.cores }
  | _ => s

/-! Lost lines (R317, R320). -/

/-- The uncorrectable pattern of R317 in a word: its stale bytes are gone, and what they are now is a free value (DESIGN CHOICE, log 2). -/
def State.loseWord (s : State) (a : Nat) : State :=
  let (v, s) := s.takeFresh
  { s.memWrite a 8 v.toNat with memBad := NatSet.add a s.memBad }

/-- The words of a lost line at an address are uncorrectable (R317, R320). -/
def State.loseLineAt (s : State) (a : Nat) : State := (List.range 16).foldl (fun s i => s.loseWord (a + 8 * i)) s

/-- Where a line lies in machine-physical memory, if its granule is mapped. -/
def State.lineAddr (s : State) (tag : LineTag) : Option Nat :=
  let a := tag.line.toNat * 128
  if tag.tenant = hvTenant then some a
  else
    let e := s.stageTwo tag.tenant a
    if stageTwoValid e then some (stageTwoAddr e a) else none

/-- Lines are lost: their homes write the pattern of R317 into them, as soon as the second stage lets them (R313, R320). -/
def State.loseLines (s : State) (l : List LineTag) : State :=
  (l.filterMap s.lineAddr).foldl State.loseLineAt { s with lostHeld := s.lostHeld ++ keepIf (fun t => (s.lineAddr t).isNone) l }

/-- Lost lines whose granule is valid again. -/
def State.loseHeld (s : State) : State := { s with lostHeld := [] }.loseLines s.lostHeld

/-- An access that used a second-stage entry leaves the controllers a copy (R73). -/
def State.noteStageTwo (s : State) (l : Loc) : State :=
  match l.place with
  | .mem _ => if l.tag.tenant = hvTenant then s else s.copyStageTwo l.tag.tenant (l.tag.line.toNat * 128)
  | _ => s

/-! Plain loads and stores of the acting slot (R133 to R135, R317, R318). -/

/-- The run-ahead of the acting slot, if it is in one (R105). -/
def myAhead : M (Option RunAhead) := do
  let s ← get
  match s.myCore.ahead with
  | some a => return if a.slot = s.cur.slot then some a else none
  | none => return none

/-- The distance of a place from the start of another of the same memory. -/
def WordLoc.offsetIn (a b : WordLoc) : Option Nat :=
  match a, b with
  | .mem x, .mem y => if y ≤ x then some (x - y) else none
  | .spad c x, .spad d y => if c = d && y ≤ x then some (x - y) else none
  | _, _ => none

/-- A byte as a run-ahead sees it: the latest buffered store to it, else memory (R105). -/
def overlayByte (l : WordLoc) (b : Byte) : List BufferedStore → Byte
  | [] => b
  | st :: r =>
    match l.offsetIn st.loc.place with
    | some i => overlayByte l ((st.bytes[i]?).getD b) r
    | none => overlayByte l b r

/-- The bytes of a value with the buffered stores laid over them. -/
def overlay (l : WordLoc) (n v : Nat) (b : List BufferedStore) : Nat :=
  natOfBytes (((bytesOfNat v n).zipIdx).map fun p => overlayByte (l.plus p.2) p.1 b)

/-- A buffered store writes all of the word at a place (R105, R318). -/
def BufferedStore.replaces (st : BufferedStore) (l : WordLoc) : Bool :=
  !st.narrow && (match l.offsetIn st.loc.place with | some i => i < st.bytes.length | none => false)

/-- Some word among `n` bytes at a location is uncorrectable, and no buffered store replaces it: its address, as the virtual address of
the word (R105, R317). -/
def State.badWord (s : State) (l : WordLoc) (va : Word) (n : Nat) (stores : List BufferedStore := []) : Option Word :=
  (firstOf (fun i => s.isBad (l.plus (8 * i)) && !someOf (fun st => st.replaces (l.plus (8 * i))) stores)
    (List.range (Nat.max 1 (n / 8)))).map fun i => (va &&& ~~~7#64) + BitVec.ofNat 64 (8 * i)

/-- The buffered stores of the acting slot (R105). -/
def myStores : M (List BufferedStore) := do
  match ← myAhead with
  | some a => return a.stores
  | none => return []

def checkGood (l : Loc) (va : Word) (n : Nat) : M Unit := do
  let stores ← myStores
  match (← get).badWord l.place va n stores with
  | some w => trap causeUncorrectable w
  | none => pure ()

/-- The value an access reads. -/
def readAt (l : Loc) (va : Word) (n : Nat) : M Nat := do
  checkGood l va n
  let s ← get
  match ← myAhead with
  | some a => return overlay l.place n (s.readLoc l.place n) a.stores
  | none => return s.readLoc l.place n

/-- An access that reads: its value, and the line it waits for. -/
def performLoad (l : Loc) (va : Word) (n : Nat) : M (Nat × Option LineTag) := do
  let v ← readAt l va n
  let s ← get
  let (s', w) := (s.noteStageTwo l).touch s.cur.core l .load n
  set s'
  return (v, w)

/-- A store's checks on the word: one that covers part of an uncorrectable word traps (R317). -/
def storeCheck (l : Loc) (va : Word) (n : Nat) : M Unit := if n < 8 then checkGood l va n else pure ()

/-- `n` bytes stored, whole words over uncorrectable ones repaired (R318). -/
def State.storeLoc (s : State) (l : WordLoc) (n v : Nat) : State :=
  (List.range (n / 8)).foldl (fun (s : State) i => s.repairWord (l.plus (8 * i))) (s.writeLoc l n v)

/-- A store comes to its core's cache: one whose form stores the whole of its sector covers that (R77). -/
def State.touchStore (s : State) (c : CoreId) (l : Loc) (n : Nat) (covers : Bool) : State × Option LineTag :=
  match covers, l.place with
  | true, .mem a => s.touch c { l with place := .mem (a / 32 * 32) } .store 32
  | _, _ => s.touch c l .store n

/-- A run-ahead buffers a store (R105). -/
def RunAhead.buffer (a : RunAhead) (st : BufferedStore) : RunAhead := { a with stores := a.stores ++ [{ st with insn := a.insn }] }

/-- An access that writes, for a form that stores the whole of its sector if `covers`; under run-ahead it is buffered instead (R105). The
line it waits for. -/
def performStore (l : Loc) (va : Word) (n v : Nat) (covers : Bool := false) : M (Option LineTag) := do
  storeCheck l va n
  match ← myAhead with
  | some a =>
    let st : BufferedStore := { va := va, loc := l, bytes := bytesOfNat v n, narrow := n < 8, covers := covers, insn := 0 }
    modMyCore fun q => { q with ahead := some (a.buffer st) }
    return none
  | none =>
    let s ← get
    let (s', w) := ((s.noteStageTwo l).storeLoc l.place n v).touchStore s.cur.core l n covers
    set s'
    return w

/-- A load at a virtual address. -/
def loadVA (va : Word) (n : Nat) : M (Nat × Option LineTag) := do
  let l ← locate va n .load
  performLoad l va n

/-- A store at a virtual address; a line it waits for keeps it outstanding (R133). -/
def storeVA (va : Word) (n v : Nat) : M Unit := do
  let l ← locate va n .store
  match ← performStore l va n v with
  | some tag => modMe fun t => t.launchFlight (.x 0) true (some tag)
  | none => pure ()

end Sys2Proof.Machine
end

