-- ==== Sys2Proof/Machine/Operands.lean ====
section
/-!
DEFINITION. What each instruction names and which kinds of work may issue it: the operand forms of every row, for the checks of
steps 3 and 4 of R331, the scoreboard of R133, the joins of R105 and the recordings of R175.
-/
namespace Sys2Proof.Machine

/-- Kinds of work an instruction is kept from (R332, R336 to R343). -/
inductive Restriction where
  | none
  /-- The eleven command forms: the forager alone (R217). -/
  | mover
  /-- `spawn`, `sret` and `sync` (R200). -/
  | task
  deriving DecidableEq, Repr

/-- The operand form of an instruction. -/
structure Shape where
  /-- Lowest level that may issue it (R225 to R233). -/
  level : Level := .u
  /-- The system register it names. -/
  sysreg : Option (BitVec 12) := none
  /-- General registers its fields name. -/
  xs : List (BitVec 5) := []
  /-- General registers it uses beside those. -/
  implicit : List (BitVec 5) := []
  vs : List (BitVec 4) := []
  ms : List (BitVec 3) := []
  lbs : List (BitVec 3) := []
  zas : List (BitVec 2) := []
  rings : List (BitVec 3) := []
  /-- The mask field of a V-format word. -/
  mask : BitVec 3 := 0
  /-- V-format, MATRIX or RING: no light thread issues it (R93). -/
  wide : Bool := false
  /-- Excluded from stage code at U (R213). -/
  noStage : Bool := false
  restriction : Restriction := .none
  /-- It joins a run-ahead first (R105, R181). -/
  joins : Bool := false
  /-- It is a store in the count of R105. -/
  stores : Bool := false
  /-- The repetition buffer may hold it (R175). -/
  recordable : Bool := false
  /-- A send's payload register (R208). -/
  payload : Option (BitVec 5) := none
  deriving DecidableEq, Repr

namespace Shape

def scalar (xs : List (BitVec 5)) : Shape := { xs := xs }
def joining (xs : List (BitVec 5)) : Shape := { xs := xs, joins := true }
def storing (xs : List (BitVec 5)) : Shape := { xs := xs, stores := true }

/-- A vector form; those that write a vector or mask register may be recorded (R175). -/
def vector (vs : List (BitVec 4)) (m : BitVec 3) (xs : List (BitVec 5) := []) (recordable : Bool := true) : Shape :=
  { xs := xs, vs := vs, ms := [m], mask := m, wide := true, recordable := recordable }

/-- A vector store: one store of R105 (R155). -/
def vectorStore (vs : List (BitVec 4)) (m : BitVec 3) (xs : List (BitVec 5)) : Shape :=
  { vector vs m xs with stores := true }

/-- A mask-producing form or `vpopm`: no stage at U issues it (R337). -/
def masks (vs : List (BitVec 4)) (ms : List (BitVec 3)) (xs : List (BitVec 5) := []) (recordable : Bool := true) : Shape :=
  { xs := xs, vs := vs, ms := ms, wide := true, noStage := true, recordable := recordable }

def matrix (z : BitVec 2) (xs : List (BitVec 5) := []) (rings : List (BitVec 3) := []) (recordable : Bool := false) : Shape :=
  { xs := xs, zas := [z], rings := rings, wide := true, noStage := true, recordable := recordable }

def ring (rings : List (BitVec 3)) (xs : List (BitVec 5) := []) (recordable : Bool := false) : Shape :=
  { xs := xs, rings := rings, wide := true, noStage := true, recordable := recordable }

def repeating (xs : List (BitVec 5)) (joins : Bool) : Shape := { xs := xs, wide := true, noStage := true, joins := joins }

/-- A keyed form; those that change a region join a run-ahead (R181). -/
def keyed (lbs : List (BitVec 3)) (xs : List (BitVec 5)) (changes : Bool := false) : Shape :=
  { xs := xs, lbs := lbs, noStage := true, joins := changes }

/-- A THREAD form beside `yield` and `stop` (R213). -/
def thread (xs : List (BitVec 5)) : Shape := { xs := xs, noStage := true, joins := true }

def task (xs implicit : List (BitVec 5)) : Shape :=
  { xs := xs, implicit := implicit, noStage := true, joins := true, restriction := .task }

def send (xs : List (BitVec 5)) (p : BitVec 5) : Shape :=
  { xs := xs ++ [p, p + 1, p + 2, p + 3], joins := true, payload := some p }

def move (d s t : BitVec 5) : Shape := { xs := [d, s, t], restriction := .mover }

def supervisor (xs : List (BitVec 5)) : Shape := { xs := xs, level := .s }

def access (r : BitVec 12) (xs : List (BitVec 5)) (writes : Bool) : Shape := { xs := xs, sysreg := some r, joins := writes }

end Shape

open Shape in
/-- The operand form of each instruction; an event has none. -/
def shapeOf : Instr → Shape
  | .lb d s _ | .lh d s _ | .lw d s _ | .ld d s _ | .lbz d s _ | .lhz d s _ | .lwz d s _ | .ldAq d s _ => scalar [d, s]
  | .sb _ s t | .sh _ s t | .sw _ s t | .sd _ s t | .sdRl _ s t => storing [s, t]
  | .addi d s _ => { scalar [d, s] with recordable := true }
  | .slti d s _ | .sltni d s _ | .xori d s _ | .ori d s _ | .andi d s _ => scalar [d, s]
  | .slli d s _ | .srli d s _ | .srai d s _ => scalar [d, s]
  | .clz d s | .ctz d s | .popc d s | .sextw d s | .zextw d s | .rev8 d s => scalar [d, s]
  | .add d s t | .sll d s t | .slt d s t | .sltn d s t | .xor d s t | .srl d s t | .or d s t | .and d s t => scalar [d, s, t]
  | .sub d s t | .sra d s t | .orn d s t | .andn d s t | .min d s t | .max d s t | .minn d s t | .maxn d s t => scalar [d, s, t]
  | .mul d s t | .mulh d s t | .mulhn d s t | .div d s t | .divn d s t | .rem d s t | .remn d s t => scalar [d, s, t]
  | .lhi d _ | .apc d _ | .jal d _ => scalar [d]
  | .jalr d s _ => scalar [d, s]
  | .beq _ s t | .bne _ s t | .blt _ s t | .bge _ s t | .bltn _ s t | .bgen _ s t => scalar [s, t]
  | .fence _ | .fenceK _ => joining []
  | .amoswap d _ s t _ | .amoadd d _ s t _ | .amoand d _ s t _ | .amoor d _ s t _ | .amoxor d _ s t _ => joining [d, s, t]
  | .amomin d _ s t _ | .amomax d _ s t _ | .amominn d _ s t _ | .amomaxn d _ s t _ | .amocas d _ s t _ => joining [d, s, t]
  | .ldfe d s _ | .ldff d s _ | .ldfx d s _ | .fstate d s _ => joining [d, s]
  | .sdef _ s t | .sdff _ s t => joining [s, t]
  | .fempty s _ => joining [s]
  | .vld d s _ m => vector [d] m [s]
  | .vlds d s g _ m => vector [d] m [s, g]
  | .vldx d s v _ m => vector [d, v] m [s]
  | .vst d s _ m => vectorStore [d] m [s]
  | .vsts d s g _ m => vectorStore [d] m [s, g]
  | .vstx d s v _ m => vectorStore [d, v] m [s]
  | .vadd d a b _ m | .vsub d a b _ m | .vmul d a b _ m | .vdiv d a b _ m => vector [d, a, b] m
  | .vmin d a b _ m | .vmax d a b _ m | .vfma d a b _ m | .vfms d a b _ m => vector [d, a, b] m
  | .vand d a b _ m | .vor d a b _ m | .vxor d a b _ m | .vshl d a b _ m | .vshr d a b _ m | .vsra d a b _ m => vector [d, a, b] m
  | .vcmp _ n a b _ m => { masks [a, b] [n, m] with mask := m }
  | .vsel d a b _ k => vector [d, a, b] k
  | .vperm d a b _ m => vector [d, a, b] m
  | .vslide d a g _ m => vector [d, a] m [g]
  | .vabs d a _ m | .vneg d a _ m | .vsqrt d a _ m => vector [d, a] m
  | .vredsum d a _ m | .vredmax d a _ m | .vredmin d a _ m => vector [a] m [d] false
  | .vbcast d s _ m => vector [d] m [s]
  | .vmvx d a _ => vector [a] 0 [d] false
  | .mand d a b => { masks [] [d, a, b] with mask := b }
  | .mor d a b => { masks [] [d, a, b] with mask := b }
  | .mnot d a => masks [] [d, a]
  | .vpopm d a => masks [] [a] [d] false
  | .vcvt d a _ _ _ m => vector [d, a] m
  | .mmac z a b _ _ _ _ => matrix z [] [a, b] true
  | .mmacs z a b s _ _ _ _ => matrix z [s] [a, b] true
  | .mzero z => matrix z [] [] true
  | .mldz s z _ => matrix z [s]
  | .mstz s z _ => { matrix z [s] with stores := true }
  | .mscl a => ring [a]
  | .macq z | .mrel z => matrix z
  | .rgset g s => ring [g] [s]
  | .rgwf g | .rgwe g | .rghd g | .rgtl g => ring [g] [] true
  | .rgrd d g => ring [g] [d]
  | .rpbeg => repeating [] true
  | .rpend => repeating [] false
  | .rpgo s _ | .rpgoa s _ => repeating [s] false
  | .rpjoin => repeating [] true
  | .lbroot d s => keyed [d] [s]
  | .lbkid d a t => keyed [d, a] [t]
  | .lbapp d a | .lbins d a => keyed [d, a] [] true
  | .lbdel a => keyed [a] [] true
  | .lbanc d a b | .lbcmp d a b => keyed [a, b] [d]
  | .lbpar d a => keyed [d, a] []
  | .lbdep d a | .lbres d a => keyed [a] [d]
  | .lbmov d a b => keyed [d, a, b] [] true
  | .lbfix d => keyed [d] []
  | .lbcp d a => keyed [d, a] []
  | .lblm d s => keyed [d] [s]
  | .lbsm s b => { keyed [b] [s] with stores := true }
  | .lbxg d a _ => keyed [a] [d]
  | .lbld d a _ => keyed [a] [d]
  | .lbst _ a t => keyed [a] [t] true
  | .kfirst d a _ | .knext d a _ => keyed [a, a + 1] [d]
  | .kredI32 d c _ | .kredI64 d c _ | .kredF32 d c _ | .kredF64 d c _ => keyed [c, c + 1] [d, d + 1] true
  | .skey d a _ => keyed [d] [a, a + 1]
  | .sld d a _ => keyed [a] [d]
  | .sst d a _ | .sadd d a _ => keyed [a] [d] true
  | .scoord d a _ => keyed [a] [d, d + 1]
  | .spawn s _ => task [s] [1, 3, 4, 24, 25, 26, 27, 28, 29, 30, 31]
  | .sret => task [] [1]
  | .sync s => task [s] []
  | .yield | .stop => joining []
  | .hop s => thread [s]
  | .hopk a _ => { keyed [a] [] with joins := true }
  | .ganggo s => thread [s]
  | .gbar _ => thread []
  | .msend s t _ => send [s] t
  | .msendnb d s t _ => send [d, s] t
  | .mdone => joining []
  | .mbput _ t _ => joining [t]
  | .mbget d _ _ => joining [d]
  | .chgo s t _ => joining [s, t]
  | .get d _ => joining [d]
  | .put s => joining [s]
  | .vget d _ => { vector [d] 0 [] false with joins := true, wide := false }
  | .vput a => { vector [a] 0 [] false with joins := true, wide := false }
  | .chend => joining []
  | .mvcp d _ s t | .mv2d d _ s t | .mvgth d _ s t | .mvsct d _ s t | .mvfill d _ s t | .mvget d _ s t => move d s t
  | .mvput d _ s t | .mvamo d _ s t | .mvring d _ s t | .sdense d _ s t | .ssparse d _ s t => move d s t
  | .mvwait _ s => scalar [s]
  | .mvid d _ => scalar [d]
  | .ecall | .ebreak => joining []
  | .xret => { supervisor [] with joins := true }
  | .wfm => scalar []
  | .fenceI => joining []
  | .srd d r => access r [d] false
  | .swr d s r | .sset d s r | .sclr d s r => access r [d, s] true
  | .tlbinv s t => { supervisor [s, t] with joins := true }
  | .dtwr s t => supervisor [s, t]
  | .dtrd s t => { supervisor [s, t] with stores := true }
  | .wake s => { supervisor [s] with joins := true }
  | .mbind s _ => scalar [s]
  | .chsw s _ => supervisor [s]
  | .pshare d s t => { supervisor [d, s, t] with joins := true }
  | .matrixOpComplete | .bufferIssue | .runaheadJoin | .kredComplete | .keyEngineAnswer | .heldKeyedRequest => {}
  | .prefixInvalidate | .prefixEntryActivate | .gangAdmission | .stageStart | .transferComplete | .mvringSlotFree => {}
  | .systemRegisterWrite | .sramcfgWrite | .splitTakesEffect | .partitionRegisterWrite | .chainStopMessage | .asyncTrap => {}
  | .timer | .managementNotice | .waitLimit | .resultUsable | .pageWalk | .secondStageResume | .secondStageHoldTimeout => {}
  | .launch | .hopArrival | .dequePop | .steal | .messageArrival | .messageDelivery | .wakeMessage | .halt | .slotResume => {}
  | .stopRequest | .convert | .shootdown | .shootdownAck | .rds | .rdx | .upg | .wb | .forward | .ownerAnswer => {}
  | .invalidation | .invalidationAck | .grant | .discoveryAnswer | .directoryDrop | .lineEviction | .powerGate => {}
  | .answerTimeout | .coreDeclaredDead | .deadCoreRecord | .commit | .saveCore | .restoreCore | .clearForwarding => {}
  | .freeze | .resume | .tenantDeadline | .budgetExhausted | .slotHandover | .forwardingExpiry | .hostBatchTimeout => {}
  | .oneSidedRead | .oneSidedWrite | .remoteAtomic | .fabricReply | .fabricResendTimeout | .packetUndeliverable => {}
  | .linkStateChange | .powerOn | .attestation | .sensorRead | .logRead | .timeExchange | .commitUpdate => {}
  | .sensorAboveLimit | .discoveryProbe | .neighbourQueueArrival | .linkLevelRetry | .packetAcknowledgement => {}
  | .powerUpComplete | .illegalInstruction | .instructionFetchFault => {}

/-- Rings a form uses beside its fields: the scale ring of an mk8 form (R172). -/
def Shape.scaleRing (mfmt : BitVec 4) : Instr → List (BitVec 3)
  | .mmac _ _ _ .mk8 _ _ _ => [mfmt.extractLsb' 0 3]
  | .mmacs _ _ _ _ .mk8 _ _ _ => [mfmt.extractLsb' 0 3]
  | _ => []

/-- Every register that an instruction reads or writes, for the scoreboard (R133). -/
def Shape.names (h : Shape) : List RegName :=
  h.xs.map .x ++ h.implicit.map .x ++ h.vs.map .v ++ h.ms.map .m ++ h.lbs.map .lb

/-- The first register of a list that is pending. -/
def Slot.firstPending (t : Slot) : List RegName → Option RegName
  | [] => none
  | r :: l => if t.isPending r then some r else t.firstPending l

/-! Renaming under staggering (R176). -/

/-- A recorded instruction as the buffer issues it in iteration `t` with stride `s`: accumulators and vector registers move. -/
def stagger (t : Nat) (s : BitVec 4) (i : Instr) : Instr :=
  let z (r : BitVec 2) : BitVec 2 := r + BitVec.ofNat 2 t
  let v (r : BitVec 4) : BitVec 4 := r + BitVec.ofNat 4 (t * s.toNat)
  match i with
  | .mmac a b c f x y w => .mmac (z a) b c f x y w
  | .mmacs a b c g f x y w => .mmacs (z a) b c g f x y w
  | .mzero a => .mzero (z a)
  | .vld d g u m => .vld (v d) g u m
  | .vlds d g h u m => .vlds (v d) g h u m
  | .vldx d g a u m => .vldx (v d) g (v a) u m
  | .vst d g u m => .vst (v d) g u m
  | .vsts d g h u m => .vsts (v d) g h u m
  | .vstx d g a u m => .vstx (v d) g (v a) u m
  | .vadd d a b u m => .vadd (v d) (v a) (v b) u m
  | .vsub d a b u m => .vsub (v d) (v a) (v b) u m
  | .vmul d a b u m => .vmul (v d) (v a) (v b) u m
  | .vdiv d a b u m => .vdiv (v d) (v a) (v b) u m
  | .vmin d a b u m => .vmin (v d) (v a) (v b) u m
  | .vmax d a b u m => .vmax (v d) (v a) (v b) u m
  | .vfma d a b u m => .vfma (v d) (v a) (v b) u m
  | .vfms d a b u m => .vfms (v d) (v a) (v b) u m
  | .vand d a b u m => .vand (v d) (v a) (v b) u m
  | .vor d a b u m => .vor (v d) (v a) (v b) u m
  | .vxor d a b u m => .vxor (v d) (v a) (v b) u m
  | .vshl d a b u m => .vshl (v d) (v a) (v b) u m
  | .vshr d a b u m => .vshr (v d) (v a) (v b) u m
  | .vsra d a b u m => .vsra (v d) (v a) (v b) u m
  | .vcmp c n a b u m => .vcmp c n (v a) (v b) u m
  | .vsel d a b u m => .vsel (v d) (v a) (v b) u m
  | .vperm d a b u m => .vperm (v d) (v a) (v b) u m
  | .vslide d a g u m => .vslide (v d) (v a) g u m
  | .vabs d a u m => .vabs (v d) (v a) u m
  | .vneg d a u m => .vneg (v d) (v a) u m
  | .vsqrt d a u m => .vsqrt (v d) (v a) u m
  | .vbcast d g u m => .vbcast (v d) g u m
  | .vcvt d a p u r m => .vcvt (v d) (v a) p u r m
  | i => i

/-- An instruction's shape with the scale ring it uses (R172). -/
def fullShape (mfmt : BitVec 4) (i : Instr) : Shape :=
  { shapeOf i with rings := (shapeOf i).rings ++ Shape.scaleRing mfmt i }

/-- The shapes of everything a sequence names in its first `n` iterations (R177); names come round within 16. -/
def staggeredShapes (mfmt : BitVec 4) (words : List Instr) (s : BitVec 4) (n : Nat) : List Shape :=
  (List.range (Nat.min n 16)).flatMap fun t => words.map fun i => fullShape mfmt (stagger t s i)

/-- Two forms name a register, accumulator or ring in common (R105); `x0` and `m0`, which no instruction changes, are not counted. -/
def Shape.meets (a b : Shape) : Bool :=
  someOf (fun r => r ≠ .x 0 && r ≠ .m 0 && someOf (fun q => q = r) b.names) a.names ||
  someOf (fun z => someOf (fun y => y = z) b.zas) a.zas || someOf (fun g => someOf (fun h => h = g) b.rings) a.rings

end Sys2Proof.Machine
end

