-- ==== Sys2Proof/Machine/Perform.lean ====
section
/-!
DEFINITION. How a slot issues one instruction: the checks of steps 3 and 4 of R331, the joins of R105, the recordings of R175, the
scoreboard of R133, and what becomes of an instruction that stops (R76, R293, R300, R308, R313).
-/
namespace Sys2Proof.Machine

/-! Steps 3 and 4 of R331. -/

/-- The lowest level that may name a system register (R234). -/
def sysRegLevel (r : BitVec 12) : Level :=
  if r.toNat ≥ 0x200 || (0x011 ≤ r.toNat && r.toNat ≤ 0x015) then .h
  else if r.toNat ≥ 0x100 || (0x001 ≤ r.toNat && r.toNat ≤ 0x005) then .s
  else .u

/-- The slot holds a message class (R96). -/
def State.holdsClass (s : State) (c : CoreId) (k : SlotId) : Bool :=
  someOf (fun b => match b with | some (k', _) => k' = k | none => false) (s.core c).bindings.toList

/-- The slot runs stage code at U (R213, R301). -/
def Slot.stageAtU (t : Slot) : Bool := t.form.isSome && t.priv = .u

/-- The slot's stage number as a unit. -/
def Slot.stageUnit (t : Slot) : BitVec 8 := t.stage.setWidth 8

/-- Step 3 of R331: the level allows the form and its system register. -/
def levelRefused (h : Shape) (t : Slot) : Bool :=
  !h.level.le t.priv || (match h.sysreg with | some r => !(sysRegLevel r).le t.priv | none => false)

/-- A light thread's registers and forms (R13, R93, R332): `x0` to `x15` and `lb0` to `lb3` alone. -/
def lightRefused (h : Shape) (t : Slot) : Bool :=
  t.light && (h.wide || !h.vs.isEmpty || !h.ms.isEmpty || someOf (fun r : BitVec 5 => 16 ≤ r.toNat) h.xs ||
    someOf (fun r : BitVec 3 => 4 ≤ r.toNat) h.lbs)

/-- A stage's registers at U (R213, R296). -/
def stageRegisterRefused (h : Shape) : Bool :=
  someOf (fun r : BitVec 5 => 16 ≤ r.toNat) h.xs || someOf (fun r : BitVec 4 => 4 ≤ r.toNat) h.vs || h.mask ≠ 0 || h.payload = some 0

/-- The cause that steps 3 and 4 of R331 raise, if any, lowest cause and subcode first. -/
def refusal (i : Instr) (s : State) : Option (BitVec 8 × Word) :=
  let h := shapeOf i
  let t := s.me
  if levelRefused h t then some (causeIllegal, xvalSub i 2)
  else if lightRefused h t then some (causeIllegal, xvalSub i 3)
  else if h.restriction = .mover && s.cur.slot ≠ forager then some (causeIllegal, xvalSub i 4)
  else if h.restriction = .task && (s.cur.slot = forager || t.light || s.holdsClass s.cur.core s.cur.slot) then
    some (causeIllegal, xvalSub i 5)
  else if t.stageAtU && h.noStage then some (causeChain, xvalUnit i t.stageUnit 4)
  else if t.stageAtU && stageRegisterRefused h then some (causeChain, xvalUnit i t.stageUnit 3)
  else none

/-! Run-ahead and the repetition buffer (R105, R175 to R177). -/

/-- The run-ahead of a slot (R105). -/
def State.aheadOf (s : State) (c : CoreId) (k : SlotId) : Option RunAhead :=
  match (s.core c).ahead with
  | some a => if a.slot = k then some a else none
  | none => none

/-- An instruction that must join the slot's run-ahead before it issues (R105). -/
def mustJoin (i : Instr) (s : State) : Bool :=
  match s.aheadOf s.cur.core s.cur.slot with
  | none => false
  | some a =>
    let h := shapeOf i
    let b := s.myCore.rep
    h.joins || (h.stores && a.storeCount ≥ 64) ||
      someOf (fun q => (fullShape s.me.mfmt i).meets q) (staggeredShapes s.me.mfmt b.words b.stride b.count.toNat)

/-- The slot holds the buffer in a phase. -/
def RepBuffer.heldBy (b : RepBuffer) (k : SlotId) (p : RepPhase) : Bool := b.holder = some k && b.phase = p

/-- `rpbeg` and `rpend` act during a recording; every other instruction is recorded (R175, R338). -/
def records (i : Instr) (s : State) : Bool :=
  s.myCore.rep.heldBy s.cur.slot .recording && i ≠ .rpbeg && i ≠ .rpend

/-- A recordable instruction is stored in the buffer, unless that is full (R175, R338). -/
def record (i : Instr) : M Unit := do
  let b := (← get).myCore.rep
  if b.words.length ≥ 32 then trap causeRing (xvalUnit i 0 7)
  modMyCore fun q => { q with rep := { b with words := b.words ++ [i] } }

/-- A cause of steps 5 to 7 of R331 that comes before 0x10 sub 7. -/
def beforeRecording (cause : BitVec 8) (xval : Word) : Bool :=
  cause = causeTarget || cause = causeIllegal || cause = causeObject || cause = causeChain || (cause = causeRing && field xval 7 0 < 7)

/-- An instruction that no recording may hold: 0x10 sub 7, unless a check of its own comes first (R331, R338). -/
def refuseRecording (i : Instr) (body : M Flow) : M Unit := do
  let late : M Unit := trap causeRing (xvalUnit i 0 7)
  let own : M Unit := do
    let _ ← body
    late
  tryCatch own fun e =>
    match e with
    | .trap cause xval => if beforeRecording cause xval then trap cause xval else late
    | _ => late

/-- The buffer passes from its holder; waiters look again when they are woken (R175). -/
def State.releaseRep (s : State) (c : CoreId) : State :=
  s.modCore c fun q => { q with rep := { RepBuffer.free with waiters := q.rep.waiters } }

/-- A trap at a recording discards it (R339). -/
def State.dropRecording (s : State) (c : CoreId) (k : SlotId) : State :=
  if (s.core c).rep.heldBy k .recording then s.releaseRep c else s

/-! Performing an instruction. -/

/-- The acting slot's pc after an instruction. -/
def State.advanced (s : State) : Flow → State
  | .step => s.modMe fun t => { t with pc := t.pc + 4 }
  | .to pc => s.modMe fun t => { t with pc := pc }
  | .stay => s

def advance (f : Flow) : M Unit := modify fun s => s.advanced f

/-- A run-ahead's stores are counted (R105). -/
def countStore (i : Instr) : M Unit := do
  if (shapeOf i).stores then
    match ← myAhead with
    | some a => modMyCore fun q => { q with ahead := some { a with storeCount := a.storeCount + 1, insn := wordOf i } }
    | none => pure ()

/-- The scoreboard: an instruction waits for a pending register it names (R133). -/
def waitRegisters (i : Instr) : M Unit := do
  match (← get).me.firstPending (shapeOf i).names with
  | some r => parkAs .memwait (.register r)
  | none => pure ()

/-- Nothing that stands before the instruction's own effect stops it: no join (R105), no cause of steps 3 and 4 of R331, no recording
(R175), no pending register among those it names (R133). -/
def State.issues (s : State) (i : Instr) : Bool :=
  !mustJoin i s && (refusal i s).isNone && !records i s && (s.me.firstPending (shapeOf i).names).isNone

/-- Everything a slot does to issue an instruction with effect `body`. -/
def perform (i : Instr) (body : M Flow) : M Unit := do
  let s ← get
  if mustJoin i s then engineWait .join
  match refusal i s with
  | some (c, x) => trap c x
  | none => pure ()
  if records i s then
    if (shapeOf i).recordable then
      record i
      advance .step
    else
      waitRegisters i
      refuseRecording i body
  else
    waitRegisters i
    countStore i
    advance (← body)

/-! Traps (R293, R294, R300). -/

/-- Run-ahead rolled back (R300 steps 2 and 3): registers the sequence names keep their values, the others return to the
checkpoint; buffered stores are dropped; the pc is the `rpgoa`'s. -/
def State.rollBack (s : State) (c : CoreId) (k : SlotId) : State :=
  match s.aheadOf c k with
  | none => s
  | some a =>
    let b := (s.core c).rep
    let t := s.slot c k
    let named := staggeredShapes t.mfmt b.words b.stride b.count.toNat
    let keeps (r : RegName) : Bool := someOf (fun h : Shape => someOf (fun q => q = r) h.names) named
    let t' := { t with
      x := Vector.ofFn fun n => if keeps (.x (BitVec.ofNat 5 n)) then t.x[n] else a.x[n]
      v := Vector.ofFn fun n => if keeps (.v (BitVec.ofNat 4 n)) then t.v[n] else a.v[n]
      m := Vector.ofFn fun n => if keeps (.m (BitVec.ofNat 3 n)) then t.m[n] else a.m[n]
      lb := Vector.ofFn fun n => if keeps (.lb (BitVec.ofNat 3 n)) then t.lb[n] else a.lb[n]
      fflags := a.fflags ||| a.seqFlags
      pc := b.start }
    (s.setSlot c k t').modCore c fun q => { q with ahead := none }

/-- A slot that leaves a waiting form for good stands on no list of waiters for an accumulator or the buffer (R165, R175). -/
def Core.leaveQueues (q : Core) (k : SlotId) : Core :=
  { q with
    zaWaiters := q.zaWaiters.map (keepIf fun j => j ≠ k)
    rep := { q.rep with waiters := keepIf (fun j => j ≠ k) q.rep.waiters } }

/-- What a trap of a slot undoes before its entry: run-ahead rolled back, a recording discarded, its places in queues given up. -/
def State.beforeEntry (s : State) (c : CoreId) (k : SlotId) : State :=
  ((s.rollBack c k).dropRecording c k).modCore c fun q => q.leaveQueues k

/-- The second stage finds the word at a guest-physical address, and it is good. -/
def State.goodAt (s : State) (tenant : BitVec 16) (gpa : Nat) : Bool :=
  match s.second tenant gpa .load with
  | .granted a => !s.memIsBad a
  | .bad => false
  | _ => true

/-- The guest-physical address to which a walk leads, if it finds a leaf. -/
def State.walkedTo (s : State) (t : Slot) (va : Word) : Option Nat :=
  match s.walk t va .load with
  | .leaf pte level _ _ => some (field pte 39 14 * 2 ^ 14 + va.toNat % 2 ^ levelBits level)
  | _ => none

/-- The guest-physical or unit address under which an uncorrectable word that an access at a virtual address met is logged: a scratchpad
offset, H's address, that of the page in the TLB, or of the one that a walk finds where the TLB has none; or that of the entry at which the
walk met it (R354; DEDUCED, log 65). -/
def State.errorAddr (s : State) (c : CoreId) (t : Slot) (va : Word) : Nat :=
  if inWindow va then windowOffset va
  else if t.priv = .h then va.toNat
  else
    let walked := s.badEntry t va (field t.xlroot 39 14 * 2 ^ 14) 0 4
    match (s.core c).tlbFind t va with
    | some e =>
      let gpa := field e.pte 39 14 * 2 ^ 14 + va.toNat % 2 ^ e.bits
      if s.goodAt t.tenant gpa then walked.getD gpa else gpa
    | none => walked.getD ((s.walkedTo t va).getD va.toNat)

/-- Uncorrectable data has been met at an address, and the controller logs it (R317, R354). -/
def State.logBadAt (s : State) (c : CoreId) (addr : Nat) : State := s.logEvent 0x0002 (unitOf c) (logData [(12, 8, addr), (20, 1, 1)])

/-- A slot's access or its transfer's has met uncorrectable data (R317, R354). -/
def State.logBadData (s : State) (c : CoreId) (t : Slot) (va : Word) : State := s.logBadAt c (s.errorAddr c t va)

/-- A trap with cause 0x15 and `xval` is logged: for a word of a table or pool under the address that the access found, for any other under
that which the xval leads to (R354). -/
def State.logTrapped (s : State) (c : CoreId) (t : Slot) (xval : Word) : State :=
  match t.badTable with
  | some (x, gpa) => if x = xval then s.logBadAt c gpa else s.logBadData c t xval
  | none => s.logBadData c t xval

/-- Entry of a synchronous trap whose slot has drained (R225, R294); uncorrectable data is logged (R354). -/
def State.enterTrap (s : State) (c : CoreId) (k : SlotId) (cause : BitVec 8) (xval : Word) : State :=
  let s := if cause = causeUncorrectable then s.logTrapped c (s.slot c k) xval else s
  (s.beforeEntry c k).modSlot c k fun t => { t.enterTrap (trapLevel cause t.priv) false cause xval with cause := none, badTable := none }

/-- A synchronous trap of a slot: it waits until the slot has drained, and until a run-ahead's sequence has ended (R293, R300). -/
def State.takeTrap (s : State) (c : CoreId) (k : SlotId) (cause : BitVec 8) (xval : Word) : State :=
  let t := s.slot c k
  if !t.drained then s.setSlot c k (t.park .memwait .earlier)
  else if (s.aheadOf c k).isSome && (s.core c).rep.heldBy k .running then
    s.setSlot c k { t.park .engwait (.engine .join) with cause := some (cause, xval) }
  else s.enterTrap c k cause xval

/-! Translation waits (R76, R308, R356) and holds (R313). -/

/-- Code of an access in a fault record (R308). -/
def accessCode : Access → BitVec 2
  | .load => 0 | .store => 1 | .fetch => 2 | .rmw => 3

/-- Payload word 0 of a fault record (R308). -/
def faultWord (insn : BitVec 32) (chan : Bool) (f : FaultInfo) : Word :=
  insn ++ 0#9 ++ BitVec.ofBool chan ++ accessCode f.acc ++ 0#1 ++ f.level ++ f.reason ++ 0x14#8

/-- A message within the package is due at its core (R95, R207). -/
def State.sendLocal (s : State) (core : CoreId) (msg : Message) : State :=
  s.post .messageArrival { core := core, msg := some msg }

/-- The fault-service class of core `c`'s partition is class 1 of core pbase (R302, R308). -/
def State.faultRecord (s : State) (c : CoreId) (sender : Word) (tenant : BitVec 16) (repair : Word) (insn : BitVec 32) (chan : Bool)
    (f : FaultInfo) : State :=
  s.sendLocal (s.core c).pbase
    { dest := slotIdWord s.endpoint (s.core c).pbase 0, sender := sender, tenant := tenant, cls := 1, origin := .slot,
      payload := #v[faultWord insn chan f, f.va, repair, f.entry], body := .plain }

/-- The slot enters `xlwait` and its fault record leaves (R76, R308). -/
def State.translationWait (s : State) (c : CoreId) (k : SlotId) (insn : BitVec 32) (f : FaultInfo) : State :=
  let s' := s.faultRecord c (s.senderWord c k) (s.slot c k).tenant (s.checkedWord c k) (if f.acc = .fetch then 0 else insn) false f
  s'.modSlot c k fun t => t.park .xlwait (.translation f.va f.acc)

/-- A slot in run-ahead asks to join (R105). -/
def State.askJoin (s : State) (c : CoreId) (k : SlotId) : State := s.modSlot c k fun t => t.park .engwait (.engine .join)

/-- Cycles that an access is held, or a core's answer awaited, before it fails (R313, R319). -/
def holdLimit : Nat := 2 ^ 22

/-- A slot waits for the walk of an access: of its instruction, or of a buffered store at its join if `join` is 1 (R66, R67, R105). -/
def State.walkFor (s : State) (c : CoreId) (k : SlotId) (va : Word) (acc : Access) (insn : BitVec 32) (join : Nat) : State :=
  (s.modSlot c k fun t => t.park .memwait (.walk va acc)).post .pageWalk { core := c, slot := k, word := va, acc := acc, insn := insn, num := join }

/-- An access of a slot reports its fault; of several the earliest in program order is kept (R293). -/
def Slot.report (t : Slot) (e : EarlierFault) : Slot :=
  let e := match t.earlier with | some f => if f.no ≤ e.no then f else e | none => e
  { t with cause := some (e.cause, e.xval), earlier := some e }

/-- An earlier access of the slot has reported a fault, which comes before any other cause (R293, R344). -/
def Slot.reported (t : Slot) : Bool := t.cause.isSome && t.earlier.isSome

/-- The slot takes the cause that it has: that which an earlier access has reported is taken, once the slot has drained and a run-ahead's
sequence has ended, at the instruction that made the access (R225, R293, R300). -/
def State.takeCause (s : State) (c : CoreId) (k : SlotId) (cause : BitVec 8) (xval : Word) : State :=
  let t := s.slot c k
  match t.earlier with
  | none => s.takeTrap c k cause xval
  | some e =>
    if !t.drained then s.setSlot c k (t.park .memwait .earlier)
    else if (s.aheadOf c k).isSome && (s.core c).rep.heldBy k .running then s.setSlot c k (t.park .engwait (.engine .join))
    else ((s.rollBack c k).modSlot c k fun t => { t with pc := e.pc, earlier := none }).enterTrap c k e.cause e.xval

/-- A trap 0x15 of a slot for an uncorrectable word that lies at a guest-physical address (R317, R354). -/
def State.trapBadAt (s : State) (c : CoreId) (k : SlotId) (gpa : Nat) (xval : Word) : State :=
  (s.modSlot c k fun t => { t with badTable := some (xval, gpa) }).takeTrap c k causeUncorrectable xval

/-- What becomes of a slot whose instruction stopped. -/
def State.settle (s : State) (c : CoreId) (k : SlotId) (insn : BitVec 32) : Stop → Host.Outcome State Fault Refusal
  | .trap cause xval => .next (s.takeTrap c k cause xval)
  | .park .engwait (.engine .join) => .next (s.askJoin c k)
  | .park .memwait (.walk va acc) => .next (s.walkFor c k va acc insn 0)
  | .park st w => .next (s.modSlot c k fun t => t.park st w)
  | .translation f =>
    if (s.aheadOf c k).isSome then .next (s.askJoin c k) else .next (s.translationWait c k insn f)
  | .held gpa cause xval =>
    .next (((s.copyStageTwo (s.slot c k).tenant gpa).modSlot c k fun t => t.park .memwait (.secondStage gpa s.now)).post
      .secondStageHoldTimeout { core := c, slot := k, word := xval, num := s.now, code := cause.setWidth 16 } holdLimit)
  | .shard region entry home va gpa => .next ((s.failShard (s.slot c k).tenant region entry home va).trapBadAt c k gpa va)
  | .badTable gpa xval => .next (s.trapBadAt c k gpa xval)
  | .fault f => .fault f

/-- The meaning of an instruction with effect `body`, for the acting slot. An instruction that stops leaves the state as it was
but for what the stop itself does (R293). -/
def run (i : Instr) (body : M Flow) (s : State) : Host.Outcome State Fault Refusal :=
  match (perform i body).run s with
  | .ok _ s' => .next s'
  | .error e _ => s.settle s.cur.core s.cur.slot (wordOf i) e

/-- The meaning of an event: a computation that never stops. -/
def happen (f : State → State) (s : State) : Host.Outcome State Fault Refusal := .next (f s)

end Sys2Proof.Machine
end

