-- ==== Sys2Proof/Machine/Agenda.lean ====
section
/-!
DEFINITION. What can happen next (DESIGN CHOICE, log 1): when a wait is over (R87), which events are due, which moves the state itself enables,
which slot a core issues (R91), and how time passes.
-/
namespace Sys2Proof.Machine

/-! Rings, channels and links as waits see them. -/

/-- Slots of a ring that a producer may fill (R167). -/
def Ring.free (g : Ring) : Nat := g.n - g.filled - g.held.length

/-- A ring register satisfies `p`, or is unset, so that the waiting form issues again (R169). -/
def Core.ringIs (q : Core) (g : BitVec 3) (p : Ring → Bool) : Bool :=
  match q.rings[g.toNat]'(g.isLt) with
  | some r => p r
  | none => true

/-- A matrix operation reads a ring (R169). -/
def MatrixOp.reads (o : MatrixOp) (g : BitVec 3) : Bool :=
  match o.form with
  | .mac _ a b sc _ => a.1 = g || b.1 = g || (match sc with | some x => x.1 = g | none => false)
  | _ => false

/-- A channel's watermark (R219). -/
def Channel.watermark (h : Channel) : BitVec 32 :=
  match h.queue with
  | [] => h.next
  | t :: _ => t.id

/-- Transfer `id` has completed (R219). -/
def Channel.reached (h : Channel) (id : BitVec 32) : Bool :=
  let d := (h.watermark - id).toNat
  1 ≤ d && d ≤ 2 ^ 31

def State.findChain (s : State) (r : ChainRef) : Option Chain := firstOf (fun h => h.ref = r) s.chains

/-- Link `l` of a chain has what a link form needs (R214). -/
def Chain.linkReady (h : Chain) (l : BitVec 2) (pop : Bool) (need : Nat) : Bool :=
  match h.links[l.toNat]? with
  | none => true
  | some k =>
    if pop then k.words.length ≥ need || k.closed
    else k.words.length + k.transit.length + need ≤ 16 ||
      (match h.stages[l.toNat + 1]? with | some g => g.status = .ended | none => true)

/-! Slots and cores that take part. -/

/-- Slots 0 to 15, in order. -/
def allSlots : List SlotId := [0, 1, 2, 3, 4, 5, 6, 7, 8, 9, 10, 11, 12, 13, 14, 15]

/-- General slots, in order. -/
def generalSlots : List SlotId := [0, 1, 2, 3, 4, 5, 6, 7, 8, 9, 10, 11, 12, 13, 14]

/-- The cores that the state lists; every other core is as after reset and does nothing. -/
def State.coreIds (s : State) : List CoreId := s.cores.map fun p => BitVec.ofNat 11 p.1

/-- A core takes part in issue while it is powered and alive (R304, R319). -/
def Core.active (q : Core) : Bool := q.power = .on && !q.dead

/-- The slot has still to hand over to the tenant that its core is to serve (R269). -/
def State.handingOver (s : State) (c : CoreId) (k : SlotId) : Bool :=
  someOf (fun d : Scheduler => someOf (fun r => r = (c, k)) d.handover) s.schedulers

/-- A slot that is to have an issue turn as soon as it may: in `run` and not stopped (R87, R91). At its turn it issues, or hands over (R269). -/
def State.eligibleSlot (s : State) (c : CoreId) (k : SlotId) : Bool := (s.slot c k).state = .run && !(s.slot c k).stopped

/-- The first cycle at which the core and a slot of it may issue (R91). -/
def State.issueCycle (s : State) (c : CoreId) (k : SlotId) : Nat := Nat.max (s.core c).nextIssue (s.slot c k).issueAt

/-! Waits that end when a condition holds (R87). -/

/-- The condition of an `engwait`; `false` where an event of its own ends the wait. -/
def State.engineOver (s : State) (c : CoreId) (k : SlotId) (e : EngineWait) : Bool :=
  let q := s.core c
  match e with
  | .accumulator z => q.zaOwner[z.toNat]'(z.isLt) = none && (q.zaWaiters[z.toNat]'(z.isLt)).head? = some k
  | .release z => !someOf (fun o : MatrixOp => o.z = z) q.matrix
  | .buffer => q.rep.holder = none && q.rep.waiters.head? = some k
  | .join => (s.slot c k).cause.isSome && !q.rep.heldBy k .running
  | .ringFilled g => q.ringIs g fun r => r.filled ≥ 1
  | .ringFree g => q.ringIs g fun r => r.free ≥ 1
  | .ringQuiet g => (q.ringIs g fun r => r.held.isEmpty) && !someOf (fun o => o.reads g) q.matrix
  | .matrixQueue rings => q.matrix.length < 8 && allOf (fun g => q.ringIs g fun r => r.filled ≥ 1) rings
  | .channelRoom ch => (q.channels[ch.toNat]'(ch.isLt)).queue.length < 16
  | .transfer ch id => (q.channels[ch.toNat]'(ch.isLt)).reached id
  | .link chain l pop need => match s.findChain chain with | some h => h.linkReady l pop need | none => true
  | .sequence | .image | .kred | .chainSwitch _ | .handover => false

/-- The wait of a slot is over (R87). -/
def State.waitOver (s : State) (c : CoreId) (k : SlotId) : Bool :=
  let t := s.slot c k
  match t.wait with
  | .register r => !t.isPending r
  | .outstanding room => t.outstanding ≤ room
  | .earlier => t.drained
  | .accesses => t.outstanding = 0
  | .interface => (s.core c).iface.length < 8
  | .engine e => s.engineOver c k e
  | .none | .acks _ | .region _ | .secondStage _ _ | .word _ | .stages _ | .walk _ _ | .translation _ _ | .frame _ | .barrier _ _ => false

/-- A held ring slot is free once the earlier loads of the slot that advanced head are performed and no queued operation reads it
(R170). -/
def Core.slotFree (q : Core) (g : BitVec 3) (h : HeldSlot) : Bool :=
  !someOf (fun f : Flight => f.access && f.no < h.before) (q.slots[h.slot.toNat]'(h.slot.isLt)).flights &&
  !someOf (fun o : MatrixOp => match o.form with
    | .mac _ a b sc _ => a = (g, h.index) || b = (g, h.index) || sc = some (g, h.index)
    | _ => false) q.matrix

/-- Held slots become free oldest first (R170). -/
def Core.reapList (q : Core) (g : BitVec 3) : List HeldSlot → List HeldSlot
  | [] => []
  | h :: r => if q.slotFree g h then q.reapList g r else h :: r

/-- Work of H keeps the slot from the tenant that its core serves (R269). -/
def State.isLate (s : State) (c : CoreId) (k : SlotId) : Bool :=
  someOf (fun d : Scheduler => someOf (fun r => r = (c, k)) d.late) s.schedulers

/-- Every ring frees the slots it can, and an accumulator whose owner has ended is released when no operation on it is queued; a slot of
which `away` holds may not be the owner's (R165, R170, R269). -/
def Core.reap (q : Core) (away : SlotId → Bool) : Core :=
  { q with
    rings := Vector.ofFn fun g => (q.rings[g]).map fun r => { r with held := q.reapList (BitVec.ofNat 3 g) r.held }
    zaOwner := Vector.ofFn fun z =>
      match q.zaOwner[z] with
      | some (k, inc) =>
        if !away k && (q.slots[k.toNat]'(k.isLt)).inc ≠ inc && !someOf (fun o : MatrixOp => o.z = BitVec.ofNat 2 z) q.matrix then none else some (k, inc)
      | none => none }

/-! Time. -/

/-- Events that end a wait at a stated cycle: no time passes beyond one that is due (R4, R149, R313, R319). -/
def isDeadline : Instr → Bool
  | .waitLimit | .secondStageHoldTimeout | .answerTimeout | .tenantDeadline | .budgetExhausted | .forwardingExpiry
  | .hostBatchTimeout | .fabricResendTimeout | .packetUndeliverable => true
  | _ => false

/-- The latest cycle that time may reach, from a wanted one, for what is due. -/
def cappedTime (now : Nat) : Nat → List Due → Nat
  | t, [] => t
  | t, d :: r => cappedTime now (if isDeadline d.event.kind then Nat.min t (Nat.max now d.after) else t) r

/-- The cycle by which a slot has to move: that at which it can issue, or that at which it takes its message. -/
def State.slotCycle (s : State) (c : CoreId) (k : SlotId) : Option Nat :=
  if s.eligibleSlot c k then some (s.issueCycle c k) else (s.slot c k).deliverAt

/-- The latest cycle that time may reach for the slots of a core: no cycle in which one of them can issue goes by without an issue, so that
a slot in `run` issues within the bounds of R92, a gated core powering up for it at once; and a message is taken in its cycle (R91, R96,
R106, R209, R304). -/
def State.cappedIssue (s : State) (t : Nat) (c : CoreId) : Nat :=
  if (s.core c).dead then t
  else allSlots.foldl (fun t k => match s.slotCycle c k with | some d => Nat.min t (Nat.max s.now d) | none => t) t

/-! Events in their channels. -/

/-- The mark of a message that waits in the mesh for its comb (R303), and an event that is such a message. -/
def meshMark : BitVec 2 := 1
def Event.waitsInMesh (e : Event) : Bool := e.kind = .messageArrival && e.args.link = meshMark

/-- The channel from a home to a core, and from a core to a home (R81). -/
def toCore (home : Nat) (c : CoreId) : List Nat := [3, home, c.toNat]
def toHome (home : Nat) (c : CoreId) : List Nat := [2, home, c.toNat]

/-- Events with a key in common come about in the order they were put on the agenda; an event without a key is bound by none. Messages
between one core and one home keep their order, probes and their answers among them, which concern every core of a comb (R81, R83);
so do messages of one sender and class to a core (R95, R208, R276), those that one vacated core forwards to a core for a tenant (R274),
those that wait in the mesh for a comb (R303), words of a link (R214), the walks of a comb (R67), what a core's comb held for it (R304),
and the controller's notices (R295). -/
def channelKeys (e : Event) : List (List Nat) :=
  let a := e.args
  (match a.held with | some c => [[10, c.toNat]] | none => []) ++
  match e.kind with
  | .messageArrival =>
    match a.msg with
    | some g =>
      [1, a.core.toNat, g.sender.toNat % 2 ^ 25, g.cls.toNat] ::
      (if !a.flag && a.num ≠ 0 then [[9, a.num, a.core.toNat, g.tenant.toNat]] else []) ++
      (if e.waitsInMesh then [[8, (combOf a.core).toNat]] else [])
    | none => []
  | .managementNotice => [[11]]
  | .rds | .rdx | .upg | .wb | .ownerAnswer | .invalidationAck => [toHome a.comb.toNat a.core]
  | .forward | .invalidation | .grant => [toCore a.comb.toNat a.core]
  | .discoveryProbe => (coresOfComb a.comb).map (toCore a.num)
  | .discoveryAnswer => (coresOfComb a.comb).map (toHome a.num)
  | .neighbourQueueArrival => [[5, a.chain.tenant.toNat, a.chain.index.toNat, a.chain.first.toNat, a.link.toNat]]
  | .oneSidedRead | .oneSidedWrite | .remoteAtomic =>
    match a.pkt with
    | some p => [[6, p.source.toNat, (match e.kind with | .oneSidedRead => 1 | .oneSidedWrite => 2 | _ => 3)]]
    | none => []
  | .pageWalk => [[7, (combOf a.core).toNat]]
  | _ => []

/-- How many events of a channel are under way at once: six walks of a comb, one event of any other (R12, R67). -/
def channelWidth (key : List Nat) : Nat := if key.head? = some 7 then 6 else 1

/-- A channel has as many earlier events as may be under way. -/
def channelFull (seen : List (List Nat)) (key : List Nat) : Bool := (keepIf (fun q => q = key) seen).length ≥ channelWidth key

/-- The due events that the earlier events of their channels leave room for, each with its place in the agenda. -/
def dueFrom (now : Nat) (seen : List (List Nat)) (i : Nat) : List Due → List (Nat × Event)
  | [] => []
  | d :: r =>
    let keys := channelKeys d.event
    let rest := dueFrom now (keys ++ seen) (i + 1) r
    if !someOf (channelFull seen) keys && d.after ≤ now then (i, d.event) :: rest else rest

/-- A request, for a line, of a core of lower number than one whose request arrived in the same cycle comes a cycle later: those of one
cycle are taken in ascending core number (R81). -/
def State.arrivesLater (s : State) (e : Event) : Bool :=
  match e.kind with
  | .rds | .rdx | .upg | .wb => someOf (fun r => r.1 = e.args.tag && r.2.1 = e.args.comb && e.args.core.toNat < r.2.2.toNat) s.arrivals
  | _ => false

/-- A one-sided packet that waits for a walk (R66). -/
def Event.awaitsWalk (e : Event) : Bool :=
  match e.kind with
  | .oneSidedRead | .oneSidedWrite | .remoteAtomic => e.args.flag
  | _ => false

/-- The events that are due. -/
def State.dueNow (s : State) : List (Nat × Event) :=
  keepIf (fun p : Nat × Event => !s.arrivesLater p.2 && !p.2.awaitsWalk) (dueFrom s.now [] 0 s.agenda)

/-- A wait limit is due: the cycle in which it was reached has passed, with the services of that cycle (R322). -/
def State.limitsDue (s : State) : Bool := someOf (fun p : Nat × Event => p.2.kind = .waitLimit) s.dueNow

/-- The events that can come about: wait limits that are due before any other (R322). -/
def State.dueEvents (s : State) : List (Nat × Event) :=
  if s.limitsDue then keepIf (fun p : Nat × Event => p.2.kind = .waitLimit) s.dueNow else s.dueNow

/-! Moves. -/

/-- A move of a step. -/
inductive Move where
  /-- An event of the agenda, with its place there. -/
  | due (i : Nat) (e : Event)
  /-- An event that the state enables. -/
  | internal (e : Event)
  /-- The issue of a slot of a core. -/
  | issue (c : CoreId) (k : SlotId)
  deriving DecidableEq, Repr

/-! Issue (R91). -/

/-- A slot that may issue in this cycle (R91). -/
def State.mayIssue (s : State) (c : CoreId) (k : SlotId) : Bool := s.eligibleSlot c k && (s.slot c k).issueAt ≤ s.now

/-- The search of R91 over the circle, from slot `k` on: the slots passed over for a `yield`, and the slot found. -/
def State.searchIssue (s : State) (c : CoreId) : List SlotId → List SlotId × Option SlotId
  | [] => ([], none)
  | k :: r =>
    if s.mayIssue c k then
      if (s.slot c k).yielded then
        let (p, f) := s.searchIssue c r
        (k :: p, f)
      else ([], some k)
    else s.searchIssue c r

/-- The slots in the order of R91, after the one that issued last. -/
def issueOrder (last : SlotId) : List SlotId := (upFrom (last.toNat + 1) 16).map (BitVec.ofNat 4)

/-- What the search of a core's present cycle comes to, if the core has it still to make: the slots passed over, and the slot found. -/
def State.searchOf (s : State) (c : CoreId) : List SlotId × Option SlotId :=
  if !(s.core c).active || s.now < (s.core c).nextIssue then ([], none) else s.searchIssue c (issueOrder (s.core c).lastIssued)

/-- The issue of a core, if it has one; a search that only passes slots over is a move as well, that of the first of them. -/
def State.issueOf (s : State) (c : CoreId) : List Move :=
  match s.searchOf c with
  | (_, some k) => [.issue c k]
  | (k :: _, none) => [.issue c k]
  | ([], none) => []

/-- Slots passed over lose their mark (R91). -/
def State.passOver (s : State) (c : CoreId) (passed : List SlotId) : State :=
  passed.foldl (fun s j => s.modSlot c j fun t => { t with yielded := false }) s

/-- The core has made its search of the present cycle (R91). -/
def State.searched (s : State) (c : CoreId) : State := s.modCore c fun q => { q with nextIssue := s.now + 1 }

/-- The slot takes its issue turn, the core's one issue of the cycle (R91). -/
def State.takeTurn (s : State) (c : CoreId) (k : SlotId) : State :=
  let s := ((s.passOver c (s.searchOf c).1).searched c).modCore c fun q => { q with lastIssued := k }
  { (s.modSlot c k fun t => { t with issueAt := s.now + 2, wait := .none }) with cur := { core := c, slot := k } }

/-- A wait that a slot enters before its instruction issues, which it does when the wait is over (R87). -/
def Wait.beforeIssue : Wait → Bool
  | .register _ | .outstanding _ | .earlier | .accesses | .interface | .region _ | .secondStage _ _ | .walk _ _ | .translation _ _ => true
  | .engine e =>
    match e with
    | .release _ | .join | .ringFilled _ | .ringFree _ | .ringQuiet _ | .matrixQueue _ | .channelRoom _ | .transfer _ _ | .link _ _ _ _ => true
    | .accumulator _ | .buffer | .sequence | .image | .kred | .chainSwitch _ | .handover => false
  | .none | .acks _ | .word _ | .stages _ | .frame _ | .barrier _ _ => false

/-- A turn that led to such a wait issued nothing: the core goes on with its search of the cycle as it stood in `s` (R91). -/
def State.turnBack (t s : State) (c : CoreId) (k : SlotId) : State :=
  let q := s.core c
  let t := (s.searchOf c).1.foldl (fun t j => t.modSlot c j fun u => { u with yielded := true }) t
  let t := t.modCore c fun p => { p with lastIssued := q.lastIssued, nextIssue := q.nextIssue, vectorAt := q.vectorAt }
  t.modSlot c k fun u => { u with issueAt := (s.slot c k).issueAt }

/-! The vector unit (R10, R176). -/

/-- The vector unit performs an instruction. -/
def onVectorUnit (i : Instr) : Bool := !(shapeOf i).vs.isEmpty || !(shapeOf i).ms.isEmpty

/-- The barrel of a core issues an instruction: the vector unit is taken for the cycle if it performs it (R10). -/
def State.takeVector (s : State) (c : CoreId) (i : Instr) : State :=
  if onVectorUnit i then s.modCore c fun q => { q with vectorAt := s.now + 1 } else s

/-- The vector unit is the repetition buffer's in this cycle: the barrel has made its search, and has issued no vector form (R176). -/
def State.vectorFree (s : State) (c : CoreId) : Bool :=
  (s.core c).vectorAt ≤ s.now && (match s.searchOf c with | ([], none) => true | _ => false)

end Sys2Proof.Machine
end

