-- ==== Sys2Proof/Machine/Context.lean ====
section
/-!
DEFINITION. The partition control page and its tenant entries (R264, R265), the tenant a core serves and its time (R268, R272), slot
contexts in memory (R271), the messages and waits of a core (R87, R95), and what reaches a slot whether its tenant is switched in or not (R270).
-/
namespace Sys2Proof.Machine

/-! The control page. -/

/-- The machine-physical address of a partition's control page (R264). -/
def controlPage (p : CoreId) : Nat := (combOf p).toNat * 2 ^ 29 + 16384 * (p.toNat % 8)

/-- The machine-physical address of its dead-core area (R264). -/
def deadArea (p : CoreId) : Nat := (combOf p).toNat * 2 ^ 29 + 131072 + 16384 * (p.toNat % 8)

def entryAddr (p : CoreId) (e : Nat) : Nat := controlPage p + 1024 + 64 * e

/-- A word that hardware reads for itself in a control page or a context area. An uncorrectable one is not passed on as data, and the spec names
no report of it for such a reader: it is a free value (R317; DESIGN CHOICE, log 82). -/
def State.readWord (s : State) (a : Nat) : Word := if s.memIsBad a then Config.unreadable s.now a else BitVec.ofNat 64 (s.memRead a 8)

/-- `n` such words as one number, the first lowest. -/
def State.readWords (s : State) (a : Nat) : Nat → Nat
  | 0 => 0
  | n + 1 => (s.readWord a).toNat + 2 ^ 64 * s.readWords (a + 8) n

/-- `n` such words; they are read at once where none is uncorrectable. -/
def State.readImage (s : State) (a n : Nat) : Nat := if s.memBadIn a (8 * n) then s.readWords a n else s.memRead a (8 * n)

/-- A tenant entry as a 512-bit number (R265). -/
def State.tenantEntry (s : State) (p : CoreId) (e : Nat) : BitVec 512 := BitVec.ofNat 512 (s.readImage (entryAddr p e) 8)

def entryCtx (e : BitVec 512) : Nat := field e 511 472
def entryBudget (e : BitVec 512) : Nat := field e 471 440
def entryPeriod (e : BitVec 512) : Nat := field e 439 408
def entryTenant (e : BitVec 512) : BitVec 16 := e.extractLsb' 392 16
def entryValid (e : BitVec 512) : Bool := e.getLsbD 391
def entryHide (e : BitVec 512) : Bool := e.getLsbD 390
def entryState (e : BitVec 512) : Nat := field e 389 388
def entrySpad (e : BitVec 512) : Nat := field e 387 368
def entryCnum (e : BitVec 512) : Nat := field e 367 361
def entryCwin (e : BitVec 512) : Nat := field e 360 354
def entryRemain (e : BitVec 512) : Nat := field e 255 224
def entryDeadline (e : BitVec 512) : Nat := field e 223 160
def entryOffset (e : BitVec 512) : Word := e.extractLsb' 96 64

def State.schedulerOf (s : State) (p : CoreId) : Option Scheduler := firstOf (fun d => d.pbase = p) s.schedulers

/-- An entry of the committed set; all zeros where the set has none (R267). -/
def Scheduler.entry (d : Scheduler) (n : Nat) : BitVec 512 := match firstOf (fun a => a.1 = n) d.admitted with | some a => a.2 | none => 0

/-- An entry of the set that a partition has committed (R267). -/
def State.committed (s : State) (p : CoreId) (n : Nat) : BitVec 512 := match s.schedulerOf p with | some d => d.entry n | none => 0

/-- The number of the committed entry of a partition that names a tenant (R265, R267). -/
def State.entryOf (s : State) (p : CoreId) (tenant : BitVec 16) : Option Nat :=
  match s.schedulerOf p with
  | some d => (firstOf (fun a : Nat × BitVec 512 => entryTenant a.2 = tenant) d.admitted).map Prod.fst
  | none => none

/-- `n` bytes of whole words written by hardware for itself: they have good check bits, and their full/empty bits stay (R318; that these stay is
a DESIGN CHOICE, log 83). -/
def State.putImage (s : State) (a n v : Nat) : State :=
  { s.memWrite a n v with memBad := keepIf (fun w => !(a ≤ w && w < a + n)) s.memBad }

/-- The scheduler's own fields in an entry: state, remain and deadline (R265). -/
def ownBits : Nat := 3 * 2 ^ 388 + (2 ^ 96 - 1) * 2 ^ 160

/-- The offset in an entry (R265). -/
def offsetBits : Nat := (2 ^ 64 - 1) * 2 ^ 96

/-- An entry that the scheduler has changed: its own copy, and its fields of the entry in the control page, with an offset it has changed; the
other bits are H's until a commit takes them over (R265, R267; DESIGN CHOICE, log 60). -/
def State.putEntry (s : State) (p : CoreId) (n : Nat) (e : BitVec 512) : State :=
  let m := BitVec.ofNat 512 (if entryOffset e = entryOffset (s.committed p n) then ownBits else ownBits + offsetBits)
  let s := s.putImage (entryAddr p n) 64 ((s.tenantEntry p n &&& ~~~m) ||| (e &&& m)).toNat
  { s with schedulers := s.schedulers.map fun (d : Scheduler) =>
      if d.pbase = p then { d with admitted := replaceFirst (fun a : Nat × BitVec 512 => a.1 = n) (n, e) d.admitted } else d }

/-- Bits [hi:lo] of a tenant entry replaced. -/
def withField (e : BitVec 512) (hi lo v : Nat) : BitVec 512 :=
  BitVec.ofNat 512 (e.toNat - field e hi lo * 2 ^ lo + v % 2 ^ (hi - lo + 1) * 2 ^ lo)

/-- Distance between core areas of a context area (R271). -/
def contextStride (spad : Nat) : Nat := (53248 + spad + 4095) / 4096 * 4096

/-- The area of core `c` in the context area of entry `e` of the partition at `p` (R271). -/
def State.areaOf (s : State) (p : CoreId) (e : Nat) (c : CoreId) : Nat :=
  entryCtx (s.committed p e) + (c.toNat - p.toNat) * contextStride (entrySpad (s.committed p e))

/-! Time as a tenant sees it (R234, R272). -/

/-- The offset of a tenant at a core: that of its entry, else the one written last. -/
def State.offsetOf (s : State) (c : CoreId) (tenant : BitVec 16) : Word :=
  match s.entryOf (s.core c).pbase tenant with
  | some e => entryOffset (s.committed (s.core c).pbase e)
  | none => Table.find 0 tenant.toNat s.tnowoff

def State.setOffset (s : State) (c : CoreId) (tenant : BitVec 16) (w : Word) : State :=
  match s.entryOf (s.core c).pbase tenant with
  | some e => let p := (s.core c).pbase; s.putEntry p e (withField (s.committed p e) 159 96 w.toNat)
  | none => { s with tnowoff := Table.put tenant.toNat w s.tnowoff }

/-- What `tnow` reads at a slot: the reference plus its tenant's offset, never less than the core returned before (R272). -/
def State.tnow (s : State) (c : CoreId) (k : SlotId) : Word :=
  let tenant := (s.slot c k).tenant
  let v := s.reference + s.offsetOf c tenant
  let last := Table.find 0 tenant.toNat (s.core c).lastTnow
  if v.toNat < last.toNat then last else v

/-- `tnow` has reached the slot's `tcmp` (R234). -/
def State.timerDue (s : State) (c : CoreId) (k : SlotId) : Bool := (s.slot c k).tcmp.toNat ≤ (s.tnow c k).toNat

/-! The tenant that a core serves (R268, R269). -/

/-- The tenant of the entry that a scheduler serves. -/
def Scheduler.served (d : Scheduler) : Option (BitVec 16) := d.serving.map fun e => entryTenant (d.entry e.toNat)

/-- The state of core `c` has still to pass to the tenant that its scheduler serves. -/
def Scheduler.coreWaits (d : Scheduler) (c : CoreId) : Bool := allOf (fun k => someOf (fun r => r = (c, k)) d.handover) allSlots

/-- A save of a tenant from a core is under way: it hands over, and its forwarding entry is not yet made (R273, R274). -/
def State.saving (s : State) (c : CoreId) (tenant : BitVec 16) : Bool :=
  match s.schedulerOf (s.core c).pbase with
  | some d =>
    match d.request with
    | some w => w.extractLsb' 0 4 = 2#4 && w.extractLsb' 32 11 = c && entryTenant (d.entry (field w 7 4)) = tenant
    | none => false
  | none => false

/-- The core is vacated for a tenant (R273). -/
def Core.vacatedFor (q : Core) (tenant : BitVec 16) : Bool := someOf (fun v => v.1 = tenant) q.vacated

/-- The core serves a tenant: H's at all times, any while no tenant set has been committed; none that it has been vacated for (R273). -/
def State.serves (s : State) (c : CoreId) (tenant : BitVec 16) : Bool :=
  tenant = hvTenant || !(s.core c).vacatedFor tenant &&
  (match s.schedulerOf (s.core c).pbase with
   | some d => d.admitted.isEmpty && d.serving.isNone && d.handover.isEmpty || (d.served = some tenant && !d.coreWaits c)
   | none => true)

/-- The core's own state is a tenant's: that state passes with the first slot that hands over (R269). -/
def State.coreHolds (s : State) (c : CoreId) (tenant : BitVec 16) : Bool :=
  tenant = hvTenant ||
  (match s.schedulerOf (s.core c).pbase with
   | some d =>
     d.admitted.isEmpty && d.serving.isNone && d.handover.isEmpty ||
     (if d.coreWaits c then d.outgoing.map (fun e => entryTenant (d.entry e.toNat)) = some tenant else d.served = some tenant)
   | none => true)

/-- The work of a slot that has still to hand over is the outgoing tenant's: it stops at its next instruction boundary; any other work there,
H's above all, goes on (R269). -/
def State.leaving (s : State) (c : CoreId) (k : SlotId) : Bool :=
  someOf (fun d : Scheduler => someOf (fun r => r = (c, k)) d.handover &&
    (match d.outgoing with | some n => entryTenant (d.entry n.toNat) = (s.slot c k).tenant | none => false)) s.schedulers

/-- A tenant is being frozen, or is frozen (R346). -/
def State.freezes (s : State) (tenant : BitVec 16) : Bool :=
  someOf (fun d : Scheduler => someOf (fun f => entryTenant (d.entry f.1) = tenant) d.frozenAt) s.schedulers

/-- The tenant that the register `tnowoff` of a core is about: the one it serves, else that of the slot (R234). -/
def State.offsetTenant (s : State) (c : CoreId) (k : SlotId) : BitVec 16 :=
  match (s.schedulerOf (s.core c).pbase).bind Scheduler.served with
  | some t => t
  | none => (s.slot c k).tenant

/-! Slot contexts. -/

/-- `xstat` (R234). -/
def formCode : Option ChainForm → BitVec 2
  | none => 0 | some .spread => 1 | some .folded => 2

def Slot.xstat (t : Slot) : Word :=
  0#48 ++ formCode t.form ++ t.stage ++ 0#8 ++ BitVec.ofBool t.ie ++ BitVec.ofBool t.light ++ t.priv.code

/-- State codes in the order of R87 (R271). -/
def SlotState.code : SlotState → Nat
  | .idle => 0 | .run => 1 | .memwait => 2 | .fewait => 3 | .xlwait => 4 | .msgwait => 5 | .engwait => 6 | .joinwait => 7 | .barwait => 8

/-- The address of the word or frame a slot waits on: the guest-physical one of a word of flat memory, the virtual one of a frame or of a
scratchpad word, and 0 for a mailbox word (R271; DESIGN CHOICE, log 73). -/
def Wait.address : Wait → Word
  | .word (.line tag off) => BitVec.ofNat 64 (tag.line.toNat * 128 + off)
  | .word (.spad _ o) => BitVec.ofNat 64 (spadWindow + o)
  | .frame a => a
  | _ => 0

/-- A bit for each accumulator the slot owns. -/
def Core.owned (q : Core) (k : SlotId) : Nat :=
  (List.range 4).foldl (fun n z => if ((q.zaOwner[z]?).getD none).map Prod.fst = some k then n + 2 ^ z else n) 0

/-- A bit for each class bound to the slot. -/
def Core.boundTo (q : Core) (k : SlotId) : Nat :=
  (List.range 8).foldl (fun n c => match (q.bindings[c]?).getD none with | some b => if b.1 = k then n + 2 ^ c else n | none => n) 0

/-- The handler pcs of classes 1 to 7, 0 for a class not bound to the slot. -/
def Core.handlerPcs (q : Core) (k : SlotId) : List Word :=
  (upFrom 1 7).map fun c => match (q.bindings[c]?).getD none with | some b => if b.1 = k then b.2 else 0 | none => 0

/-- What the status word at byte 1,480 says of the core's accumulators, buffer and classes (R271). -/
def Core.holdings (q : Core) (k : SlotId) : Nat :=
  q.owned k * 16 + (if q.rep.holder = some k then 256 else 0) + q.boundTo k * 2 ^ 32

/-- The status word at byte 1,480 (R271). -/
def statusWord (holdings : Nat) (t : Slot) : Word :=
  BitVec.ofNat 64 ((if t.stopped then 9 else t.state.code) + t.inc.toNat * 2 ^ 16 + holdings)

/-- The status word of a stage in the fold bank. -/
def StageStatus.code : StageStatus → Nat
  | .waiting => 0 | .live => 1 | .suspended => 2 | .ended => 3

def vecWords (v : VecWord) : List Word := (List.range 8).map fun i => v.extractLsb' (64 * i) 64
def labelWords (l : LabelWord) : List Word := [l.extractLsb' 0 64, l.extractLsb' 64 64]

/-- The 209 words of a slot context before its full/empty map (R271). -/
def contextWords (holdings : Nat) (handlers : List Word) (t : Slot) : List Word :=
  t.x.toList ++ t.v.toList.flatMap vecWords ++ t.m.toList ++ t.lb.toList.flatMap labelWords ++
  [t.pc, statusWord holdings t, zext t.fflags, t.fewlim, zext t.mfmt, t.xstat,
   t.bankS.xpc, t.bankS.xcause, t.bankS.xval, t.bankS.xvec, t.bankS.xscratch,
   t.xlroot, t.objbase, t.objlim, t.cmtab, t.frbase] ++ handlers ++ [t.wait.address, t.tcmp]

/-- Words written one after another by hardware for itself: each is whole, so it has good check bits, and it is full (R318; that it is full is
a DESIGN CHOICE, log 83). -/
def State.writeWords (s : State) (a : Nat) : List Word → State
  | [] => s
  | w :: r => (((s.memWrite a 8 w.toNat).memSetFull a true).setBad (.mem a) false).writeWords (a + 8) r

/-- The context of a slot at an address of an area; what it says of the core's accumulators, buffer and classes stays as it is there. -/
def State.writeContext (s : State) (a : Nat) (t : Slot) : State :=
  let st := (s.readWord (a + 1480)).toNat
  let holdings := st / 2 ^ 32 % 256 * 2 ^ 32 + st / 16 % 32 * 16
  s.writeWords a (contextWords holdings ((List.range 7).map fun i => s.readWord (a + 1600 + 8 * i)) t)

/-- The slot that a context describes; what the area has no place for comes from `t` (R271; DESIGN CHOICE, log 12). A slot in `xlwait`, `memwait`,
`fewait` or `engwait` whose wait is not known issues its instruction again (R305). -/
def State.readContext (s : State) (a : Nat) (t : Slot) (known : Bool) : Slot :=
  let w (i : Nat) : Word := s.readWord (a + i)
  let st := w 1480
  let x := w 1512
  let code := field st 3 0
  let t := { t with
    x := Vector.ofFn fun n => w (8 * n)
    v := Vector.ofFn fun n => BitVec.ofNat 512 (s.readImage (a + 256 + 64 * n) 8)
    m := Vector.ofFn fun n => w (1280 + 8 * n)
    lb := Vector.ofFn fun n => BitVec.ofNat 128 (s.readImage (a + 1344 + 16 * n) 2)
    pc := w 1472
    inc := st.extractLsb' 16 16
    fflags := (w 1488).setWidth 5
    fewlim := w 1496
    mfmt := (w 1504).setWidth 4
    priv := (Level.ofCode (x.extractLsb' 0 2)).getD .u
    light := x.getLsbD 2
    ie := x.getLsbD 3
    stage := x.extractLsb' 12 2
    form := match field x 15 14 with | 1 => some .spread | 2 => some .folded | _ => none
    bankS := { xpc := w 1520, xcause := w 1528, xval := w 1536, xvec := w 1544, xscratch := w 1552 }
    xlroot := w 1560
    objbase := w 1568
    objlim := w 1576
    cmtab := w 1584
    frbase := w 1592
    tcmp := w 1664
    stopped := code = 9 }
  if known then t
  else
    match code with
    | 0 => { t with state := .idle, wait := .none, flights := [] }
    | 5 => { t with state := .msgwait, wait := .none, flights := [] }
    | 7 => { t with state := .joinwait, wait := .frame (w 1656), flights := [] }
    | _ => { t with state := .run, wait := .none, flights := [] }

/-! Messages that wait at a core, and slots whose wait is over (R87, R95 to R97). -/

/-- A launch that starts the forager (R88). -/
def wantsForager (m : Message) : Bool := m.cls = 0 && m.body = .plain && m.payload[0].getLsbD 1

/-- Why a message for a core that serves its tenant cannot be delivered there, if so (R302). -/
def State.refuses (s : State) (c : CoreId) (m : Message) : Option (BitVec 8) :=
  if m.cls = 0 then
    if destChk m.dest then some 1
    else if m.origin = .host && m.body = .plain && m.payload[3].extractLsb' 0 2 ≠ 0#2 then some 8
    else if wantsForager m && (s.slot c forager).state ≠ .idle then some 4
    else none
  else
    match (s.core c).bindings[m.cls.toNat]'(m.cls.isLt) with
    | none => if destChk m.dest then some 1 else some 2
    | some (k, _) =>
      if destChk m.dest && !(destSlot m.dest = k && destInc m.dest = (s.slot c k).inc) then some 1 else none

/-- The messages that core `c` can deliver, in the order in which they arrived: those of its queue, then those of the tenant it serves that
wait for it in the pool, so that messages of one class do not wait for those of another that fill the queue (R95, R97). -/
def State.deliverable (s : State) (c : CoreId) : List Message :=
  (s.core c).inbox ++
  (keepIf (fun p : CoreId × Message => p.1 = c && s.serves c p.2.tenant && (s.refuses c p.2).isNone) (s.pool (combOf c))).map Prod.snd

/-- The oldest pending message of the classes that a slot holds (R96). -/
def State.pendingFor (s : State) (c : CoreId) (k : SlotId) : Option Message :=
  firstOf (fun m : Message => m.cls ≠ 0 &&
    (match (s.core c).bindings[m.cls.toNat]'(m.cls.isLt) with | some (j, _) => j = k | none => false)) (s.deliverable c)

/-- A slot in `msgwait` of a core that is up and keeps it, with a message there for it. -/
def State.canTake (s : State) (c : CoreId) (k : SlotId) : Bool :=
  (s.slot c k).state = .msgwait && (s.core c).active && !s.leaving c k && (s.pendingFor c k).isSome

/-- A slot takes its message in the cycle after both are there (R96, R209). -/
def State.noteDelivery (s : State) (c : CoreId) (k : SlotId) : State :=
  let old := (s.slot c k).deliverAt
  let d := if s.canTake c k then some (old.getD (s.now + 1)) else none
  if d = old then s else s.modSlot c k fun t => { t with deliverAt := d }

/-- Slots of a core whose wait is over return to `run`, and those that have a message to take know the cycle of it (R87, R96). -/
def State.wakeCore (s : State) (c : CoreId) : State :=
  allSlots.foldl (fun s k => (if s.waitOver c k then s.modSlot c k Slot.unpark else s).noteDelivery c k) (s.modCore c fun q => q.reap fun k => s.handingOver c k || s.isLate c k)

def State.wake (s : State) : State := s.coreIds.foldl State.wakeCore (if s.lostHeld.isEmpty then s else s.loseHeld)

/-! Reaching a slot. -/

/-- The slot of a tenant that stands at (c, k), switched in or out. -/
def State.tenantSlot (s : State) (tenant : BitVec 16) (c : CoreId) (k : SlotId) : Slot :=
  match firstOf (fun p : Parked => p.tenant = tenant && p.core = c && p.slot = k) s.parked with
  | some p => p.kept
  | none => s.slot c k

/-- The slot of a tenant that stands at (c, k) is switched out. -/
def State.switchedOut (s : State) (tenant : BitVec 16) (c : CoreId) (k : SlotId) : Bool :=
  someOf (fun p : Parked => p.tenant = tenant && p.core = c && p.slot = k) s.parked

/-- A change to the slot of a tenant that stands at (c, k): in the core, or in its saved context (R270). -/
def State.modTenantSlot (s : State) (tenant : BitVec 16) (c : CoreId) (k : SlotId) (f : Slot → Slot) : State :=
  match firstOf (fun p : Parked => p.tenant = tenant && p.core = c && p.slot = k) s.parked with
  | none => s.modSlot c k f
  | some p =>
    let t := f p.kept
    let s := { s with parked := replaceFirst (fun p : Parked => p.tenant = tenant && p.core = c && p.slot = k) { p with kept := t } s.parked }
    let q := s.core c
    match s.entryOf q.pbase tenant with
    | some e =>
      s.writeContext (s.areaOf q.pbase e c + 4096 + 2048 * k.toNat) t
    | none => s

end Sys2Proof.Machine
end

