-- ==== Sys2Proof/Machine/Folded.lean ====
section
/-!
DEFINITION. Chains as their stages see them: finding and changing a chain, and how a folded slot passes from stage to stage (R211,
R215, R216, R301).
-/
namespace Sys2Proof.Machine

def emptyLink : Link := { words := [], transit := [], closing := false, closed := false }
def Chain.link (h : Chain) (l : Nat) : Link := (h.links[l]?).getD emptyLink

/-! A chain in the areas of its cores (R271). -/

/-- A stage in the fold bank: 512 bytes (R271). -/
def stageImage (g : Stage) : List Word :=
  (g.x.toList.tail ++ [g.pc, zext g.fflags, g.fewlim, BitVec.ofNat 64 g.status.code] ++ List.replicate 13 0) ++ g.v.toList.flatMap vecWords

/-- A queue of words: a count, then 16 words. -/
def queueImage (l : List Word) : List Word := BitVec.ofNat 64 l.length :: (List.range 16).map fun i => (l[i]?).getD 0

/-- Bytes 672 to 3,407 of a core area: stages, link buffers, neighbour queues, and the chain (R271). -/
def chainImage (c : CoreId) : Option Chain → List Word
  | none => List.replicate 342 0
  | some h =>
    let all (l : Nat) : List Word := (h.link l).words ++ (h.link l).transit
    let i := (c - h.ref.first).toNat
    let folded := h.form = .folded
    (h.stages.toList.flatMap stageImage) ++
    ([0, 1, 2].flatMap fun l => queueImage (if folded then all l else [])) ++
    queueImage (if folded || i = 0 then [] else all (i - 1)) ++ queueImage (if folded then [] else all i) ++
    [BitVec.ofNat 64 (h.ref.index.toNat + h.ref.first.toNat * 2 ^ 16 + (if folded then 2 ^ 27 else 0))]

/-- Cores that hold something of a chain. -/
def Chain.cores (h : Chain) : List CoreId :=
  match h.form with
  | .folded => [h.ref.first]
  | .spread => h.stages.toList.filterMap fun g => g.place.map Prod.fst

/-- A chain that changes while a core's state is not its tenant's changes in the tenant's area (R270). -/
def State.refreshArea (s : State) (h : Chain) (c : CoreId) : State :=
  if s.coreHolds c h.ref.tenant then s
  else
    let p := (s.core c).pbase
    match s.entryOf p h.ref.tenant with
    | some n => s.writeWords (s.areaOf p n c + 672) (chainImage c (some h))
    | none => s

def State.putChain (s : State) (h : Chain) : State :=
  h.cores.foldl (fun s c => s.refreshArea h c) { s with chains := replaceFirst (fun g => g.ref = h.ref) h s.chains }

def Chain.stage (h : Chain) (i : BitVec 2) : Stage := h.stages[i.toNat]'(i.isLt)
def Chain.setStage (h : Chain) (i : BitVec 2) (g : Stage) : Chain := { h with stages := h.stages.set i.toNat g i.isLt }

/-- The stages of a chain, downstream first. -/
def Chain.downstreamFirst (h : Chain) : List (BitVec 2) :=
  keepIf (fun i => i.toNat ≤ h.nst) [3, 2, 1, 0]

/-- A stage can advance (R216). -/
def Chain.canAdvance (h : Chain) (i : BitVec 2) : Bool :=
  let g := h.stage i
  g.status = .live && !g.halted && i.toNat ≤ h.nst &&
    (match g.need with | none => true | some (l, pop, n) => h.linkReady l pop n)

/-- Every stage has ended (R214). -/
def Chain.ended (h : Chain) : Bool := allOf (fun i => (h.stage i).status = .ended) h.downstreamFirst

/-- A slot's registers that belong to its stage (R216, R233, R301). -/
def Stage.save (g : Stage) (t : Slot) : Stage :=
  { g with
    pc := t.pc
    x := Vector.ofFn fun n => t.getX (BitVec.ofNat 5 n)
    v := Vector.ofFn fun n => t.getV (BitVec.ofNat 4 n)
    fflags := t.fflags, fewlim := t.fewlim, cause := t.cause }

/-- The registers below `n` of a vector replaced. -/
def replaceLow {α : Type} {m : Nat} (v : Vector α m) (f : Nat → α) (n : Nat) : Vector α m :=
  Vector.ofFn fun i => if i.val < n then f i.val else v[i]

/-- A slot with a stage's registers; the others keep their values (R301). -/
def Stage.load (g : Stage) (i : BitVec 2) (t : Slot) : Slot :=
  { t with
    pc := g.pc
    x := replaceLow t.x (fun n => (g.x[n]?).getD 0) 16
    v := replaceLow t.v (fun n => (g.v[n]?).getD 0) 4
    fflags := g.fflags, fewlim := g.fewlim, cause := g.cause, earlier := none, stage := i }

/-- The running stage of a folded chain is put away with the link need at which it stopped, if any. -/
def State.putAway (s : State) (h : Chain) (c : CoreId) (k : SlotId) (status : StageStatus) (need : Option (BitVec 2 × Bool × Nat)) : Chain :=
  h.setStage h.running { (h.stage h.running).save (s.slot c k) with status := status, need := need }

/-- The folded slot goes on with stage `i`. -/
def State.runStage (s : State) (h : Chain) (c : CoreId) (k : SlotId) (i : BitVec 2) : State :=
  let g := h.stage i
  let s := s.putChain { h.setStage i { g with need := none, cause := none } with running := i }
  s.modSlot c k fun t => (g.load i t).unpark

/-- The folded slot, its stage put away, goes on with stage `want` if that can advance, else with the most downstream that can;
if none can, it parks until a suspended stage is served (R216). -/
def State.switchStage (s : State) (h : Chain) (c : CoreId) (k : SlotId) (want : Option (BitVec 2)) : State :=
  let preferred := match want with | some i => h.canAdvance i | none => false
  match want, preferred, firstOf h.canAdvance h.downstreamFirst with
  | some i, true, _ => s.runStage h c k i
  | _, _, some i => s.runStage h c k i
  | _, _, none => (s.putChain h).modSlot c k fun t => t.park .fewait (.stages h.ref)

/-- A folded slot parked for want of a stage looks again (R216). -/
def State.rewakeFolder (s : State) (h : Chain) : State :=
  match h.folder with
  | some (c, k) =>
    if (s.slot c k).state = .fewait && (s.slot c k).wait = .stages h.ref then
      match firstOf h.canAdvance h.downstreamFirst with
      | some i => s.runStage h c k i
      | none => s.putChain h
    else s.putChain h
  | none => s.putChain h

/-- The acting slot runs stage code of a folded chain, not a trap handler (R216, R301). -/
def Slot.inFoldedStage (t : Slot) : Bool := t.form = some .folded && t.nesting = 0

end Sys2Proof.Machine
end

