-- ==== Sys2Proof/Machine/Scalar.lean ====
section
/-!
DEFINITION. Loads and stores, integer arithmetic, jumps and branches (R132 to R143).
-/
namespace Sys2Proof.Machine

/-! Shared bodies. -/

/-- At most 128 accesses of a slot are outstanding: `n` more wait for room (R133). -/
def needRoom (n : Nat) : M Unit := do
  if (← get).me.outstanding + n > 128 then parkAs .memwait (.outstanding (128 - n))

/-- A slot waits until its earlier accesses are performed; a result of another kind may still be pending (R198, R199, R204, R226, R230). -/
def waitEarlier : M Unit := do
  if (← get).me.outstanding ≠ 0 then parkAs .memwait .accesses

/-- The address of a register and a signed offset (R132). -/
def offsetAddr (r : BitVec 5) (i : BitVec 12) : M Word := do return (← readX r) + sext i

/-- A load of `n` bytes, extended by `ext`; its destination is pending (R133, R134). -/
def loadBody (d s : BitVec 5) (i : BitVec 12) (n : Nat) (ext : Nat → Word) : M Flow := do
  needRoom 1
  let (v, line) ← loadVA (← offsetAddr s i) n
  writeX d (ext v)
  pendResult (.x d) true line
  return .step

/-- Sign extension of an `n`-byte value. -/
def signed (n : Nat) (v : Nat) : Word := sext (BitVec.ofNat (8 * n) v)

/-- Zero extension. -/
def unsigned (v : Nat) : Word := BitVec.ofNat 64 v

/-- A store of the low `n` bytes of a register (R134). -/
def storeBody (i : BitVec 12) (s t : BitVec 5) (n : Nat) : M Flow := do
  needRoom 1
  storeVA (← offsetAddr s i) n (← readX t).toNat
  return .step

/-- A destination computed from one register. -/
def unary (d s : BitVec 5) (f : Word → Word) : M Flow := do
  writeX d (f (← readX s))
  return .step

/-- A destination computed from two registers. -/
def binary (d s t : BitVec 5) (f : Word → Word → Word) : M Flow := do
  writeX d (f (← readX s) (← readX t))
  return .step

/-- A destination computed from two registers, pending for a while (R133, R141). -/
def slow (d s t : BitVec 5) (f : Word → Word → Word) : M Flow := do
  writeX d (f (← readX s) (← readX t))
  pendResult (.x d) false none
  return .step

/-- A branch (R143). -/
def branch (i : BitVec 12) (s t : BitVec 5) (cond : Word → Word → Bool) : M Flow := do
  if cond (← readX s) (← readX t) then return .to ((← get).me.pc + sext i * 4) else return .step

/-! Loads (R134). -/

def execLb (d s : BitVec 5) (i : BitVec 12) (st : State) := run (.lb d s i) (loadBody d s i 1 (signed 1)) st
def execLh (d s : BitVec 5) (i : BitVec 12) (st : State) := run (.lh d s i) (loadBody d s i 2 (signed 2)) st
def execLw (d s : BitVec 5) (i : BitVec 12) (st : State) := run (.lw d s i) (loadBody d s i 4 (signed 4)) st
def execLd (d s : BitVec 5) (i : BitVec 12) (st : State) := run (.ld d s i) (loadBody d s i 8 unsigned) st
def execLbz (d s : BitVec 5) (i : BitVec 12) (st : State) := run (.lbz d s i) (loadBody d s i 1 unsigned) st
def execLhz (d s : BitVec 5) (i : BitVec 12) (st : State) := run (.lhz d s i) (loadBody d s i 2 unsigned) st
def execLwz (d s : BitVec 5) (i : BitVec 12) (st : State) := run (.lwz d s i) (loadBody d s i 4 unsigned) st
/-- As `ld`; the model performs accesses in program order, which is an acquire (R136; DEDUCED, log 4). -/
def execLdAq (d s : BitVec 5) (i : BitVec 12) (st : State) := run (.ldAq d s i) (loadBody d s i 8 unsigned) st

/-! Stores (R134). -/

def execSb (i : BitVec 12) (s t : BitVec 5) (st : State) := run (.sb i s t) (storeBody i s t 1) st
def execSh (i : BitVec 12) (s t : BitVec 5) (st : State) := run (.sh i s t) (storeBody i s t 2) st
def execSw (i : BitVec 12) (s t : BitVec 5) (st : State) := run (.sw i s t) (storeBody i s t 4) st
def execSd (i : BitVec 12) (s t : BitVec 5) (st : State) := run (.sd i s t) (storeBody i s t 8) st
/-- As `sd`, a release (R136; DEDUCED, log 4). -/
def execSdRl (i : BitVec 12) (s t : BitVec 5) (st : State) := run (.sdRl i s t) (storeBody i s t 8) st

/-! Register-immediate and unary forms (R137, R138). -/

def execAddi (d s : BitVec 5) (i : BitVec 12) (st : State) := run (.addi d s i) (unary d s fun a => a + sext i) st
def execSlli (d s : BitVec 5) (h : BitVec 6) (st : State) := run (.slli d s h) (unary d s fun a => a <<< h.toNat) st
def execClz (d s : BitVec 5) (st : State) := run (.clz d s) (unary d s fun a => BitVec.ofNat 64 (leadingZeros a 64)) st
def execCtz (d s : BitVec 5) (st : State) := run (.ctz d s) (unary d s fun a => BitVec.ofNat 64 (trailingZeros a 0 64)) st
def execPopc (d s : BitVec 5) (st : State) := run (.popc d s) (unary d s fun a => BitVec.ofNat 64 (popCount a)) st
def execSextw (d s : BitVec 5) (st : State) := run (.sextw d s) (unary d s fun a => sext (bits a 31 0)) st
def execZextw (d s : BitVec 5) (st : State) := run (.zextw d s) (unary d s fun a => zext (bits a 31 0)) st
def execRev8 (d s : BitVec 5) (st : State) := run (.rev8 d s) (unary d s reverseBytes) st
def execSlti (d s : BitVec 5) (i : BitVec 12) (st : State) := run (.slti d s i) (unary d s fun a => flag (a.slt (sext i))) st
def execSltni (d s : BitVec 5) (i : BitVec 12) (st : State) := run (.sltni d s i) (unary d s fun a => flag (a.ult (sext i))) st
def execXori (d s : BitVec 5) (i : BitVec 12) (st : State) := run (.xori d s i) (unary d s fun a => a ^^^ sext i) st
def execSrli (d s : BitVec 5) (h : BitVec 6) (st : State) := run (.srli d s h) (unary d s fun a => a >>> h.toNat) st
def execSrai (d s : BitVec 5) (h : BitVec 6) (st : State) := run (.srai d s h) (unary d s fun a => a.sshiftRight h.toNat) st
def execOri (d s : BitVec 5) (i : BitVec 12) (st : State) := run (.ori d s i) (unary d s fun a => a ||| sext i) st
def execAndi (d s : BitVec 5) (i : BitVec 12) (st : State) := run (.andi d s i) (unary d s fun a => a &&& sext i) st

/-! Register-register forms (R139). -/

/-- The shift count of a register (R139). -/
def shiftCount (b : Word) : Nat := b.toNat % 64

def execAdd (d s t : BitVec 5) (st : State) := run (.add d s t) (binary d s t fun a b => a + b) st
def execSll (d s t : BitVec 5) (st : State) := run (.sll d s t) (binary d s t fun a b => a <<< shiftCount b) st
def execSlt (d s t : BitVec 5) (st : State) := run (.slt d s t) (binary d s t fun a b => flag (a.slt b)) st
def execSltn (d s t : BitVec 5) (st : State) := run (.sltn d s t) (binary d s t fun a b => flag (a.ult b)) st
def execXor (d s t : BitVec 5) (st : State) := run (.xor d s t) (binary d s t fun a b => a ^^^ b) st
def execSrl (d s t : BitVec 5) (st : State) := run (.srl d s t) (binary d s t fun a b => a >>> shiftCount b) st
def execOr (d s t : BitVec 5) (st : State) := run (.or d s t) (binary d s t fun a b => a ||| b) st
def execAnd (d s t : BitVec 5) (st : State) := run (.and d s t) (binary d s t fun a b => a &&& b) st
def execSub (d s t : BitVec 5) (st : State) := run (.sub d s t) (binary d s t fun a b => a - b) st
def execSra (d s t : BitVec 5) (st : State) := run (.sra d s t) (binary d s t fun a b => a.sshiftRight (shiftCount b)) st
def execOrn (d s t : BitVec 5) (st : State) := run (.orn d s t) (binary d s t fun a b => a ||| ~~~b) st
def execAndn (d s t : BitVec 5) (st : State) := run (.andn d s t) (binary d s t fun a b => a &&& ~~~b) st
def execMin (d s t : BitVec 5) (st : State) := run (.min d s t) (binary d s t fun a b => if a.slt b then a else b) st
def execMax (d s t : BitVec 5) (st : State) := run (.max d s t) (binary d s t fun a b => if a.slt b then b else a) st
def execMinn (d s t : BitVec 5) (st : State) := run (.minn d s t) (binary d s t fun a b => if a.ult b then a else b) st
def execMaxn (d s t : BitVec 5) (st : State) := run (.maxn d s t) (binary d s t fun a b => if a.ult b then b else a) st

/-! Multiply and divide (R18, R141). -/

/-- Signed quotient toward zero; by 0 it is −1, and −2^63 by −1 gives −2^63 (R18). -/
def quotient (a b : Word) : Word := if b = 0 then BitVec.allOnes 64 else a.sdiv b

/-- Signed remainder with the sign of the dividend; by 0 it is the dividend (R18). -/
def remainder (a b : Word) : Word := if b = 0 then a else a.srem b

/-- Unsigned quotient; by 0 it is all ones (R18). -/
def quotientN (a b : Word) : Word := if b = 0 then BitVec.allOnes 64 else a / b

/-- Unsigned remainder; by 0 it is the dividend (R18). -/
def remainderN (a b : Word) : Word := if b = 0 then a else a % b

/-- High half of a signed product (R141). -/
def mulHigh (a b : Word) : Word := (a.signExtend 128 * b.signExtend 128).extractLsb' 64 64

/-- High half of an unsigned product (R141). -/
def mulHighN (a b : Word) : Word := (a.setWidth 128 * b.setWidth 128).extractLsb' 64 64

def execMul (d s t : BitVec 5) (st : State) := run (.mul d s t) (slow d s t fun a b => a * b) st
def execMulh (d s t : BitVec 5) (st : State) := run (.mulh d s t) (slow d s t mulHigh) st
def execMulhn (d s t : BitVec 5) (st : State) := run (.mulhn d s t) (slow d s t mulHighN) st
def execDiv (d s t : BitVec 5) (st : State) := run (.div d s t) (slow d s t quotient) st
def execDivn (d s t : BitVec 5) (st : State) := run (.divn d s t) (slow d s t quotientN) st
def execRem (d s t : BitVec 5) (st : State) := run (.rem d s t) (slow d s t remainder) st
def execRemn (d s t : BitVec 5) (st : State) := run (.remn d s t) (slow d s t remainderN) st

/-! Upper, pc-relative, jumps and branches (R109, R140, R142, R143). -/

/-- A 20-bit immediate in bits [31:12], sign-extended (R109). -/
def upper (i : BitVec 20) : Word := sext (i ++ 0#12)

def execLhi (d : BitVec 5) (i : BitVec 20) (st : State) :=
  run (.lhi d i) (do writeX d (upper i); return .step) st

def execApc (d : BitVec 5) (i : BitVec 20) (st : State) :=
  run (.apc d i) (do writeX d (((← get).me.pc &&& ~~~0xFFF#64) + upper i); return .step) st

/-- A jump writes its link and goes to a target (R142). -/
def jumpBody (d : BitVec 5) (target : Slot → Word) : M Flow := do
  let t := (← get).me
  writeX d (t.pc + 4)
  return .to (target t)

def execJal (d : BitVec 5) (i : BitVec 20) (st : State) :=
  run (.jal d i) (jumpBody d fun t => t.pc + sext i * 4) st

def execJalr (d s : BitVec 5) (i : BitVec 12) (st : State) :=
  run (.jalr d s i) (jumpBody d fun t => (t.getX s + sext i) &&& ~~~3#64) st

def execBeq (i : BitVec 12) (s t : BitVec 5) (st : State) := run (.beq i s t) (branch i s t fun a b => a = b) st
def execBne (i : BitVec 12) (s t : BitVec 5) (st : State) := run (.bne i s t) (branch i s t fun a b => a ≠ b) st
def execBlt (i : BitVec 12) (s t : BitVec 5) (st : State) := run (.blt i s t) (branch i s t fun a b => a.slt b) st
def execBge (i : BitVec 12) (s t : BitVec 5) (st : State) := run (.bge i s t) (branch i s t fun a b => !a.slt b) st
def execBltn (i : BitVec 12) (s t : BitVec 5) (st : State) := run (.bltn i s t) (branch i s t fun a b => a.ult b) st
def execBgen (i : BitVec 12) (s t : BitVec 5) (st : State) := run (.bgen i s t) (branch i s t fun a b => !a.ult b) st

end Sys2Proof.Machine
end

