-- ==== Sys2Proof/Machine/FullEmpty.lean ====
section
/-!
DEFINITION. Full/empty words: their wait lists, fill and drain, and the forms that use them (R144 to R149, R322).
-/
namespace Sys2Proof.Machine

/-! What arrives at a core: power gates (R304). -/

/-- Something that a core's comb held for it has still to be served. -/
def State.heldLeft (s : State) (c : CoreId) : Bool := someOf (fun d : Due => d.event.args.held = some c) s.agenda

/-- An event is held at its core's comb: a gated core powers up, for which R304 gives a reference time only, and events are served there in
arrival order (R4, R304). -/
def State.heldAtGate (s : State) (c : CoreId) (e : Event) : State :=
  let e : Event := { e with args := { e.args with held := some c } }
  if (s.core c).power = .on then s.post e.kind e.args
  else
    let s := if (s.core c).power = .gated then (s.modCore c fun q => { q with power := .waking }).post .powerUpComplete { core := c } else s
    s.modCore c fun q => { q with heldAtComb := q.heldAtComb ++ [e] }

/-- What arrives at a core has its effect there, or waits for the core's power and for what arrived before it (R304). -/
def State.arriveAt (s : State) (c : CoreId) (e : Event) (f : State → State) : State :=
  if (s.core c).power = .on && (e.args.held = some c || !s.heldLeft c) then f s else s.heldAtGate c e

/-! Serving a waiter (R145). -/

/-- The slot or channel's core and slot for which a waiter stands (R144, R216, R223). -/
def WaitAgent.place : WaitAgent → CoreId × SlotId
  | .slot c k => (c, k)
  | .stage _ _ c k => (c, k)
  | .channel c _ => (c, forager)

/-- A waiter that stands where fills and drains of its word reach it: the scratchpad and mailboxes of a core are those of the tenant whose
state the core holds, so the waits of another do not stand there meanwhile (R269, R270). -/
def State.standing (s : State) (w : Waiter) : Bool :=
  match w.loc with
  | .line _ _ => true
  | .spad c _ | .mail c _ _ => s.coreHolds c w.tenant

/-- The first waiter of a word's fill list, or of its drain list (R144, R311). -/
def State.firstWaiter (s : State) (l : Loc) (drain : Bool) : Option Waiter :=
  firstOf (fun w => w.loc = l.point && (w.kind = .sdef) = drain && s.standing w) s.waiters

def State.dropWaiter (s : State) (w : Waiter) : State := { s with waiters := removeFirst (fun v => v = w) s.waiters }

/-- A waiting form completes in its slot: the destination written, on to the next instruction (R145). -/
def Slot.served (t : Slot) (w : Waiter) (v : Word) : Slot :=
  { (if w.kind = .sdef then t else t.setX w.dest v) with pc := t.pc + 4, state := .run, wait := .none }

/-- A waiting form completes in a suspended stage (R216); a register that is not the stage's is its slot's (R301). -/
def Stage.served (g : Stage) (w : Waiter) (v : Word) : Stage :=
  let x := if w.kind = .sdef || w.dest = 0 then g.x else Vector.ofFn fun i => if i.val = w.dest.toNat then v else g.x[i]
  { g with x := x, pc := g.pc + 4, status := .live }

/-- A channel's `mvring` has stored its handle: the transfer completes (R223). -/
def State.handleStored (s : State) (c : CoreId) (ch : BitVec 2) : State :=
  s.modCore c fun q =>
    let h := q.channels[ch.toNat]'(ch.isLt)
    { q with channels := q.channels.set ch.toNat { h with queue := h.queue.tail } ch.isLt }

/-- A waiter that has left its list completes with the word's value. -/
def State.complete (s : State) (w : Waiter) (v : Word) : State :=
  match w.agent with
  | .slot c k => s.modTenantSlot w.tenant c k fun t => if t.state = .fewait then t.served w v else t
  | .stage chain i c k =>
    match s.findChain chain with
    | some h =>
      let s := if w.kind = .sdef || w.dest.toNat < 16 then s else s.modTenantSlot w.tenant c k fun t => t.setX w.dest v
      s.rewakeFolder (h.setStage i ((h.stage i).served w v))
    | none => s
  | .channel c ch => s.handleStored c ch

/-- A service as an event that reaches the core of its waiter: the value, the register, and what `num` tells of the kind of waiter. -/
def Waiter.service (w : Waiter) (v : Word) : Event :=
  let (c, k) := w.agent.place
  let a : EventArgs := { core := c, slot := k, word := v, reg := .x w.dest, tenant := w.tenant, flag := true, num := if w.kind = .sdef then 1 else 0 }
  { kind := .resultUsable, args := match w.agent with | .stage ref i _ _ => { a with chain := ref, link := i, num := a.num + 2 } | _ => a }

/-- The waiter that such an event completes. -/
def EventArgs.waiter (a : EventArgs) : Waiter :=
  { loc := .spad 0 0, agent := if a.num ≥ 2 then .stage a.chain a.link a.core a.slot else .slot a.core a.slot, tenant := a.tenant,
    kind := if a.num % 2 = 1 then .sdef else .ldff, dest := match a.reg with | .x r => r | _ => 0, value := 0, va := 0, since := 0 }

/-- A waiter that leaves its list is served with the word's value, once its core is powered where it stands there (R145, R304). -/
def State.serve (s : State) (w : Waiter) (v : Word) : State :=
  let (c, k) := w.agent.place
  if s.switchedOut w.tenant c k then s.complete w v else s.arriveAt c (w.service v) fun s => s.complete w v

/-- The loops of `fill` and `drain` (R145), with at most `n` waiters to serve. -/
def State.serveWord (s : State) (l : Loc) : Nat → State
  | 0 => s
  | n + 1 =>
    if s.isFull l.place then
      match s.firstWaiter l false with
      | none => s
      | some w =>
        let s := (s.dropWaiter w).serve w (BitVec.ofNat 64 (s.readLoc l.place 8))
        (if w.kind = .ldfe then s.setFull l.place false else s).serveWord l n
    else
      match s.firstWaiter l true with
      | none => s
      | some w =>
        let s := (s.dropWaiter w).serve w 0
        ((s.writeLoc l.place 8 w.value.toNat).setFull l.place true).serveWord l n

/-- The place of a word that is waited for, as the second stage now has it. -/
def State.placeOf (s : State) : WaitPoint → Option Loc
  | .line tag off => (s.lineAddr tag).map fun a => { place := .mem (a + off), tag := tag, home := 0 }
  | .spad c o => some { place := .spad c o, tag := { tenant := 0, line := 0 }, home := combOf c }
  | .mail c b w => some { place := .mail c b w, tag := { tenant := 0, line := 0 }, home := combOf c }

/-- The waiters of words that hardware has written whole, or has brought back with a core's state, are served (R145, R147, R270). An
ordinary store that replaces an uncorrectable empty word is such a write (R318; DESIGN CHOICE, log 89). -/
def State.serveDue (s : State) : State :=
  s.waiters.foldl (fun s w => match s.placeOf w.loc with | some l => s.serveWord l (s.waiters.length + 1) | none => s) s

/-- fill(v) (R145). -/
def State.fillWord (s : State) (l : Loc) (v : Word) : State :=
  (((s.writeLoc l.place 8 v.toNat).setBad l.place false).setFull l.place true).serveWord l (s.waiters.length + 1)

/-- The word becomes empty; drain() (R145). -/
def State.emptyWord (s : State) (l : Loc) : State := (s.setFull l.place false).serveWord l (s.waiters.length + 1)

/-- A word written together with its bit, as one read-modify-write; the bit that counts is the word's old one, an uncorrectable word's
included (R147, R318). -/
def State.writeWithBit (s : State) (l : Loc) (v : Word) (full : Bool) : State :=
  if full then
    if s.isFull l.place && !s.isBad l.place then s.writeLoc l.place 8 v.toNat else s.fillWord l v
  else
    let s' := (s.writeLoc l.place 8 v.toNat).setBad l.place false
    if s.isFull l.place then s'.emptyWord l else s'

/-! Waiting (R144, R149, R216, R322). -/

/-- The acting slot, or its stage, joins a wait list; the wait limit runs from now, and is over once the cycle in which it is reached has
passed, whose services come first (R149, R322). -/
def joinList (l : WaitPoint) (kind : WaitKind) (d : BitVec 5) (v va : Word) : M Flow := do
  let s ← get
  let t := s.me
  let c := s.cur.core
  let k := s.cur.slot
  let w (agent : WaitAgent) : Waiter :=
    { loc := l, agent := agent, tenant := t.tenant, kind := kind, dest := d, value := v, va := va, since := s.now }
  let limit (s : State) : State :=
    if t.fewlim = 0 then s
    else s.post .waitLimit { core := c, slot := k, num := s.now, word := va, tenant := t.tenant } (t.fewlim.toNat + 1)
  match t.chain with
  | some ref =>
    match t.inFoldedStage, s.findChain ref with
    | true, some h =>
      let h := s.putAway h c k .suspended none
      let s := limit { s with waiters := s.waiters ++ [w (.stage ref h.running c k)] }
      set (s.switchStage h c k none)
      return .stay
    | _, _ => set ((limit { s with waiters := s.waiters ++ [w (.slot c k)] }).modMe fun t => t.park .fewait (.word l))
              return .stay
  | none => set ((limit { s with waiters := s.waiters ++ [w (.slot c k)] }).modMe fun t => t.park .fewait (.word l))
            return .stay

/-- The wait of a slot or stage that began at cycle `args.num` has lasted `fewlim` cycles: it leaves its list and takes 0x09 (R322).
A stopped slot's count pauses. -/
def execWaitLimit (s : State) : Host.Outcome State Fault Refusal :=
  let a := s.args
  let mine (w : Waiter) : Bool := w.since = a.num && w.va = a.word && w.tenant = a.tenant &&
    (match w.agent with
     | .slot c k => c = a.core && k = a.slot
     | .stage _ _ c k => c = a.core && k = a.slot
     | .channel _ _ => false)
  match firstOf mine s.waiters with
  | none => .next s
  | some w =>
    if (s.tenantSlot w.tenant a.core a.slot).stopped || s.switchedOut w.tenant a.core a.slot then .next s
    else
      let s := s.dropWaiter w
      match w.agent with
      | .stage chain i _ _ =>
        match s.findChain chain with
        | some h => .next (s.rewakeFolder (h.setStage i { h.stage i with status := .live, cause := some (causeWaitLimit, w.va) }))
        | none => .next s
      | _ => .next (s.modSlot a.core a.slot fun t => { t.unpark with cause := some (causeWaitLimit, w.va) })

/-! The forms (R146). -/

/-- The word of a full/empty form, every other cached copy recalled (R144), and its virtual address. -/
def fullEmptyWord (s : BitVec 5) (i : BitVec 12) (repairs : Bool) : M (Loc × Word) := do
  let va ← offsetAddr s i
  let l ← locate va 8 .rmw
  if !repairs then checkGood l va 8
  modify fun s => (s.noteStageTwo l).recall l
  return (l, va)

def wordValue (l : Loc) : M Word := do return BitVec.ofNat 64 ((← get).readLoc l.place 8)

/-- A destination that is pending until its result is usable. -/
def answer (d : BitVec 5) (v : Word) : M Flow := do
  writeX d v
  pendResult (.x d) true none
  return .step

def ldfeWord (l : Loc) (va : Word) (d : BitVec 5) : M Flow := do
  if (← get).isFull l.place then
    let v ← wordValue l
    modify fun s => s.emptyWord l
    answer d v
  else joinList l.point .ldfe d 0 va

def sdefWord (l : Loc) (va v : Word) : M Flow := do
  if (← get).isFull l.place then joinList l.point .sdef 0 v va
  else
    modify fun s => s.fillWord l v
    return .step

def execLdfe (d s : BitVec 5) (i : BitVec 12) (st : State) :=
  run (.ldfe d s i) (do
    needRoom 1
    let (l, va) ← fullEmptyWord s i false
    ldfeWord l va d) st

def execLdff (d s : BitVec 5) (i : BitVec 12) (st : State) :=
  run (.ldff d s i) (do
    needRoom 1
    let (l, va) ← fullEmptyWord s i false
    if (← get).isFull l.place then answer d (← wordValue l) else joinList l.point .ldff d 0 va) st

def execLdfx (d s : BitVec 5) (i : BitVec 12) (st : State) :=
  run (.ldfx d s i) (do
    needRoom 1
    let (l, _) ← fullEmptyWord s i false
    let v ← wordValue l
    if (← get).isFull l.place then modify fun s => s.emptyWord l
    answer d v) st

def execSdef (i : BitVec 12) (s t : BitVec 5) (st : State) :=
  run (.sdef i s t) (do
    needRoom 1
    let v ← readX t
    let (l, va) ← fullEmptyWord s i false
    sdefWord l va v) st

/-- A form that writes a whole word and its bit replaces an uncorrectable word (R318; DEDUCED, log 21). -/
def execSdff (i : BitVec 12) (s t : BitVec 5) (st : State) :=
  run (.sdff i s t) (do
    needRoom 1
    let v ← readX t
    let (l, _) ← fullEmptyWord s i true
    modify fun s => s.writeWithBit l v true
    return .step) st

def execFempty (s : BitVec 5) (i : BitVec 12) (st : State) :=
  run (.fempty s i) (do
    needRoom 1
    let (l, _) ← fullEmptyWord s i false
    if (← get).isFull l.place then modify fun s => s.emptyWord l
    return .step) st

def execFstate (d s : BitVec 5) (i : BitVec 12) (st : State) :=
  run (.fstate d s i) (do
    needRoom 1
    let (l, _) ← fullEmptyWord s i false
    answer d (flag ((← get).isFull l.place))) st

end Sys2Proof.Machine
end

