-- ==== Sys2Proof/Machine/Atomic.lean ====
section
/-!
DEFINITION. Atomics and fences (R195 to R199).
-/
namespace Sys2Proof.Machine

/-- The new value of an atomic, from the old one, the operand and, for `amocas`, the expected value; `none` for no write (R195). -/
def amoValue (op : AmoOp) (old b expected : Word) : Option Word :=
  match op with
  | .swap => some b
  | .add => some (old + b)
  | .and => some (old &&& b)
  | .or => some (old ||| b)
  | .xor => some (old ^^^ b)
  | .min => some (if old.slt b then old else b)
  | .max => some (if old.slt b then b else old)
  | .minn => some (if old.ult b then old else b)
  | .maxn => some (if old.ult b then b else old)
  | .cas => if old = expected then some b else none

/-- Whether an atomic's scope has it performed in the core's own L1 (R197). -/
def scopeInL1 : Scope → Bool
  | .slot | .core => true
  | .comb | .die | .pkg | .sys => false

/-- One indivisible read-modify-write; the word's bit is neither tested nor changed (R195, R197). -/
def amoBody (op : AmoOp) (d : BitVec 5) (c : Scope) (s t : BitVec 5) : M Flow := do
  needRoom 1
  let va ← readX s
  let b ← readX t
  let expected ← readX d
  let l ← locate va 8 .rmw
  checkGood l va 8
  let old ← wordValue l
  modify fun s =>
    let s := s.noteStageTwo l
    let s := if scopeInL1 c then (s.touch s.cur.core l .rmw 8).1 else s.recall l
    match amoValue op old b expected with
    | some v => s.writeLoc l.place 8 v.toNat
    | none => s
  answer d old

def execAmoswap (d : BitVec 5) (c : Scope) (s t : BitVec 5) (o : Order) (st : State) := run (.amoswap d c s t o) (amoBody .swap d c s t) st
def execAmoadd (d : BitVec 5) (c : Scope) (s t : BitVec 5) (o : Order) (st : State) := run (.amoadd d c s t o) (amoBody .add d c s t) st
def execAmoand (d : BitVec 5) (c : Scope) (s t : BitVec 5) (o : Order) (st : State) := run (.amoand d c s t o) (amoBody .and d c s t) st
def execAmoor (d : BitVec 5) (c : Scope) (s t : BitVec 5) (o : Order) (st : State) := run (.amoor d c s t o) (amoBody .or d c s t) st
def execAmoxor (d : BitVec 5) (c : Scope) (s t : BitVec 5) (o : Order) (st : State) := run (.amoxor d c s t o) (amoBody .xor d c s t) st
def execAmomin (d : BitVec 5) (c : Scope) (s t : BitVec 5) (o : Order) (st : State) := run (.amomin d c s t o) (amoBody .min d c s t) st
def execAmomax (d : BitVec 5) (c : Scope) (s t : BitVec 5) (o : Order) (st : State) := run (.amomax d c s t o) (amoBody .max d c s t) st
def execAmominn (d : BitVec 5) (c : Scope) (s t : BitVec 5) (o : Order) (st : State) := run (.amominn d c s t o) (amoBody .minn d c s t) st
def execAmomaxn (d : BitVec 5) (c : Scope) (s t : BitVec 5) (o : Order) (st : State) := run (.amomaxn d c s t o) (amoBody .maxn d c s t) st
def execAmocas (d : BitVec 5) (c : Scope) (s t : BitVec 5) (o : Order) (st : State) := run (.amocas d c s t o) (amoBody .cas d c s t) st

def execFence (c : Scope) (st : State) := run (.fence c) (do waitEarlier; return .step) st

/-- Everything `fence` does; a keyed event is performed when it is issued, so its order is kept too (R199; DEDUCED, log 4). -/
def execFenceK (c : Scope) (st : State) := run (.fenceK c) (do waitEarlier; return .step) st

/-- The core's fetched and cached instructions are discarded (R226). -/
def execFenceI (st : State) :=
  run .fenceI (do
    waitEarlier
    modMyCore fun q => { q with icache := [] }
    return .step) st

end Sys2Proof.Machine
end

