-- ==== Sys2Proof/Machine/Vector.lean ====
section
/-!
DEFINITION. The vector forms (R150 to R163).
-/
namespace Sys2Proof.Machine

def readV (r : BitVec 4) : M VecWord := do return (← get).me.getV r
def writeV (r : BitVec 4) (v : VecWord) : M Unit := modMe fun t => t.setV r v
def readM (r : BitVec 3) : M Word := do return (← get).me.getM r
def writeM (r : BitVec 3) (v : Word) : M Unit := modMe fun t => t.setM r v

/-! Memory forms (R154, R155). -/

/-- The active lanes with their addresses, lowest first (R151, R154). -/
def laneAddrs (t : VType) (mask : Word) (addr : Nat → Word) : List (Nat × Word) :=
  (keepIf (fun i => activeLane mask i) (List.range (VType.lanes t))).map fun i => (i, addr i)

/-- The sector of an address (R77), by virtual address (R155 does not say of which; DESIGN CHOICE, log 90). -/
def sectorOf (va : Word) : Nat := va.toNat / 32

/-- The distinct sectors of a list of addresses (R155). -/
def sectorCount : List (Nat × Word) → Nat
  | [] => 0
  | p :: r => (if someOf (fun q => sectorOf q.2 = sectorOf p.2) r then 0 else 1) + sectorCount r

/-- Unit-stride addresses (R154). -/
def unitAddr (t : VType) (b : Word) (i : Nat) : Word := b + BitVec.ofNat 64 (VType.elemBytes t * i)

/-- Addresses at a byte stride (R154). -/
def strideAddr (b g : Word) (i : Nat) : Word := b + BitVec.ofNat 64 i * g

/-- Indexed addresses: the index lane at its full width (R154). -/
def indexAddr (t : VType) (b : Word) (v : VecWord) (i : Nat) : Word := b + BitVec.ofNat 64 (VType.elemBytes t * laneOf t v i)

/-- Every lane's value with the line it waits for. -/
def loadLanes (e : Nat) : List (Nat × Word) → M (List (Nat × Nat × Word × Option LineTag))
  | [] => return []
  | (i, va) :: r => do
    let (v, line) ← loadVA va e
    let vs ← loadLanes e r
    return (i, v, va, line) :: vs

/-- One access outstanding for each distinct sector (R155). -/
def launchSectors (reg : RegName) : List (Nat × Nat × Word × Option LineTag) → M Unit
  | [] => pure ()
  | p :: r => do
    if !someOf (fun q : Nat × Nat × Word × Option LineTag => sectorOf q.2.2.1 = sectorOf p.2.2.1) r then
      pendResult reg true p.2.2.2
    launchSectors reg r

/-- The value that a list of loaded lanes has at lane `i`. -/
def loadedLane (i : Nat) : List (Nat × Nat × Word × Option LineTag) → Option Nat
  | [] => none
  | p :: r => if p.1 = i then some p.2.1 else loadedLane i r

/-- A vector load (R154): inactive lanes keep their values. -/
def vectorLoad (d : BitVec 4) (t : VType) (m : BitVec 3) (addr : Nat → Word) : M Flow := do
  let mask ← readM m
  let lanes := laneAddrs t mask addr
  needRoom (sectorCount lanes)
  let got ← loadLanes (VType.elemBytes t) lanes
  let old ← readV d
  writeV d (mapLanesQuiet t mask old fun i => (loadedLane i got).getD 0)
  launchSectors (.v d) got
  return .step

/-- Every lane's place, each checked in lane order (R307). -/
def locateLanes (e : Nat) : List (Nat × Word) → M (List (Nat × Word × Loc))
  | [] => return []
  | (i, va) :: r => do
    let l ← locate va e .store
    storeCheck l va e
    let ls ← locateLanes e r
    return (i, va, l) :: ls

/-- The lanes of a form, of `e` bytes each, store every byte of the sector that an address lies in (R77). -/
def coverSector (e : Nat) (lanes : List (Nat × Word)) (va : Word) : Bool :=
  allOf (fun j => someOf (fun p : Nat × Word => p.2.toNat = sectorOf va * 32 + j * e) lanes) (List.range (32 / e))

/-- Lanes stored lowest first, so that of two lanes to the same bytes the higher stays (R155); those whose lines were not in the core.
`whole` says of an address whether the form stores all of its sector. -/
def storeLanes (t : VType) (v : VecWord) (whole : Word → Bool) :
    List (Nat × Word × Loc) → M (List (Nat × Nat × Word × Option LineTag))
  | [] => return []
  | (i, va, l) :: r => do
    let line ← performStore l va (VType.elemBytes t) (laneOf t v i) (whole va)
    let rest ← storeLanes t v whole r
    return if line.isSome then (i, 0, va, line) :: rest else rest

/-- A vector store (R154). -/
def vectorStore (d : BitVec 4) (t : VType) (m : BitVec 3) (addr : Nat → Word) : M Flow := do
  let lanes := laneAddrs t (← readM m) addr
  needRoom (sectorCount lanes)
  let ls ← locateLanes (VType.elemBytes t) lanes
  launchSectors (.x 0) (← storeLanes t (← readV d) (coverSector (VType.elemBytes t) lanes) ls)
  return .step

def vldBody (d : BitVec 4) (s : BitVec 5) (t : VType) (m : BitVec 3) : M Flow := do vectorLoad d t m (unitAddr t (← readX s))
def vldsBody (d : BitVec 4) (s g : BitVec 5) (t : VType) (m : BitVec 3) : M Flow := do
  vectorLoad d t m (strideAddr (← readX s) (← readX g))
def vldxBody (d : BitVec 4) (s : BitVec 5) (v : BitVec 4) (t : VType) (m : BitVec 3) : M Flow := do
  vectorLoad d t m (indexAddr t (← readX s) (← readV v))
def vstBody (d : BitVec 4) (s : BitVec 5) (t : VType) (m : BitVec 3) : M Flow := do vectorStore d t m (unitAddr t (← readX s))
def vstsBody (d : BitVec 4) (s g : BitVec 5) (t : VType) (m : BitVec 3) : M Flow := do
  vectorStore d t m (strideAddr (← readX s) (← readX g))
def vstxBody (d : BitVec 4) (s : BitVec 5) (v : BitVec 4) (t : VType) (m : BitVec 3) : M Flow := do
  vectorStore d t m (indexAddr t (← readX s) (← readV v))

def execVld (d : BitVec 4) (s : BitVec 5) (t : VType) (m : BitVec 3) (st : State) := run (.vld d s t m) (vldBody d s t m) st
def execVlds (d : BitVec 4) (s g : BitVec 5) (t : VType) (m : BitVec 3) (st : State) := run (.vlds d s g t m) (vldsBody d s g t m) st
def execVldx (d : BitVec 4) (s : BitVec 5) (v : BitVec 4) (t : VType) (m : BitVec 3) (st : State) := run (.vldx d s v t m) (vldxBody d s v t m) st
def execVst (d : BitVec 4) (s : BitVec 5) (t : VType) (m : BitVec 3) (st : State) := run (.vst d s t m) (vstBody d s t m) st
def execVsts (d : BitVec 4) (s g : BitVec 5) (t : VType) (m : BitVec 3) (st : State) := run (.vsts d s g t m) (vstsBody d s g t m) st
def execVstx (d : BitVec 4) (s : BitVec 5) (v : BitVec 4) (t : VType) (m : BitVec 3) (st : State) := run (.vstx d s v t m) (vstxBody d s v t m) st

/-! Lane computations. -/

/-- A vector destination computed lane by lane: `f` takes the lanes of the two sources and the old lane (R151, R156). -/
def laneBody (d a b : BitVec 4) (t : VType) (m : BitVec 3) (f : Nat → Nat → Nat → Nat × FFlags) : M Flow := do
  let va ← readV a
  let vb ← readV b
  let old ← readV d
  let (v, fl) := mapLanes t (← readM m) old fun i => f (operandOf t va i) (operandOf t vb i) (operandOf t old i)
  writeV d v
  raiseFlags fl
  pendResult (.v d) false none
  return .step

/-- A vector destination whose lanes are chosen by number, with no flag (R157, R161). -/
def moveBody (d : BitVec 4) (t : VType) (mask : Word) (f : Nat → Nat) : M Flow := do
  let old ← readV d
  writeV d (mapLanesQuiet t mask old f)
  pendResult (.v d) false none
  return .step

def arithBody (op : ArithOp) (d a b : BitVec 4) (t : VType) (m : BitVec 3) : M Flow := laneBody d a b t m fun x y _ => arithLane op t x y
def fmaBody (neg : Bool) (d a b : BitVec 4) (t : VType) (m : BitVec 3) : M Flow := laneBody d a b t m fun x y c => fmaLane neg t x y c
def logicBody (op : LogicOp) (d a b : BitVec 4) (t : VType) (m : BitVec 3) : M Flow := do
  let va ← readV a
  let vb ← readV b
  moveBody d t (← readM m) fun i => logicLane op (laneOf t va i) (laneOf t vb i)
def shiftBody (op : ShiftOp) (d a b : BitVec 4) (t : VType) (m : BitVec 3) : M Flow := laneBody d a b t m fun x y _ => (shiftLane op t x y, noFlags)

def execVadd (d a b : BitVec 4) (t : VType) (m : BitVec 3) (st : State) := run (.vadd d a b t m) (arithBody .add d a b t m) st
def execVsub (d a b : BitVec 4) (t : VType) (m : BitVec 3) (st : State) := run (.vsub d a b t m) (arithBody .sub d a b t m) st
def execVmul (d a b : BitVec 4) (t : VType) (m : BitVec 3) (st : State) := run (.vmul d a b t m) (arithBody .mul d a b t m) st
def execVdiv (d a b : BitVec 4) (t : VType) (m : BitVec 3) (st : State) := run (.vdiv d a b t m) (arithBody .div d a b t m) st
def execVmin (d a b : BitVec 4) (t : VType) (m : BitVec 3) (st : State) := run (.vmin d a b t m) (arithBody .min d a b t m) st
def execVmax (d a b : BitVec 4) (t : VType) (m : BitVec 3) (st : State) := run (.vmax d a b t m) (arithBody .max d a b t m) st
def execVfma (d a b : BitVec 4) (t : VType) (m : BitVec 3) (st : State) := run (.vfma d a b t m) (fmaBody false d a b t m) st
def execVfms (d a b : BitVec 4) (t : VType) (m : BitVec 3) (st : State) := run (.vfms d a b t m) (fmaBody true d a b t m) st
def execVand (d a b : BitVec 4) (t : VType) (m : BitVec 3) (st : State) := run (.vand d a b t m) (logicBody .and d a b t m) st
def execVor (d a b : BitVec 4) (t : VType) (m : BitVec 3) (st : State) := run (.vor d a b t m) (logicBody .or d a b t m) st
def execVxor (d a b : BitVec 4) (t : VType) (m : BitVec 3) (st : State) := run (.vxor d a b t m) (logicBody .xor d a b t m) st
def execVshl (d a b : BitVec 4) (t : VType) (m : BitVec 3) (st : State) := run (.vshl d a b t m) (shiftBody .left d a b t m) st
def execVshr (d a b : BitVec 4) (t : VType) (m : BitVec 3) (st : State) := run (.vshr d a b t m) (shiftBody .right d a b t m) st
def execVsra (d a b : BitVec 4) (t : VType) (m : BitVec 3) (st : State) := run (.vsra d a b t m) (shiftBody .arith d a b t m) st

/-! Compare, select, permute, slide (R158, R159, R161). -/

/-- The mask that a compare gives: bit i for an active lane i where it holds, and the flags (R158). -/
def compareMask (c : CmpCond) (t : VType) (mask : Word) (a b : VecWord) : Word × FFlags :=
  let r := (List.range (VType.lanes t)).map fun i =>
    if activeLane mask i then compareLane c t (operandOf t a i) (operandOf t b i) else (false, noFlags)
  (BitVec.ofNat 64 (r.foldr (fun p n => p.1.toNat + 2 * n) 0), r.foldl (fun f p => f ||| p.2) noFlags)

/-- A mask destination, usable after a vector operation's time. -/
def maskResult (d : BitVec 3) (v : Word) : M Flow := do
  writeM d v
  pendResult (.m d) false none
  return .step

def vcmpBody (c : CmpCond) (n : BitVec 3) (a b : BitVec 4) (t : VType) (m : BitVec 3) : M Flow := do
  let (v, fl) := compareMask c t (← readM m) (← readV a) (← readV b)
  raiseFlags fl
  maskResult n v

/-- Every lane is written, from the first source where the mask has a 1 and from the second elsewhere (R159). -/
def vselBody (d a b : BitVec 4) (t : VType) (k : BitVec 3) : M Flow := do
  let va ← readV a
  let vb ← readV b
  let mask ← readM k
  moveBody d t (BitVec.allOnes 64) fun i => if activeLane mask i then operandOf t va i else operandOf t vb i

def vpermBody (d a b : BitVec 4) (t : VType) (m : BitVec 3) : M Flow := do
  let va ← readV a
  let vb ← readV b
  moveBody d t (← readM m) fun i => operandOf t va (operandOf t vb i % VType.lanes t)

/-- Lane i takes lane i − k, and 0 where there is none (R161). -/
def slideLane (t : VType) (v : VecWord) (k : Int) (i : Nat) : Nat :=
  let j : Int := i - k
  if 0 ≤ j ∧ j < VType.lanes t then operandOf t v j.toNat else 0

def vslideBody (d a : BitVec 4) (g : BitVec 5) (t : VType) (m : BitVec 3) : M Flow := do
  let va ← readV a
  let k := (← readX g).toInt
  moveBody d t (← readM m) (slideLane t va k)

def execVcmp (c : CmpCond) (n : BitVec 3) (a b : BitVec 4) (t : VType) (m : BitVec 3) (st : State) := run (.vcmp c n a b t m) (vcmpBody c n a b t m) st
def execVsel (d a b : BitVec 4) (t : VType) (k : BitVec 3) (st : State) := run (.vsel d a b t k) (vselBody d a b t k) st
def execVperm (d a b : BitVec 4) (t : VType) (m : BitVec 3) (st : State) := run (.vperm d a b t m) (vpermBody d a b t m) st
def execVslide (d a : BitVec 4) (g : BitVec 5) (t : VType) (m : BitVec 3) (st : State) := run (.vslide d a g t m) (vslideBody d a g t m) st

/-! Unary forms, moves, reductions (R156, R160, R161). -/

def vabsBody (d a : BitVec 4) (t : VType) (m : BitVec 3) : M Flow := laneBody d a a t m fun x _ _ => (absLane t x, noFlags)
def vnegBody (d a : BitVec 4) (t : VType) (m : BitVec 3) : M Flow := laneBody d a a t m fun x _ _ => (negLane t x, noFlags)
def vsqrtBody (d a : BitVec 4) (t : VType) (m : BitVec 3) : M Flow := laneBody d a a t m fun x _ _ => (VType.floatFmt t).sqrt x

def execVabs (d a : BitVec 4) (t : VType) (m : BitVec 3) (st : State) := run (.vabs d a t m) (vabsBody d a t m) st
def execVneg (d a : BitVec 4) (t : VType) (m : BitVec 3) (st : State) := run (.vneg d a t m) (vnegBody d a t m) st
def execVsqrt (d a : BitVec 4) (t : VType) (m : BitVec 3) (st : State) := run (.vsqrt d a t m) (vsqrtBody d a t m) st

/-- A general destination of a vector form. -/
def vectorToX (d : BitVec 5) (v : Word) (fl : FFlags) : M Flow := do
  writeX d v
  raiseFlags fl
  pendResult (.x d) false none
  return .step

def reduceBody (op : ReduceOp) (d : BitVec 5) (a : BitVec 4) (t : VType) (m : BitVec 3) : M Flow := do
  let (v, fl) := reduceLanes op t (← readM m) (← readV a)
  vectorToX d v fl

def execVredsum (d : BitVec 5) (a : BitVec 4) (t : VType) (m : BitVec 3) (st : State) := run (.vredsum d a t m) (reduceBody .sum d a t m) st
def execVredmax (d : BitVec 5) (a : BitVec 4) (t : VType) (m : BitVec 3) (st : State) := run (.vredmax d a t m) (reduceBody .max d a t m) st
def execVredmin (d : BitVec 5) (a : BitVec 4) (t : VType) (m : BitVec 3) (st : State) := run (.vredmin d a t m) (reduceBody .min d a t m) st

/-- The value that `vbcast` puts in a lane (R161). -/
def broadcastLane (t : VType) (w : Word) : Nat := w.toNat % 2 ^ (8 * VType.elemBytes t)

def vbcastBody (d : BitVec 4) (s : BitVec 5) (t : VType) (m : BitVec 3) : M Flow := do
  let w ← readX s
  moveBody d t (← readM m) fun _ => broadcastLane t w

def execVbcast (d : BitVec 4) (s : BitVec 5) (t : VType) (m : BitVec 3) (st : State) := run (.vbcast d s t m) (vbcastBody d s t m) st

/-- Lane 0 as a general register (R161). -/
def laneToX (t : VType) (v : VecWord) : Word :=
  if t.isSigned then BitVec.ofInt 64 (toSigned (VType.laneWidth t) (laneOf t v 0)) else BitVec.ofNat 64 (operandOf t v 0)

def execVmvx (d : BitVec 5) (a : BitVec 4) (t : VType) (st : State) :=
  run (.vmvx d a t) (do vectorToX d (laneToX t (← readV a)) noFlags) st

/-! Mask forms (R163). -/

def execMand (d a b : BitVec 3) (st : State) := run (.mand d a b) (do maskResult d ((← readM a) &&& (← readM b))) st
def execMor (d a b : BitVec 3) (st : State) := run (.mor d a b) (do maskResult d ((← readM a) ||| (← readM b))) st
def execMnot (d a : BitVec 3) (st : State) := run (.mnot d a) (do maskResult d (~~~(← readM a))) st
def execVpopm (d : BitVec 5) (a : BitVec 3) (st : State) :=
  run (.vpopm d a) (do vectorToX d (BitVec.ofNat 64 (popCount (← readM a))) noFlags) st

/-! Conversions (R162). -/

/-- Lanes below both counts are converted; active lanes above them become 0 (R162). -/
def vcvtBody (d a : BitVec 4) (src t : VType) (rm : RMode) (m : BitVec 3) : M Flow := do
  let va ← readV a
  let old ← readV d
  let (v, fl) := mapLanes t (← readM m) old fun i =>
    if i < VType.lanes src then convertLane src t rm (operandOf src va i) else (0, noFlags)
  writeV d v
  raiseFlags fl
  pendResult (.v d) false none
  return .step

def execVcvt (d a : BitVec 4) (src t : VType) (rm : RMode) (m : BitVec 3) (st : State) := run (.vcvt d a src t rm m) (vcvtBody d a src t rm m) st

end Sys2Proof.Machine
end

