-- ==== Sys2Proof/Machine/Crypto.lean ====
section
/-!
DEFINITION. The algorithms that R280 and R283 name: SHA-384, RSASSA-PSS with RSA-3072, SHA-384 and a salt of 48 bytes, and
SLH-DSA-SHA2-192s. The spec gives their names alone; what they compute is taken from FIPS 180-4, RFC 8017 and FIPS 205 (PRESUMED, log 13).
-/
namespace Sys2Proof.Machine

/-! SHA-2 (FIPS 180-4; PRESUMED, log 13). -/

/-- The greatest `r` below `2^n` beyond `r0` whose `k`-th power is at most `v`, its bits found from the top. -/
def rootFrom (k v r0 : Nat) : Nat → Nat
  | 0 => r0
  | n + 1 => if (r0 + 2 ^ n) ^ k ≤ v then rootFrom k v (r0 + 2 ^ n) n else rootFrom k v r0 n

/-- The first 64 bits of the fractional part of the `k`-th root of a number below 512. -/
def rootBits (k p : Nat) : Nat := rootFrom k (p * 2 ^ (64 * k)) 0 80 % 2 ^ 64

def isPrime (n : Nat) : Bool := 2 ≤ n && !someOf (fun d => 2 ≤ d && n % d = 0) (List.range n)

/-- The first 80 primes. -/
def smallPrimes : List Nat := keepIf isPrime (List.range 410)

/-- What one hash of the family takes: the word's bits, its rounds and its rotations. -/
structure ShaKind (w : Nat) where
  rounds : Nat
  /-- The rotations of the two large and the two small sums; the last of a small one is a shift. -/
  big0 : Nat × Nat × Nat
  big1 : Nat × Nat × Nat
  small0 : Nat × Nat × Nat
  small1 : Nat × Nat × Nat

def sha512Kind : ShaKind 64 := { rounds := 80, big0 := (28, 34, 39), big1 := (14, 18, 41), small0 := (1, 8, 7), small1 := (19, 61, 6) }
def sha256Kind : ShaKind 32 := { rounds := 64, big0 := (2, 13, 22), big1 := (6, 11, 25), small0 := (7, 18, 3), small1 := (17, 19, 10) }

def shaBig {w : Nat} (r : Nat × Nat × Nat) (x : BitVec w) : BitVec w := x.rotateRight r.1 ^^^ x.rotateRight r.2.1 ^^^ x.rotateRight r.2.2
def shaSmall {w : Nat} (r : Nat × Nat × Nat) (x : BitVec w) : BitVec w := x.rotateRight r.1 ^^^ x.rotateRight r.2.1 ^^^ (x >>> r.2.2)

/-- The eight words of a hash. -/
structure ShaState (w : Nat) where
  a : BitVec w
  b : BitVec w
  c : BitVec w
  d : BitVec w
  e : BitVec w
  f : BitVec w
  g : BitVec w
  h : BitVec w

/-- A constant of a round, in words of `w` bits. -/
def shaConstant (w i : Nat) : BitVec w := BitVec.ofNat w (rootBits 3 ((smallPrimes[i]?).getD 0) / 2 ^ (64 - w))

/-- The rounds of a block; `ws` holds the last 16 words of the schedule, newest last. -/
def shaRounds {w : Nat} (k : ShaKind w) (i : Nat) (ws : List (BitVec w)) (s : ShaState w) : Nat → ShaState w
  | 0 => s
  | n + 1 =>
    let at_ (j : Nat) : BitVec w := (ws[j]?).getD 0
    let t1 := s.h + shaBig k.big1 s.e + ((s.e &&& s.f) ^^^ (~~~s.e &&& s.g)) + shaConstant w i + at_ 0
    let t2 := shaBig k.big0 s.a + ((s.a &&& s.b) ^^^ (s.a &&& s.c) ^^^ (s.b &&& s.c))
    let next := shaSmall k.small1 (at_ 14) + at_ 9 + shaSmall k.small0 (at_ 1) + at_ 0
    shaRounds k (i + 1) (ws.drop 1 ++ [next])
      { a := t1 + t2, b := s.a, c := s.b, d := s.c, e := s.d + t1, f := s.e, g := s.f, h := s.g } n

def ShaState.plus {w : Nat} (s t : ShaState w) : ShaState w :=
  { a := s.a + t.a, b := s.b + t.b, c := s.c + t.c, d := s.d + t.d, e := s.e + t.e, f := s.f + t.f, g := s.g + t.g, h := s.h + t.h }

/-- A number whose first byte is the highest. -/
def natOfBig (l : List Byte) : Nat := natOfBytes l.reverse

/-- The bytes of a number, the highest first. -/
def bigOfNat (v n : Nat) : List Byte := (bytesOfNat v n).reverse

/-- Blocks of `16 w / 8` bytes, one after another. -/
def shaBlocks {w : Nat} (k : ShaKind w) (s : ShaState w) (l : List Byte) : Nat → ShaState w
  | 0 => s
  | n + 1 =>
    let b := w / 8
    let ws := (List.range 16).map fun i => BitVec.ofNat w (natOfBig ((l.drop (b * i)).take b))
    shaBlocks k (s.plus (shaRounds k 0 ws s k.rounds)) (l.drop (16 * b)) n

/-- A message with its padding: a 1 bit, zeros, and its length in bits in the last eighth of a block. -/
def shaPadded (w : Nat) (m : List Byte) : List Byte :=
  let block := 2 * w
  let zeros := (block - (m.length + 1 + w / 4) % block) % block
  m ++ [0x80] ++ List.replicate zeros 0 ++ bigOfNat (8 * m.length) (w / 4)

/-- The words a hash starts from: square roots of eight primes from one of them on. -/
def shaStart (w from_ : Nat) : ShaState w :=
  let h (i : Nat) : BitVec w := BitVec.ofNat w (rootBits 2 ((smallPrimes[from_ + i]?).getD 0) / 2 ^ (64 - w))
  { a := h 0, b := h 1, c := h 2, d := h 3, e := h 4, f := h 5, g := h 6, h := h 7 }

def sha2 {w : Nat} (k : ShaKind w) (start : ShaState w) (m : List Byte) : List Byte :=
  let p := shaPadded w m
  let s := shaBlocks k start p (p.length / (2 * w))
  [s.a, s.b, s.c, s.d, s.e, s.f, s.g, s.h].flatMap fun v => bigOfNat v.toNat (w / 8)

def sha256Bytes (m : List Byte) : List Byte := sha2 sha256Kind (shaStart 32 0) m
def sha512Bytes (m : List Byte) : List Byte := sha2 sha512Kind (shaStart 64 0) m
def sha384Bytes (m : List Byte) : List Byte := (sha2 sha512Kind (shaStart 64 8) m).take 48

/-- SHA-384 of a byte string (R283). -/
def sha384 (m : List Byte) : BitVec 384 := BitVec.ofNat 384 (natOfBig (sha384Bytes m))

/-- A digest's bytes, first byte of the digest first. -/
def digestBytes (d : BitVec 384) : List Byte := bigOfNat d.toNat 48

/-- MGF1 with a hash of `size` bytes: `n` bytes (RFC 8017). -/
def mgf1 (hash : List Byte → List Byte) (size : Nat) (seed : List Byte) (n : Nat) : List Byte :=
  ((List.range ((n + size - 1) / size)).flatMap fun i => hash (seed ++ bigOfNat i 4)).take n

/-! RSASSA-PSS (RFC 8017; PRESUMED, log 13). -/

/-- `x^e` modulo `n`, for an exponent of so many bits. -/
def powMod (x e n : Nat) : Nat → Nat
  | 0 => 1 % n
  | bits + 1 => let r := powMod (x * x % n) (e / 2) n bits; if e % 2 = 1 then r * x % n else r

def xorBytes : List Byte → List Byte → List Byte
  | a :: l, b :: r => (a ^^^ b) :: xorBytes l r
  | _, _ => []

/-- An encoded message of 3,071 bits is that of a message with a salt of 48 bytes (RFC 8017, EMSA-PSS). -/
def pssHolds (message em : List Byte) : Bool :=
  let h := (em.drop 335).take 48
  let masked := em.take 335
  let db := match xorBytes masked (mgf1 sha384Bytes 48 h 335) with | [] => [] | b :: l => (b &&& 0x7F#8) :: l
  let salt := db.drop 287
  em.drop 383 = [0xBC] && !(masked.headD 0).getLsbD 7 && db.take 287 = List.replicate 286 0 ++ [1] &&
  sha384Bytes (List.replicate 8 0 ++ sha384Bytes message ++ salt) = h

/-- The RSASSA-PSS signature of a message verifies under a key of 388 bytes: modulus, then exponent (R280). -/
def rsaVerifies (key message signature : List Byte) : Bool :=
  let n := natOfBig (key.take 384)
  let s := natOfBig signature
  s < n && pssHolds message (bigOfNat (powMod s (natOfBytes (key.drop 384)) n 32) 384)

/-! SLH-DSA-SHA2-192s (FIPS 205; PRESUMED, log 13): n = 24, h = 63, d = 7, a = 14, k = 17, w = 16. -/

/-- A hash address: layer, tree, type and its last three words. -/
structure HashAddr where
  layer : Nat
  tree : Nat
  type : Nat
  pair : Nat
  high : Nat
  low : Nat

/-- The 22 bytes that the SHA-2 functions take of an address. -/
def HashAddr.bytes (a : HashAddr) : List Byte :=
  bigOfNat a.layer 1 ++ bigOfNat a.tree 8 ++ bigOfNat a.type 1 ++ bigOfNat a.pair 4 ++ bigOfNat a.high 4 ++ bigOfNat a.low 4

def slhF (seed : List Byte) (a : HashAddr) (m : List Byte) : List Byte := (sha256Bytes (seed ++ List.replicate 40 0 ++ a.bytes ++ m)).take 24
def slhH (seed : List Byte) (a : HashAddr) (m : List Byte) : List Byte := (sha512Bytes (seed ++ List.replicate 104 0 ++ a.bytes ++ m)).take 24

/-- The first `n` digits of `b` bits in a byte string, the highest first. -/
def digitsOf (l : List Byte) (b n : Nat) : List Nat := (List.range n).map fun i => natOfBig l / 2 ^ (8 * l.length - b * (i + 1)) % 2 ^ b

/-- Element `i` of a string of 24-byte elements. -/
def slhPart (l : List Byte) (i : Nat) : List Byte := (l.drop (24 * i)).take 24

/-- A chain from one link on, for so many. -/
def slhChain (seed : List Byte) (a : HashAddr) (x : List Byte) (i : Nat) : Nat → List Byte
  | 0 => x
  | n + 1 => slhChain seed a (slhF seed { a with low := i } x) (i + 1) n

/-- A root from a node and its path, whose first element joins it at height `j`. -/
def slhClimb (seed : List Byte) (a : HashAddr) (path node : List Byte) (idx j : Nat) : Nat → List Byte
  | 0 => node
  | n + 1 =>
    let other := slhPart path j
    let up : HashAddr := { a with high := j + 1, low := idx / 2 }
    slhClimb seed a path (slhH seed up (if idx % 2 = 0 then node ++ other else other ++ node)) (idx / 2) (j + 1) n

/-- The digits that a one-time signature of a message signs, its checksum last. -/
def wotsDigits (m : List Byte) : List Nat :=
  let d := digitsOf m 4 48
  let sum := d.foldl (fun n x => n + (15 - x)) 0
  d ++ digitsOf (bigOfNat (sum * 16) 2) 4 3

/-- The one-time public key that a signature gives. -/
def wotsKey (seed : List Byte) (a : HashAddr) (sig m : List Byte) : List Byte :=
  let ends := ((wotsDigits m).zipIdx).flatMap fun p => slhChain seed { a with high := p.2 } (slhPart sig p.2) p.1 (15 - p.1)
  slhH seed { a with type := 1, high := 0, low := 0 } ends

/-- The root that a signature of one layer gives. -/
def xmssRoot (seed : List Byte) (layer tree leaf : Nat) (sig m : List Byte) : List Byte :=
  let a : HashAddr := { layer := layer, tree := tree, type := 0, pair := leaf, high := 0, low := 0 }
  slhClimb seed { a with type := 2, pair := 0 } (sig.drop 1224) (wotsKey seed a sig m) leaf 0 9

/-- The roots of the layers from one on. -/
def treeRoot (seed : List Byte) (layer tree leaf : Nat) (sig m : List Byte) : Nat → List Byte
  | 0 => m
  | n + 1 => treeRoot seed (layer + 1) (tree / 2 ^ 9) (tree % 2 ^ 9) (sig.drop 1440) (xmssRoot seed layer tree leaf sig m) n

/-- The few-time public key that a signature gives. -/
def forsKey (seed : List Byte) (tree leaf : Nat) (sig md : List Byte) : List Byte :=
  let a : HashAddr := { layer := 0, tree := tree, type := 3, pair := leaf, high := 0, low := 0 }
  let root (p : Nat × Nat) : List Byte :=
    let part := sig.drop (360 * p.2)
    let idx := p.2 * 2 ^ 14 + p.1
    slhClimb seed a (part.drop 24) (slhF seed { a with low := idx } (part.take 24)) idx 0 14
  slhH seed { a with type := 4 } (((digitsOf md 14 17).zipIdx).flatMap root)

/-- The SLH-DSA signature of a message, with an empty context, verifies under a key of 48 bytes (R280). -/
def slhVerifies (key message signature : List Byte) : Bool :=
  let seed := key.take 24
  let root := key.drop 24
  let r := signature.take 24
  let digest := mgf1 sha512Bytes 64 (r ++ seed ++ sha512Bytes (r ++ seed ++ root ++ [0, 0] ++ message)) 39
  let tree := natOfBig ((digest.drop 30).take 7) % 2 ^ 54
  let leaf := natOfBig (digest.drop 37) % 2 ^ 9
  let sig := signature.drop 24
  treeRoot seed 0 tree leaf (sig.drop 6120) (forsKey seed tree leaf (sig.take 6120) (digest.take 30)) 7 = root

end Sys2Proof.Machine
end

