-- ==== Sys2Proof/Machine/Fetch.lean ====
section
/-!
DEFINITION. Fetching the word at the pc (step 1 of R331), and what a slot does at an instruction boundary instead of issuing: a
word that is no instruction, a fetch that fails, an asynchronous cause, the timer (R226, R294, R306, R317, R335).
-/
namespace Sys2Proof.Machine

/-- Words of the 64 KiB instruction cache (R10). -/
def icacheWords : Nat := 16384

/-- A fetched word joins the instruction cache; when that is full the oldest gives way (R10; DESIGN CHOICE, log 50). -/
def Core.cacheWord (q : Core) (f : FetchedWord) : Core :=
  { q with icache := (if q.icache.length < icacheWords then q.icache else q.icache.tail) ++ [f] }

/-- The word at the pc of a slot, and the state with it in the core's instruction cache (R10, R226). R13 has the pc a multiple of 4; a pc
that a saved context gives otherwise is fetched as it stands (DESIGN CHOICE, log 56). -/
def State.fetch (s : State) (c : CoreId) (k : SlotId) : Except Stop (BitVec 32 × State) :=
  let t := s.slot c k
  match s.locate c t t.pc 4 .fetch with
  | .error e => .error e
  | .ok l =>
    match l.place with
    | .mem a =>
      match firstOf (fun f => f.tenant = l.tag.tenant && f.addr = l.guest) (s.core c).icache with
      | some f => .ok (f.word, s)
      | none =>
        if s.memIsBad a then .error (.trap causeUncorrectable t.pc)
        else
          let w := BitVec.ofNat 32 (s.memRead a 4)
          .ok (w, ((s.noteStageTwo l).cacheL2 l.home l.tag).modCore c fun q => q.cacheWord { tenant := l.tag.tenant, addr := l.guest, word := w })
    | _ => .error (.trap causeFetch t.pc)

/-- The fetch at the pc fails: a translation wait or a trap whose xval is the pc (R306, R317). -/
def execInstructionFetchFault (s : State) : Host.Outcome State Fault Refusal :=
  match s.fetch s.cur.core s.cur.slot with
  | .ok _ => .next s
  | .error e => s.settle s.cur.core s.cur.slot 0 e

/-- The word fetched, in `args.insn`, is no instruction: 0x02, sub 1 (R332, R335). -/
def execIllegalInstruction (s : State) : Host.Outcome State Fault Refusal :=
  .next (s.takeTrap s.cur.core s.cur.slot causeIllegal (s.args.insn ++ 1#32))

/-! Asynchronous causes (R294, R295, R297): 3 before 1 before 2 (R344). -/

/-- The asynchronous cause a slot takes next, with its xval, if its `ie` is set. -/
def State.asyncCause (s : State) (c : CoreId) (k : SlotId) : Option (BitVec 8 × Word) :=
  let t := s.slot c k
  if !t.ie then none
  else
    match t.pendNotice with
    | some w => some (3, w)
    | none => if t.pendStop then some (1, 0) else if t.pendTimer && s.timerDue c k then some (2, 0) else none

/-- A pending cause that has been taken is pending no more. -/
def Slot.clearAsync (t : Slot) (cause : BitVec 8) : Slot :=
  if cause = 3 then { t with pendNotice := none }
  else if cause = 1 then { t with pendStop := false }
  else { t with pendTimer := false }

/-- An asynchronous cause suspends a sequence that runs (R299, R300). -/
def State.suspendRep (s : State) (c : CoreId) (k : SlotId) : State :=
  if (s.core c).rep.heldBy k .running then s.modCore c fun q => { q with rep := { q.rep with phase := .suspended, heldSince := none } } else s

/-- Notices that the controller kept while one was pending go to the slot that took it (R295). -/
def noticeWord (n : BitVec 16 × BitVec 12) : Word := 0#36 ++ n.2 ++ n.1

def State.nextNotice (s : State) (c : CoreId) (k : SlotId) : State :=
  match s.controller.notices with
  | [] => s
  | n :: r =>
    { s.modSlot c k (fun t => { t with pendNotice := some (noticeWord n) }) with controller := { s.controller with notices := r } }

/-- The acting slot takes its pending asynchronous cause at an instruction boundary (R225, R294); the xvals of causes 1 and 2 are 0. A
synchronous cause that its instruction was to take is raised only when that is fetched again (R331, R344). -/
def execAsyncTrap (s : State) : Host.Outcome State Fault Refusal :=
  let c := s.cur.core
  let k := s.cur.slot
  match s.asyncCause c k with
  | none => .next s
  | some (cause, xval) =>
    if !(s.slot c k).drained then .next (s.modSlot c k fun t => t.park .memwait .earlier)
    else
      let s := (s.suspendRep c k).beforeEntry c k
      let s := s.modSlot c k fun t => { (t.enterTrap (asyncLevel cause t.priv) true cause xval).clearAsync cause with cause := none, earlier := none, badTable := none }
      .next (if cause = 3 then s.nextNotice c k else s)

/-- `tnow` reaching the slot's `tcmp` makes cause 2 pending (R234). -/
def execTimer (s : State) : Host.Outcome State Fault Refusal :=
  let a := s.args
  .next (if s.timerDue a.core a.slot then s.modSlot a.core a.slot fun t => { t with pendTimer := true } else s)

end Sys2Proof.Machine
end

