-- ==== Sys2Proof/Machine/Objects.lean ====
section
/-!
DEFINITION. Entries of the object table and the checks on them outside keyed forms (R35, R231, R234, R334).
-/
namespace Sys2Proof.Machine

/-- The guest-physical address of an object-table entry (R234). -/
def Slot.objectAddr (t : Slot) (i : Nat) : Nat := field t.objbase 39 6 * 64 + 64 * i

/-- An entry within the table: none where the index is above `objlim` or the second stage refuses the read (R234; DEDUCED, log 22), or
what stops the read (R313, R317). At H the table lies at its machine-physical address (R74). -/
def State.object (s : State) (t : Slot) (i : Nat) : Except Granted (Option (BitVec 512)) :=
  if i > field t.objlim 15 0 then .ok none
  else
    match s.guestRead t.accessTenant (t.objectAddr i) 64 with
    | .ok n => .ok (some (BitVec.ofNat 512 n))
    | .error .refused => .ok none
    | .error g => .error g

/-- The entry that an instruction of slot `t` reads; a read that is held takes the cause in the end that an absent entry takes at once,
and an uncorrectable entry traps 0x15 with its address (R313, R317; DEDUCED, log 54). -/
def readObject (t : Slot) (i : Nat) (cause : BitVec 8) (xval : Word) : M (Option (BitVec 512)) := do
  match (← get).object t i with
  | .ok e => return e
  | .error .bad => throw (.badTable (t.objectAddr i) (BitVec.ofNat 64 (t.objectAddr i)))
  | .error g => throw (stopGuest (t.objectAddr i) cause xval g)

def objKind (e : BitVec 512) : Nat := field e 3 0
def objUse (e : BitVec 512) : Bool := e.getLsbD 6
def objModify (e : BitVec 512) : Bool := e.getLsbD 5
def objOwn (e : BitVec 512) : Bool := e.getLsbD 4

/-- The entry that a form names, of a kind and with the use right, for the acting slot (R334). -/
def useObject (i : Instr) (idx : BitVec 16) (kind : Nat) : M (BitVec 512) := do
  if idx = 0 then trap causeObject (xvalObject i idx 1)
  match ← readObject (← myself) idx.toNat causeObject (xvalObject i idx 1) with
  | none => trap causeObject (xvalObject i idx 1)
  | some e =>
    if objKind e ≠ kind then trap causeObject (xvalObject i idx 1)
    if !objUse e then trap causeObject (xvalObject i idx 2)
    return e

end Sys2Proof.Machine
end

