-- ==== Sys2Proof/Machine/Tiles.lean ====
section
/-!
DEFINITION. The arithmetic of tile pairs and accumulator images (R28 to R32, R164, R172, R174).
-/
namespace Sys2Proof.Machine

/-- The `w`-byte element at byte `off` of an image. -/
def imageElem (n w off : Nat) : Nat := (n >>> (8 * off)) % 2 ^ (8 * w)

/-- An image of `w`-byte elements, element 0 lowest. -/
def imageOf (w : Nat) : List Nat → Nat
  | [] => 0
  | a :: r => a % 2 ^ (8 * w) + 2 ^ (8 * w) * imageOf w r

/-! Products and group sums (R29). -/

/-- The exact product of two f32 values, or the infinity or NaN it is. -/
def exactProduct (x y : FloatVal) : FloatVal :=
  if x.isNan || y.isNan then .nan false
  else if (x.isInf && y.isZero) || (x.isZero && y.isInf) then .nan false
  else if x.isInf || y.isInf then .inf (x.neg != y.neg)
  else
    match x, y with
    | .fin a m e, .fin b n f => .fin (a != b) (m * n) (e + f)
    | _, _ => .nan false

/-- The group sum G of eight products (R29), as f32 bits. -/
def groupSum (l : List FloatVal) : Nat :=
  if someOf FloatVal.isNan l then f32.nan
  else
    let up := someOf (fun p => p.isInf && !p.neg) l
    let down := someOf (fun p => p.isInf && p.neg) l
    if up && down then f32.nan
    else if up then f32.inf false
    else if down then f32.inf true
    else
      let sum : Dyadic := l.foldl (fun (a : Dyadic) p => a.add p.dyadic) { n := 0, e := 0 }
      (sum.round f32 .rne (allOf (fun p => p.isZero && p.neg) l)).1

/-- Operand elements widened to f32 (R19, R25). -/
def widenElem (f : Fmt) (n : Nat) : FloatVal :=
  match f with
  | .mk8 => f32.decode (mk8Decode n)
  | .bf16 => bf16.decode n
  | _ => f32.decode n

/-- The block of A that a bitmap bit skips (R28). -/
def skipped (f : Fmt) (bitmap : Word) (i g : Nat) : Bool :=
  match f with
  | .mk8 | .i8 => bitmap.getLsbD (8 * (i / 8) + g)
  | .bf16 => bitmap.getLsbD (4 * (i / 8) + g)
  | .f32 | .f64 => false

/-- The block of A that its word `i` of 8 bytes lies in is skipped: a tile with a bitmap has rows of 64 bytes (R28). -/
def skippedWord (f : Fmt) (bitmap : Word) (i : Nat) : Bool := skipped f bitmap (i / 8) (if f = .bf16 then i % 8 / 2 else i % 8)

/-- Steps of the group g. -/
def groupSteps (g : Nat) : List Nat := upFrom (8 * g) 8

/-- The product sum of group g for element (i, j). -/
def groupOf (f : Fmt) (a b i j g : Nat) : Nat :=
  let w := if f = .bf16 then 2 else 1
  let k := if f = .bf16 then 32 else 64
  groupSum ((groupSteps g).map fun s =>
    exactProduct (widenElem f (imageElem a w (w * (k * i + s)))) (widenElem f (imageElem b w (w * (32 * s + j)))))

/-- Element (i, j) of an mk8 pair (R30, R31). -/
def mk8Cell (a b sc : Nat) (bitmap : Word) (i j c : Nat) : Nat :=
  (List.range 8).foldl (fun c g =>
    if skipped .mk8 bitmap i g then c
    else
      let t := groupOf .mk8 a b i j g
      let s := (f32.mul (xd8Decode (imageElem sc 1 (2 * i + g / 4))) (xd8Decode (imageElem sc 1 (64 + 2 * j + g / 4)))).1
      (f32.add c (f32.mul t s).1).1) c

/-- Element (i, j) of a bf16 pair (R30). -/
def bf16Cell (a b : Nat) (bitmap : Word) (i j c : Nat) : Nat :=
  (List.range 4).foldl (fun c g => if skipped .bf16 bitmap i g then c else (f32.add c (groupOf .bf16 a b i j g)).1) c

/-- Element (i, j) of an i8 pair (R30). -/
def i8Cell (a b : Nat) (bitmap : Word) (i j c : Nat) : Nat :=
  (List.range 8).foldl (fun c g =>
    if skipped .i8 bitmap i g then c
    else (groupSteps g).foldl (fun c k =>
      wrapInt 32 (c + toSigned 8 (imageElem a 1 (64 * i + k)) * toSigned 8 (imageElem b 1 (32 * k + j)))) c) c

/-- Element (i, j) of an f32 or f64 pair (R32). -/
def fusedCell (f : FloatFmt) (w cols a b i j c : Nat) : Nat :=
  (List.range 16).foldl (fun c k => (f.fma (imageElem a w (w * (16 * i + k))) (imageElem b w (w * (cols * k + j))) c false).1) c

/-- The accumulator after a tile pair: every element from its old value (R164, R172). -/
def accumulate (f : Fmt) (a b sc : Nat) (bitmap : Word) (z : BitVec 32768) : BitVec 32768 :=
  let n := z.toNat
  let square (cell : Nat → Nat → Nat → Nat) : BitVec 32768 :=
    BitVec.ofNat 32768 (imageOf 4 ((List.range 1024).map fun e => cell (e / 32) (e % 32) (imageElem n 4 (4 * e))))
  match f with
  | .mk8 => square (mk8Cell a b sc bitmap)
  | .bf16 => square (bf16Cell a b bitmap)
  | .i8 => square (i8Cell a b bitmap)
  | .f32 => square (fusedCell f32 4 32 a b)
  | .f64 =>
    let low := imageOf 8 ((List.range 256).map fun e => fusedCell f64 8 16 a b (e / 16) (e % 16) (imageElem n 8 (8 * e)))
    BitVec.ofNat 32768 (n / 2 ^ 16384 * 2 ^ 16384 + low)

/-! Images (R174). -/

/-- Bytes of an image. -/
def imageBytes : Fmt → Nat
  | .mk8 => 1024 | .bf16 => 2048 | .f32 => 4096 | .i8 => 4096 | .f64 => 2048

/-- The accumulator that `mldz` makes of an image. -/
def loadImage (f : Fmt) (img : Nat) (z : BitVec 32768) : BitVec 32768 :=
  match f with
  | .mk8 => BitVec.ofNat 32768 (imageOf 4 ((List.range 1024).map fun e => mk8Decode (imageElem img 1 e)))
  | .bf16 => BitVec.ofNat 32768 (imageOf 4 ((List.range 1024).map fun e => imageElem img 2 (2 * e) * 2 ^ 16))
  | .f32 | .i8 => BitVec.ofNat 32768 img
  | .f64 => BitVec.ofNat 32768 (z.toNat / 2 ^ 16384 * 2 ^ 16384 + img % 2 ^ 16384)

/-- The image that `mstz` makes of an accumulator. -/
def storeImage (f : Fmt) (z : BitVec 32768) : Nat :=
  let n := z.toNat
  match f with
  | .mk8 => imageOf 1 ((List.range 1024).map fun e => (f32.toMk8 (imageElem n 4 (4 * e))).1)
  | .bf16 => imageOf 2 ((List.range 1024).map fun e => (f32.convert bf16 .rne (imageElem n 4 (4 * e))).1)
  | .f32 | .i8 => n
  | .f64 => n % 2 ^ 16384

end Sys2Proof.Machine
end

