-- ==== Sys2Proof/Machine/Matrix.lean ====
section
/-!
DEFINITION. The matrix engine and the ring forms (R164 to R174, R338).
-/
namespace Sys2Proof.Machine

/-! Accumulators. -/

def Core.ring (q : Core) (g : BitVec 3) : Option Ring := q.rings[g.toNat]'(g.isLt)
def Core.setRing (q : Core) (g : BitVec 3) (r : Ring) : Core := { q with rings := q.rings.set g.toNat (some r) g.isLt }
def Core.owner (q : Core) (z : BitVec 2) : Option (SlotId × BitVec 16) := q.zaOwner[z.toNat]'(z.isLt)
def Core.acc (q : Core) (z : BitVec 2) : BitVec 32768 := q.za[z.toNat]'(z.isLt)
def Core.setAcc (q : Core) (z : BitVec 2) (v : BitVec 32768) : Core := { q with za := q.za.set z.toNat v z.isLt }
def Core.queuedOn (q : Core) (z : BitVec 2) : Bool := someOf (fun o : MatrixOp => o.z = z) q.matrix

/-- The acting slot owns an accumulator (R165). -/
def State.owns (s : State) (z : BitVec 2) : Bool := s.myCore.owner z = some (s.cur.slot, s.me.inc)

/-- Only the owner may name an accumulator (R165, R338). -/
def ownedOr (i : Instr) (z : BitVec 2) (sub : BitVec 8) : M Unit := do
  if !(← get).owns z then trap causeMatrix (xvalUnit i (z.setWidth 8) sub)

/-- A matrix form issues only while the queue has room (R171). -/
def queueOp (o : MatrixForm) (z : BitVec 2) : M Unit :=
  modify fun s => s.setMyCore { s.myCore with matrix := s.myCore.matrix ++ [{ slot := s.cur.slot, z := z, form := o }] }

def needQueue : M Unit := do
  if (← get).myCore.matrix.length ≥ 8 then engineWait (.matrixQueue [])

/-! `mmac` and `mmacs`. -/

def ringUnit (g : BitVec 3) : BitVec 8 := g.setWidth 8

/-- The rings that a matrix form reads: A, B and, for mk8 with a scale ring named, that ring (R172, R173). -/
def macRings (f : Fmt) (a b : BitVec 3) (mfmt : BitVec 4) : List (BitVec 3) :=
  if f = .mk8 && mfmt.getLsbD 3 then [a, b, mfmt.extractLsb' 0 3] else [a, b]

/-- The least slot size of the n-th ring of a matrix form: a tile, or scales (R166). -/
def leastSize (n : Nat) : Nat := if n < 2 then 2048 else 128

/-- The cause of R338 that a matrix form raises for its rings, lowest subcode first. -/
def ringRefusal (i : Instr) (q : Core) (f : Fmt) (mfmt : BitVec 4) (l : List (BitVec 3)) : Option (BitVec 8 × Word) :=
  let bad (sub : BitVec 8) (g : BitVec 3) : Option (BitVec 8 × Word) := some (causeRing, xvalUnit i (ringUnit g) sub)
  match firstOf (fun g => (q.ring g).isNone) l with
  | some g => bad 1 g
  | none =>
    match firstOf (fun p : BitVec 3 × Nat => match q.ring p.1 with | some r => r.size < leastSize p.2 | none => false) l.zipIdx with
    | some p => bad 2 p.1
    | none =>
      match firstOf (fun p : BitVec 3 × Nat => someOf (fun g => g = p.1) (l.take p.2)) l.zipIdx with
      | some p => bad 3 p.1
      | none => if f = .mk8 && !mfmt.getLsbD 3 then some (causeRing, xvalUnit i 0 4) else none

/-- The head slot leaves the filled range and is held (R170). -/
def Ring.pop (r : Ring) (k : SlotId) (before : Nat) : Ring :=
  { r with head := (r.head + 1) % r.n, filled := r.filled - 1, held := r.held ++ [{ index := r.head, slot := k, before := before }] }

/-- A ring is popped by the acting slot. -/
def popRing (g : BitVec 3) : M Unit :=
  modify fun s =>
    match s.myCore.ring g with
    | some r => s.setMyCore (s.myCore.setRing g (r.pop s.cur.slot s.me.flightNo))
    | none => s

/-- The slot that a form binds at the head of a ring (R171). -/
def headOf (q : Core) (g : BitVec 3) : BitVec 3 × Nat := (g, match q.ring g with | some r => r.head | none => 0)

/-- `mmac` and `mmacs` at issue: the checks of R338, the wait of R171, the slots bound and the pops made (R172). -/
def macBody (i : Instr) (z : BitVec 2) (a b : BitVec 3) (bitmap : Word) (f : Fmt) (pa pb ps : Bool) : M Flow := do
  let s ← get
  let q := s.myCore
  let mfmt := s.me.mfmt
  let l := macRings f a b mfmt
  match ringRefusal i q f mfmt l with
  | some (c, x) => trap c x
  | none => pure ()
  ownedOr i z 1
  if q.matrix.length ≥ 8 || someOf (fun g => match q.ring g with | some r => r.filled = 0 | none => true) l then
    engineWait (.matrixQueue l)
  let sc := if f = .mk8 then some (headOf q (mfmt.extractLsb' 0 3)) else none
  queueOp (.mac f (headOf q a) (headOf q b) sc bitmap) z
  if pa then popRing a
  if pb then popRing b
  if ps then popRing (mfmt.extractLsb' 0 3)
  return .step

def mmacBody (z : BitVec 2) (a b : BitVec 3) (f : Fmt) (pa pb ps : Bool) : M Flow :=
  macBody (.mmac z a b f pa pb ps) z a b 0 f pa pb ps
def mmacsBody (z : BitVec 2) (a b : BitVec 3) (s : BitVec 5) (f : Fmt) (pa pb ps : Bool) : M Flow := do
  macBody (.mmacs z a b s f pa pb ps) z a b (← readX s) f pa pb ps
def mzeroBody (z : BitVec 2) : M Flow := do
  ownedOr (.mzero z) z 1
  needQueue
  queueOp .zero z
  return .step

def execMmac (z : BitVec 2) (a b : BitVec 3) (f : Fmt) (pa pb ps : Bool) (st : State) := run (.mmac z a b f pa pb ps) (mmacBody z a b f pa pb ps) st
def execMmacs (z : BitVec 2) (a b : BitVec 3) (s : BitVec 5) (f : Fmt) (pa pb ps : Bool) (st : State) :=
  run (.mmacs z a b s f pa pb ps) (mmacsBody z a b s f pa pb ps) st
def execMzero (z : BitVec 2) (st : State) := run (.mzero z) (mzeroBody z) st

/-! `mldz` and `mstz` (R174). -/

/-- The addresses of an image's 64-byte blocks. -/
def blockAddrs (va : Word) (n : Nat) : List Word := (List.range (n / 64)).map fun i => va + BitVec.ofNat 64 (64 * i)

/-- An image form waits in `engwait` until the engine has performed it; the engine makes its accesses (R171, R174). -/
def imageBody (i : Instr) (z : BitVec 2) (s : BitVec 5) (op : Word → MatrixForm) : M Flow := do
  ownedOr i z 1
  let va ← readX s
  if !multipleOf 64 va then trap causeAlign va
  needQueue
  queueOp (op va) z
  modMe fun t => t.park .engwait (.engine .image)
  return .stay

def execMldz (s : BitVec 5) (z : BitVec 2) (f : Fmt) (st : State) :=
  run (.mldz s z f) (imageBody (.mldz s z f) z s fun va => .load f va (wordOf (.mldz s z f))) st
def execMstz (s : BitVec 5) (z : BitVec 2) (f : Fmt) (st : State) :=
  run (.mstz s z f) (imageBody (.mstz s z f) z s fun va => .store f va (wordOf (.mstz s z f))) st

/-! The engine performs its oldest operation (R171). -/

/-- The bytes of a ring slot. -/
def Core.slotBytes (q : Core) (p : BitVec 3 × Nat) (n : Nat) : Nat :=
  match q.ring p.1 with
  | some r => q.spadRead (r.base + p.2 * r.size) n
  | none => 0

/-- The offsets of the words among the first `n` bytes of a ring slot that are uncorrectable (R316). -/
def Core.slotBadWords (q : Core) (p : BitVec 3 × Nat) (n : Nat) : List Nat :=
  match q.ring p.1 with
  | some r => keepIf (fun a => NatSet.has a q.spadBad) ((List.range (n / 8)).map fun i => r.base + p.2 * r.size + 8 * i)
  | none => []

def Core.slotBad (q : Core) (p : BitVec 3 × Nat) (n : Nat) : Bool := !(q.slotBadWords p n).isEmpty

/-- Those of an A tile that the engine reads: no word of a skipped block (R28). -/
def Core.tileBadWords (q : Core) (f : Fmt) (bitmap : Word) (p : BitVec 3 × Nat) : List Nat :=
  match q.ring p.1 with
  | some r => keepIf (fun a => !skippedWord f bitmap ((a - (r.base + p.2 * r.size)) / 8)) (q.slotBadWords p 2048)
  | none => []

/-- The first `n` bytes of a ring slot as an operand. An uncorrectable word is not passed on as data (R317), and the spec gives no report
of one that the engine reads: the word is a free value (DESIGN CHOICE, log 2). -/
def Core.operand (q : Core) (fresh : Nat) (p : BitVec 3 × Nat) (n : Nat) : Nat :=
  match q.ring p.1 with
  | some r =>
    if q.slotBad p n then
      imageOf 8 ((List.range (n / 8)).map fun i =>
        let a := r.base + p.2 * r.size + 8 * i
        if NatSet.has a q.spadBad then (Config.freeWord (fresh + i)).toNat else q.spadRead a 8)
    else q.slotBytes p n
  | none => 0

/-- The stores that a slot's run-ahead has buffered (R105). -/
def State.storesOf (s : State) (c : CoreId) (k : SlotId) : List BufferedStore := match s.aheadOf c k with | some a => a.stores | none => []

/-- The image at a list of blocks, as the slot sees it. -/
def State.imageAt (s : State) (c : CoreId) (k : SlotId) (l : List Loc) : Nat :=
  imageOf 64 (l.map fun b => overlay b.place 64 (s.readLoc b.place 64) (s.storesOf c k))

/-- An image form's elements are narrower than a word, so that each store covers part of one (R174, R318). -/
def narrowElements (f : Fmt) : Bool := f ≠ .f64

/-- The places of an image's blocks from an address on, for slot `t` with its buffered stores: every element is examined in ascending
order, and the first that meets a condition stops the form (R174, R307). -/
def State.imageBlocks (s : State) (c : CoreId) (t : Slot) (stores : List BufferedStore) (acc : Access) (words : Bool) :
    List Word → Except Stop (List Loc)
  | [] => .ok []
  | va :: r =>
    match s.locate c t va 64 acc with
    | .error e => .error e
    | .ok l =>
      match (if words then s.badWord l.place va 64 stores else none) with
      | some w => .error (.trap causeUncorrectable w)
      | none =>
        match s.imageBlocks c t stores acc words r with
        | .ok ls => .ok (l :: ls)
        | .error e => .error e

/-- Eight whole words of a block stored. -/
def State.storeBlock (s : State) (l : Loc) (v : Nat) : State := s.storeLoc l.place 64 v

/-- The image stored block by block, or buffered by a run-ahead (R105); `narrow` says that its elements are narrower than a word. -/
def State.storeBlocks (s : State) (c : CoreId) (k : SlotId) (va : Word) (img : Nat) (narrow : Bool) : List Loc → State
  | [] => s
  | b :: r =>
    let v := img % 2 ^ 512
    let s :=
      match s.aheadOf c k with
      | some a =>
        let st : BufferedStore := { va := va, loc := b, bytes := bytesOfNat v 64, narrow := narrow, covers := false, insn := 0 }
        s.modCore c fun q => { q with ahead := some (a.buffer st) }
      | none => (s.noteStageTwo b |>.storeBlock b v |>.touch c b .store 64).1
    s.storeBlocks c k (va + 64) (img / 2 ^ 512) narrow r

/-- The slot of an image form goes on. -/
def State.imageDone (s : State) (c : CoreId) (k : SlotId) : State := s.modSlot c k fun t => { t.unpark with pc := t.pc + 4 }

/-- An image form that the engine cannot perform has no effect: its slot takes what stopped it, and issues the form again where that is a
wait (R174, R307). A cause that the slot already has to take comes first (R300). -/
def State.stopImage (s : State) (c : CoreId) (k : SlotId) (insn : BitVec 32) (e : Stop) : Host.Outcome State Fault Refusal :=
  match e with
  | .trap cause xval => .next (s.modSlot c k fun t => { t.unpark with cause := some (t.cause.getD (cause, xval)) })
  | e => s.settle c k insn e

/-- A store of a run-ahead that is to be issued again is not counted (R105). -/
def Core.uncountStore (q : Core) : Core := { q with ahead := q.ahead.map fun a => { a with storeCount := a.storeCount - 1 } }

/-- The engine performs an image form for slot `k`, unless that waits for it no more. -/
def State.performImage (s : State) (c : CoreId) (o : MatrixOp) (f : Fmt) (va : Word) (acc : Access) (insn : BitVec 32)
    (effect : State → List Loc → State) : Host.Outcome State Fault Refusal :=
  if (s.slot c o.slot).wait ≠ .engine .image then .next s
  else
    match s.imageBlocks c (s.slot c o.slot) (s.storesOf c o.slot) acc (acc = .load || narrowElements f) (blockAddrs va (imageBytes f)) with
    | .ok l => .next ((effect s l).imageDone c o.slot)
    | .error e =>
      let s := if writesTo acc && (s.aheadOf c o.slot).isSome then s.modCore c Core.uncountStore else s
      s.stopImage c o.slot insn e

/-- The effect of an operation when the engine reaches it (R171, R172, R174). -/
def State.performOp (s : State) (c : CoreId) (o : MatrixOp) : Host.Outcome State Fault Refusal :=
  let q := s.core c
  match o.form with
  | .mac f a b sc bitmap =>
    let scale := match sc with | some p => q.operand (s.fresh + 512) p 128 | none => 0
    let z := accumulate f (q.operand s.fresh a 2048) (q.operand (s.fresh + 256) b 2048) scale bitmap (q.acc o.z)
    let bad := q.tileBadWords f bitmap a ++ q.slotBadWords b 2048 ++ (match sc with | some p => q.slotBadWords p 128 | none => [])
    let s := if bad.isEmpty then s else { s with fresh := s.fresh + 768 }
    .next (bad.foldl (fun s n => s.logBadAt c n) (s.setCore c (q.setAcc o.z z)))
  | .zero => .next (s.setCore c (q.setAcc o.z 0))
  | .load f va insn =>
    s.performImage c o f va .load insn fun s l =>
      let s := s.modCore c fun q => q.setAcc o.z (loadImage f (s.imageAt c o.slot l) (q.acc o.z))
      l.foldl (fun s b => ((s.noteStageTwo b).touch c b .load 64).1) s
  | .store f va insn =>
    s.performImage c o f va .store insn fun s l => s.storeBlocks c o.slot va (storeImage f (q.acc o.z)) (narrowElements f) l

/-- The matrix engine of core `args.core` completes its oldest operation (R171). -/
def execMatrixOpComplete (s : State) : Host.Outcome State Fault Refusal :=
  let c := s.args.core
  match (s.core c).matrix with
  | [] => .next s
  | o :: r => (s.modCore c fun q => { q with matrix := r }).performOp c o

/-! Ownership (R165). -/

/-- A slot takes an accumulator; zero bits if its previous owner was of another tenant. -/
def Core.take (q : Core) (z : BitVec 2) (k : SlotId) (t : Slot) : Core :=
  let q :=
    match q.zaTenant[z.toNat]'(z.isLt) with
    | some prev => if prev = t.tenant then q else q.setAcc z 0
    | none => q
  { q with
    zaOwner := q.zaOwner.set z.toNat (some (k, t.inc)) z.isLt
    zaTenant := q.zaTenant.set z.toNat (some t.tenant) z.isLt
    zaWaiters := q.zaWaiters.set z.toNat (keepIf (fun j => j ≠ k) (q.zaWaiters[z.toNat]'(z.isLt))) z.isLt }

/-- The slot waits for an accumulator, in arrival order. -/
def Core.queueFor (q : Core) (z : BitVec 2) (k : SlotId) : Core :=
  let l := q.zaWaiters[z.toNat]'(z.isLt)
  if someOf (fun j => j = k) l then q else { q with zaWaiters := q.zaWaiters.set z.toNat (l ++ [k]) z.isLt }

def execMacq (z : BitVec 2) (st : State) :=
  run (.macq z) (do
    let s ← get
    let q := s.myCore
    if s.owns z then return .step
    let first := match (q.zaWaiters[z.toNat]'(z.isLt)) with | [] => true | k :: _ => k = s.cur.slot
    if (q.owner z).isNone && first then
      set (s.setMyCore (q.take z s.cur.slot s.me))
      return .step
    else
      set ((s.setMyCore (q.queueFor z s.cur.slot)).modMe fun t => t.park .engwait (.engine (.accumulator z)))
      return .stay) st

def execMrel (z : BitVec 2) (st : State) :=
  run (.mrel z) (do
    ownedOr (.mrel z) z 2
    if (← get).myCore.queuedOn z then engineWait (.release z)
    modMyCore fun q => { q with zaOwner := q.zaOwner.set z.toNat none z.isLt }
    return .step) st

/-- `mscl` names the scale ring (R173). -/
def execMscl (a : BitVec 3) (st : State) :=
  run (.mscl a) (do
    modMe fun t => { t with mfmt := 1#1 ++ a }
    return .step) st

/-! Rings (R166 to R170). -/

/-- Fields of a RING object (R166). -/
def ringBase (e : BitVec 512) : Nat := field e 511 492
def ringSlots (e : BitVec 512) : Nat := field e 491 484 + 1
def ringShift (e : BitVec 512) : Nat := field e 483 480

/-- The fields of a RING object keep their layout (R166, R231). -/
def ringLayoutOk (e : BitVec 512) : Bool :=
  field e 479 7 = 0 && ringShift e ≤ 7 && field e 491 484 ≤ 127 && ringBase e % 128 = 0

def execRgset (g : BitVec 3) (x : BitVec 5) (st : State) :=
  run (.rgset g x) (do
    let idx : BitVec 16 := (← readX x).extractLsb' 0 16
    let e ← useObject (.rgset g x) idx 3
    if !ringLayoutOk e then trap causeObject (xvalObject (.rgset g x) idx 7)
    let size := 128 * 2 ^ ringShift e
    let q := (← get).myCore
    if ringBase e + ringSlots e * size > q.dequeBase then trap causeRing (xvalUnit (.rgset g x) (ringUnit g) 5)
    let busy := match q.ring g with | some r => !r.held.isEmpty | none => false
    if busy || someOf (fun o => o.reads g) q.matrix then engineWait (.ringQuiet g)
    modMyCore fun q => q.setRing g { base := ringBase e, n := ringSlots e, size := size, head := 0, tail := 0, filled := 0, held := [] }
    return .step) st

/-- A ring form on a ring that is unset (R338). -/
def setRingOr (i : Instr) (g : BitVec 3) : M Ring := do
  match (← get).myCore.ring g with
  | some r => return r
  | none => trap causeRing (xvalUnit i (ringUnit g) 1)

def rgwfBody (g : BitVec 3) : M Flow := do
  let r ← setRingOr (.rgwf g) g
  if r.filled = 0 then engineWait (.ringFilled g)
  return .step

def rgweBody (g : BitVec 3) : M Flow := do
  let r ← setRingOr (.rgwe g) g
  if r.free = 0 then engineWait (.ringFree g)
  return .step

def rghdBody (g : BitVec 3) : M Flow := do
  let r ← setRingOr (.rghd g) g
  if r.filled = 0 then engineWait (.ringFilled g)
  popRing g
  return .step

/-- The tail slot becomes filled (R169). -/
def Ring.push (r : Ring) : Ring := { r with tail := (r.tail + 1) % r.n, filled := r.filled + 1 }

def rgtlBody (g : BitVec 3) : M Flow := do
  let r ← setRingOr (.rgtl g) g
  if r.free = 0 then engineWait (.ringFree g)
  modMyCore fun q => q.setRing g r.push
  return .step

def execRgwf (g : BitVec 3) (st : State) := run (.rgwf g) (rgwfBody g) st
def execRgwe (g : BitVec 3) (st : State) := run (.rgwe g) (rgweBody g) st
def execRghd (g : BitVec 3) (st : State) := run (.rghd g) (rghdBody g) st
/-- Every earlier store of the slot is performed when it issues (R170; DEDUCED, log 4). -/
def execRgtl (g : BitVec 3) (st : State) := run (.rgtl g) (rgtlBody g) st

/-- The word of R167. -/
def Ring.word (r : Ring) : Word :=
  0#12 ++ BitVec.ofNat 20 (r.base + r.tail * r.size) ++ BitVec.ofNat 8 r.held.length ++ BitVec.ofNat 8 r.filled ++ BitVec.ofNat 8 r.tail ++ BitVec.ofNat 8 r.head

def execRgrd (d : BitVec 5) (g : BitVec 3) (st : State) :=
  run (.rgrd d g) (do
    let r ← setRingOr (.rgrd d g) g
    writeX d r.word
    return .step) st

end Sys2Proof.Machine
end

