-- ==== Sys2Proof/Machine/Repeat.lean ====
section
/-!
DEFINITION. The repetition buffer and run-ahead (R105, R175 to R177, R299, R300, R338, R339, R356).
-/
namespace Sys2Proof.Machine

def modRep (f : RepBuffer → RepBuffer) : M Unit := modMyCore fun q => { q with rep := f q.rep }

/-! Recording. -/

/-- `rpbeg` takes the buffer, or waits for it in arrival order; a holder starts afresh (R175, R338). -/
def execRpbeg (st : State) :=
  run .rpbeg (do
    let s ← get
    let b := s.myCore.rep
    let k := s.cur.slot
    let first := match b.waiters with | [] => true | j :: _ => j = k
    if b.holder = some k || (b.holder.isNone && first) then
      modRep fun b => { RepBuffer.free with holder := some k, phase := .recording, waiters := keepIf (fun j => j ≠ k) b.waiters }
      return .step
    else
      modRep fun b => { b with waiters := if someOf (fun j => j = k) b.waiters then b.waiters else b.waiters ++ [k] }
      modMe fun t => t.park .engwait (.engine .buffer)
      return .stay) st

/-- `rpend` ends the recording (R175, R338). -/
def execRpend (st : State) :=
  run .rpend (do
    let s ← get
    let b := s.myCore.rep
    if !b.heldBy s.cur.slot .recording then trap causeRing (xvalUnit .rpend 0 6)
    if b.words.isEmpty then trap causeRing (xvalUnit .rpend 0 8)
    modRep fun b => { b with phase := .ended }
    return .step) st

/-! Starting and continuing a sequence. -/

/-- What `rpgo` or `rpgoa` finds: nothing to run, so that the buffer is released, or a sequence that runs from here (R176, R299). A buffer
kept as finished by a run-ahead that trapped completes at once (R300); one of a run-ahead not yet joined is no ended recording (R338). -/
def beginSequence (i : Instr) (x : BitVec 5) (stride : BitVec 4) : M Bool := do
  let s ← get
  let b := s.myCore.rep
  let k := s.cur.slot
  if b.heldBy k .ended then
    let count : BitVec 32 := (s.me.getX x).extractLsb' 0 32
    if count = 0 then
      modify fun s => s.releaseRep s.cur.core
      return false
    else
      modRep fun b => { b with phase := .running, count := count, stride := stride, iter := 0, pos := 0, start := s.me.pc }
      return true
  else if b.heldBy k .suspended then
    if b.iter ≥ b.count.toNat then
      modify fun s => s.releaseRep s.cur.core
      return false
    else
      modRep fun b => { b with phase := .running, start := s.me.pc }
      return true
  else if b.heldBy k .finished && (s.aheadOf s.cur.core k).isNone then
    modify fun s => s.releaseRep s.cur.core
    return false
  else trap causeRing (xvalUnit i 0 6)

/-- The checkpoint of a slot's registers (R177). -/
def Slot.checkpoint (t : Slot) (k : SlotId) : RunAhead :=
  { slot := k, x := t.x, v := t.v, m := t.m, lb := t.lb, fflags := t.fflags, stores := [], storeCount := 0, insn := 0, seqFlags := 0 }

/-- `rpgo`: the slot waits in `engwait` until the sequence ends (R176). -/
def execRpgo (x : BitVec 5) (stride : BitVec 4) (st : State) :=
  run (.rpgo x stride) (do
    if ← beginSequence (.rpgo x stride) x stride then
      modMe fun t => t.park .engwait (.engine .sequence)
      return .stay
    else return .step) st

/-- `rpgoa`: the slot's registers are checkpointed and it stays in `run` (R177). -/
def execRpgoa (x : BitVec 5) (stride : BitVec 4) (st : State) :=
  run (.rpgoa x stride) (do
    if ← beginSequence (.rpgoa x stride) x stride then
      modify fun s => s.setMyCore { s.myCore with ahead := some (s.me.checkpoint s.cur.slot) }
    return .step) st

/-- `rpjoin` has joined before it issues; it does nothing more (R105, R177). -/
def execRpjoin (st : State) := run .rpjoin (return .step) st

/-! The buffer issues (R176). -/

/-- The effects of the forms that a recording may hold (R175). -/
def bodyOf : Instr → M Flow
  | .mmac z a b f pa pb ps => mmacBody z a b f pa pb ps
  | .mmacs z a b s f pa pb ps => mmacsBody z a b s f pa pb ps
  | .mzero z => mzeroBody z
  | .rghd g => rghdBody g
  | .rgtl g => rgtlBody g
  | .rgwf g => rgwfBody g
  | .rgwe g => rgweBody g
  | .addi d s i => unary d s fun a => a + sext i
  | .vld d s t m => vldBody d s t m
  | .vlds d s g t m => vldsBody d s g t m
  | .vldx d s v t m => vldxBody d s v t m
  | .vst d s t m => vstBody d s t m
  | .vsts d s g t m => vstsBody d s g t m
  | .vstx d s v t m => vstxBody d s v t m
  | .vadd d a b t m => arithBody .add d a b t m
  | .vsub d a b t m => arithBody .sub d a b t m
  | .vmul d a b t m => arithBody .mul d a b t m
  | .vdiv d a b t m => arithBody .div d a b t m
  | .vmin d a b t m => arithBody .min d a b t m
  | .vmax d a b t m => arithBody .max d a b t m
  | .vfma d a b t m => fmaBody false d a b t m
  | .vfms d a b t m => fmaBody true d a b t m
  | .vand d a b t m => logicBody .and d a b t m
  | .vor d a b t m => logicBody .or d a b t m
  | .vxor d a b t m => logicBody .xor d a b t m
  | .vshl d a b t m => shiftBody .left d a b t m
  | .vshr d a b t m => shiftBody .right d a b t m
  | .vsra d a b t m => shiftBody .arith d a b t m
  | .vcmp c n a b t m => vcmpBody c n a b t m
  | .vsel d a b t k => vselBody d a b t k
  | .vperm d a b t m => vpermBody d a b t m
  | .vslide d a g t m => vslideBody d a g t m
  | .vabs d a t m => vabsBody d a t m
  | .vneg d a t m => vnegBody d a t m
  | .vsqrt d a t m => vsqrtBody d a t m
  | .vbcast d s t m => vbcastBody d s t m
  | .vcvt d a s t r m => vcvtBody d a s t r m
  | .mand d a b => do maskResult d ((← readM a) &&& (← readM b))
  | .mor d a b => do maskResult d ((← readM a) ||| (← readM b))
  | .mnot d a => do maskResult d (~~~(← readM a))
  | _ => return .stay

/-- An instruction issued by the buffer: checked again at steps 3 to 10 of R331, with the slot's registers and level (R339). -/
def performBuffered (i : Instr) : M Unit := do
  match refusal i (← get) with
  | some (c, x) => trap c x
  | none => pure ()
  waitRegisters i
  let _ ← bodyOf i

/-- The instruction that the buffer issues next, renamed. -/
def RepBuffer.next (b : RepBuffer) : Option Instr := (b.words[b.pos]?).map fun i => stagger b.iter b.stride i

/-- The place after one more instruction. -/
def RepBuffer.forward (b : RepBuffer) : RepBuffer :=
  if b.pos + 1 < b.words.length then { b with pos := b.pos + 1, heldSince := none }
  else { b with pos := 0, iter := b.iter + 1, heldSince := none }

/-- The sequence has ended: `rpgo`'s slot goes on; under `rpgoa` the buffer is kept as finished until the join (R105, R176). -/
def State.endSequence (s : State) (c : CoreId) (k : SlotId) : State :=
  if (s.aheadOf c k).isSome then s.modCore c fun q => { q with rep := { q.rep with phase := .finished } }
  else (s.releaseRep c).modSlot c k fun t => { t.unpark with pc := t.pc + 4 }

/-- The sequence stops at (t, q); the slot is to take a cause, the first in program order. One whose accumulator image is still queued
waits for it first (R171, R299, R300). -/
def State.suspendWith (s : State) (c : CoreId) (k : SlotId) (cause : BitVec 8) (xval : Word) : State :=
  (s.modCore c fun q => { q with rep := { q.rep with phase := .suspended, heldSince := none } }).modSlot c k fun t =>
    { (if t.wait = .engine .image then t else t.unpark) with cause := some (cause, xval) }

/-- A slot's run-ahead is given up for a translation wait at its `rpgoa`; with it goes a cause that the run-ahead had raised (R356). -/
def State.waitAtStart (s : State) (c : CoreId) (k : SlotId) (insn : BitVec 32) (f : FaultInfo) : State :=
  let s := ((s.rollBack c k).modCore c fun q => q.leaveQueues k).modSlot c k fun t => { t with cause := none, earlier := none }
  s.translationWait c k insn f

/-- A translation wait of the sequence: the slot, rolled back, waits with its pc at the `rpgo` or `rpgoa` (R356). While its accumulator
image is still queued, the buffer stalls (R171, R176). -/
def State.suspendWait (s : State) (c : CoreId) (k : SlotId) (insn : BitVec 32) (f : FaultInfo) : State :=
  if (s.slot c k).wait = .engine .image then s
  else (s.modCore c fun q => { q with rep := { q.rep with phase := .suspended, heldSince := none } }).waitAtStart c k insn f

/-- What the buffer's instruction did: its flags go to the slot and to the run-ahead, and the buffer has issued in this cycle (R176, R177). -/
def State.afterBuffered (s : State) (c : CoreId) (k : SlotId) (ahead : Option RunAhead) (old : BitVec 5) : State :=
  let fl := (s.slot c k).fflags
  let s := s.modSlot c k fun t => { t with fflags := old ||| fl }
  let s := s.modCore c fun q => { q with ahead := ahead.map fun a => { a with seqFlags := a.seqFlags ||| fl }, rep := { q.rep.forward with issueAt := s.now + 1 } }
  if (s.core c).rep.iter ≥ (s.core c).rep.count.toNat then s.endSequence c k else s

/-- An access of the buffer's instruction is held no more (R313). -/
def State.endHold (s : State) (c : CoreId) : State := s.modCore c fun q => { q with rep := { q.rep with heldSince := none } }

/-- The state of the core has still to pass to the tenant that it is to serve (R269). -/
def State.corePasses (s : State) (c : CoreId) : Bool :=
  match s.schedulerOf (s.core c).pbase with
  | some d => d.coreWaits c
  | none => false

/-- The buffer halts at its next instruction while its slot is stopped; a run-ahead's sequence ends before its core's state passes to another
tenant (R176, R269). -/
def State.bufferHalted (s : State) (c : CoreId) (k : SlotId) : Bool :=
  match (s.core c).ahead with
  | some _ => (s.slot c k).stopped && !s.corePasses c
  | none => (s.slot c k).stopped || s.leaving c k

/-- The buffer runs and has not issued in this cycle, and its instruction has the vector unit if it needs it: a vector form waits for the
barrel's search of the cycle, and for the next cycle if that issued a vector form (R10, R176). -/
def State.bufferRuns (s : State) (c : CoreId) (k : SlotId) : Bool :=
  let b := (s.core c).rep
  b.phase = .running && b.issueAt ≤ s.now && !s.bufferHalted c k &&
  (match b.next with | some i => !onVectorUnit i || s.vectorFree c | none => true)

/-- The buffer of core `args.core` issues its next instruction for its slot (R176). What it must wait for stalls it alone. -/
def execBufferIssue (s : State) : Host.Outcome State Fault Refusal :=
  let c := s.args.core
  let q := s.core c
  match q.rep.holder, q.rep.next with
  | some k, some i =>
    if !s.bufferRuns c k then .next s
    else
      let old := (s.slot c k).fflags
      let bare := ({ s with cur := { core := c, slot := k } }.modSlot c k fun t => { t with fflags := 0 }).modCore c fun q => { q with ahead := none }
      match (performBuffered i).run bare with
      | .ok _ s' =>
        let s' := s'.afterBuffered c k q.ahead old
        .next (if onVectorUnit i then s'.searched c else s')
      | .error (.trap cause xval) _ => .next (s.suspendWith c k cause xval)
      | .error (.translation f) _ => .next (s.suspendWait c k (wordOf i) f)
      | .error (.park .memwait (.walk va acc)) _ =>
        .next ((s.endHold c).post .pageWalk { core := c, slot := k, word := va, acc := acc, insn := wordOf i, flag := true })
      | .error (.held gpa cause xval) _ =>
        if q.rep.heldSince.isSome && q.rep.heldAt = gpa then .next s
        else
          .next (((s.copyStageTwo (s.slot c k).tenant gpa).modCore c fun q => { q with rep := { q.rep with heldSince := some s.now, heldAt := gpa } }).post
            .secondStageHoldTimeout { core := c, slot := k, word := xval, num := s.now, code := cause.setWidth 16, flag := true } holdLimit)
      | .error (.park _ _) _ => .next (s.endHold c)
      | .error (.badTable gpa xval) _ =>
        .next ((s.suspendWith c k causeUncorrectable xval).modSlot c k fun t => { t with badTable := some (xval, gpa) })
      | .error (.shard _ _ _ _ _) _ => .next s
      | .error (.fault f) _ => .fault f
  | _, _ => .next s

/-! Joining (R105). -/

/-- The places of the buffered stores as translation stands at the join (R105, R314), those before them being `done`; or the one that
is stopped, with what stops it. -/
def State.placeStores (s : State) (c : CoreId) (t : Slot) (done : List BufferedStore) :
    List BufferedStore → Except (BufferedStore × Stop) (List BufferedStore)
  | [] => .ok done
  | st :: r =>
    match s.locate c t st.va st.bytes.length .store with
    | .error e => .error (st, e)
    | .ok l =>
      match (if st.narrow then s.badWord l.place st.va st.bytes.length done else none) with
      | some w => .error (st, .trap causeUncorrectable w)
      | none => s.placeStores c t (done ++ [{ st with loc := l }]) r

/-- A buffered store becomes visible. -/
def State.makeVisible (s : State) (c : CoreId) (st : BufferedStore) : State :=
  let n := st.bytes.length
  (((s.noteStageTwo st.loc).storeLoc st.loc.place n (natOfBytes st.bytes)).touchStore c st.loc n st.covers).1

/-- A join that a buffered store, of the form with word `insn`, cannot pass: none becomes visible. A translation wait is taken at the
`rpgoa`, the run-ahead rolled back as R356 has it, and a cause rolls back when it is taken (R300; DEDUCED, log 57). A walk for the store
is noted as the join's. -/
def State.stopJoin (s : State) (c : CoreId) (k : SlotId) (insn : BitVec 32) (e : Stop) : Host.Outcome State Fault Refusal :=
  match e with
  | .trap cause xval => .next (s.modSlot c k fun t => { t.unpark with cause := some (cause, xval) })
  | .badTable gpa xval => .next (s.modSlot c k fun t => { t.unpark with cause := some (causeUncorrectable, xval), badTable := some (xval, gpa) })
  | .translation f => .next (s.waitAtStart c k insn f)
  | .park .memwait (.walk va acc) => .next (s.walkFor c k va acc insn 1)
  | e => s.settle c k insn e

/-- The slot of core `args.core` that joins: its buffered stores become visible in program order, the checkpoint and the buffer are
released, and it goes on (R105). -/
def execRunaheadJoin (s : State) : Host.Outcome State Fault Refusal :=
  let c := s.args.core
  match (s.core c).ahead with
  | none => .next s
  | some a =>
    if (s.core c).rep.heldBy a.slot .running || (s.slot c a.slot).wait ≠ .engine .join || (s.slot c a.slot).cause.isSome then .next s
    else
      match s.placeStores c (s.slot c a.slot) [] a.stores with
      | .error (st, e) => s.stopJoin c a.slot st.insn e
      | .ok l =>
        let s := l.foldl (fun s st => s.makeVisible c st) s
        .next (((s.modCore c fun q => { q with ahead := none }).releaseRep c).modSlot c a.slot Slot.unpark)

end Sys2Proof.Machine
end

