-- ==== Sys2Proof/Machine/Waiting.lean ====
section
/-!
DEFINITION. How waits end: results, walks, holds at the second stage, wakes and what a `wake` can carry (R66, R67, R76, R87, R229,
R297, R298, R304, R310, R313).
-/
namespace Sys2Proof.Machine

/-! Results (R133). -/

/-- The first flight of a register that waits for no line has landed. -/
def Slot.land (t : Slot) (r : RegName) : Slot :=
  { t with flights := removeFirst (fun f => f.reg = r && f.line.isNone) t.flights }

/-- A slot that waits for the join of a frame goes on behind its `sync` (R103). -/
def State.joined (s : State) (tenant : BitVec 16) (c : CoreId) (k : SlotId) (frame : Word) : State :=
  let t := s.tenantSlot tenant c k
  if t.state = .joinwait && t.wait = .frame frame then s.modTenantSlot tenant c k fun t => { t.unpark with pc := t.pc + 4 } else s

/-- A pending result becomes usable (R133); or, if `args.flag`, what ends a wait comes to a slot whose core had to be powered up for it: a
full/empty service, or the join of the frame at `args.word` if `args.num` is 4 (R103, R145, R304). -/
def execResultUsable (s : State) : Host.Outcome State Fault Refusal :=
  let a := s.args
  if !a.flag then .next (s.modSlot a.core a.slot fun t => t.land a.reg)
  else if a.num = 4 then .next (s.joined a.tenant a.core a.slot a.word)
  else .next (s.complete a.waiter a.word)

/-! Page walks (R66, R67). -/

/-- The leaf as the walker leaves it: A set, and D for a store, when the access goes on (R66). -/
def usedLeaf (p : Level) (pte : Word) (acc : Access) : Word :=
  if pteF pte || rightsFail p pte acc || (writesTo acc && pteCow pte) then pte
  else if writesTo acc then pte ||| 0xC0#64 else pte ||| 0x40#64

/-- A page-table entry's word for coherence: table pages are homed under mode 0 (R70). -/
def State.tableLoc (s : State) (c : CoreId) (tenant : BitVec 16) (a gpa : Nat) : Loc :=
  let line := BitVec.ofNat 33 (gpa / 128)
  { place := .mem a, tag := { tenant := tenant, line := line }, home := s.hashedHome c line }

/-- The entries that a walk reads come through their homes' slices (R66, R70). -/
def State.readTables (s : State) (c : CoreId) (tenant : BitVec 16) (reads : List Nat) : State :=
  reads.foldl (fun s gpa => let l := s.tableLoc c tenant 0 gpa; (s.noteStageTwo l).cacheL2 l.home l.tag) s

/-- A walk that found a leaf: its bits set in memory at system scope, every cached copy of the entry recalled, and the TLB filled (R66,
R67, R197). A granule that the second stage does not let be written is written all the same: R313 has a walk's reads alone refused
(DESIGN CHOICE, log 59). -/
def State.fillFrom (s : State) (c : CoreId) (t : Slot) (va : Word) (acc : Access) (pte : Word) (level a gpa : Nat) : State :=
  let pte' := usedLeaf t.priv pte acc
  let s := if pte' = pte then s else (s.recall (s.tableLoc c t.tenant a gpa)).memWrite a 8 pte'.toNat
  let e : TlbEntry := { tenant := t.tenant, asid := t.asid, page := va.toNat / 2 ^ levelBits level, bits := levelBits level, pte := pte' }
  s.modCore c fun q => { q with tlb := keepIf (fun f => !tlbMatches t.tenant t.asid va f) q.tlb }.tlbFill e

/-- The walk for an access of slot `args.slot`, of its buffer if `args.flag`, or of a store that its join was to make visible if `args.num`
is 1, is done (R66, R105, R317, R356). -/
def State.walkSlot (s : State) : Host.Outcome State Fault Refusal :=
  let a := s.args
  let c := a.core
  let k := a.slot
  let t := s.slot c k
  let mine := if a.flag then (s.core c).rep.heldBy k .running else t.wait = .walk a.word a.acc
  if !mine then .next s
  else
    let found := s.walk t a.word a.acc
    let s := s.readTables c t.tenant (s.walkReads t a.word (field t.xlroot 39 14 * 2 ^ 14) 0 4)
    match found with
    | .leaf pte level at_ gpa =>
      let s := s.fillFrom c t a.word a.acc pte level at_ gpa
      .next (if a.flag then s else s.modSlot c k Slot.unpark)
    | .wait f =>
      if a.flag then .next (s.suspendWait c k a.insn f)
      else if a.num = 1 then .next (s.waitAtStart c k a.insn f)
      else if (s.aheadOf c k).isSome then .next (s.askJoin c k)
      else .next (s.translationWait c k a.insn f)
    | .bad =>
      if a.flag then .next (s.suspendWith c k causeUncorrectable a.word)
      else .next (s.modSlot c k fun t => { t.unpark with cause := some (causeUncorrectable, a.word) })

/-! Second-stage holds (R313). -/

/-- A slot whose access was held issues it again; until it does, the access still counts as one in flight (R311, R313). -/
def Slot.goOn (t : Slot) : Slot := { t with state := .run }

/-- The access held for a slot proceeds once its entry is valid: it is issued again (R313; DEDUCED, log 23). -/
def execSecondStageResume (s : State) : Host.Outcome State Fault Refusal :=
  let c := s.args.core
  let k := s.args.slot
  let t := s.slot c k
  match t.wait with
  | .secondStage gpa _ => .next (if t.state = .memwait && stageTwoValid (s.stageTwo t.tenant gpa) then s.modSlot c k Slot.goOn else s)
  | _ => .next s

/-! Copy channels. -/

def State.modChannel (s : State) (c : CoreId) (ch : BitVec 2) (f : Channel → Channel) : State :=
  s.modCore c fun q => { q with channels := q.channels.set ch.toNat (f (q.channels[ch.toNat]'(ch.isLt))) ch.isLt }

/-- The transfer at the head of a channel changes. -/
def Channel.modHead (h : Channel) (f : Transfer → Transfer) : Channel :=
  match h.queue with
  | [] => h
  | t :: r => { h with queue := f t :: r }

/-! Vacated cores (R273, R274). -/

/-- The forwarding entry of a core for a tenant, while it lasts (R274). -/
def State.forwardingOf (s : State) (c : CoreId) (tenant : BitVec 16) : Option Forwarding :=
  firstOf (fun f => f.tenant = tenant && s.now < f.expires) (s.core c).forwarding

/-- A destination word aimed at another package and core (R274). -/
def retarget (w : Word) (package : BitVec 10) (core : CoreId) : Word := w.extractLsb' 25 39 ++ package ++ core ++ destSlot w

/-! Wakes (R229, R297, R310). -/

/-- The channel that a wake's destination word names, if it names one: bits [43:42] hold ch + 1, which for channel 3 is 0 in two bits
(R229; DEDUCED, log 58). -/
def wakeChannel (w : Word) : Option (BitVec 2) :=
  if destSlot w = forager && !destChk w then some (w.extractLsb' 42 2 - 1) else none

/-- The destination word that names a channel (R229; DEDUCED, log 58). -/
def channelWord (endpoint : BitVec 10) (c : CoreId) (ch : BitVec 2) : Word := 0#20 ++ (ch + 1) ++ 0#17 ++ endpoint ++ c ++ forager

/-! Packets that leave (R275, R348). -/

/-- Cycles of a time at the core clock of 3.3 GHz (R2). -/
def cyclesOfUs (us : Nat) : Nat := us * 3300

/-- Two packets of one stream: packets of one class to one destination (R276). -/
def KeptPacket.follows (p q : KeptPacket) : Bool := p.dest = q.dest && p.cls = q.cls

/-- The last packet before number `n` of a packet's stream that is still kept: its destination takes none before that one, so that those of
a stream are taken in the order sent (R276, R348; DEDUCED, log 38). -/
def State.keptBefore (s : State) (p : KeptPacket) (n : Nat) : Option Nat :=
  (firstOf (fun q : KeptPacket => q.follows p && q.seq < n) s.kept.reverse).map (·.seq)

/-- A packet leaves; its source interface keeps it until it is acknowledged (R348). -/
def State.sendPacket (s : State) (p : KeptPacket) : State :=
  let p := { p with seq := s.fresh, after := s.keptBefore p s.fresh, sent := s.now, resent := false }
  let s' : State := { s with fresh := s.fresh + 1, kept := s.kept ++ [p], outbox := s.outbox ++ [.packet p] }
  s'.post .fabricResendTimeout { num := p.seq } (cyclesOfUs 10000)

/-- A packet to an endpoint, of a class, that carries nothing yet. -/
def barePacket (dest : BitVec 10) (cls : PacketClass) (tenant : BitVec 16) : KeptPacket :=
  { seq := 0, after := none, dest := dest, cls := cls, tenant := tenant, msgs := [], wake := none, answer := none, transfer := none, addr := 0, len := 0,
    data := [], full := [], op := .swap, operand := 0, expected := 0, sent := 0, resent := false }

/-- The kind of message that a wake is (R297, R310). -/
def wakeEvent (w : Word) : Instr :=
  if w.getLsbD 46 then .convert
  else match field w 45 44 with | 0 => .wakeMessage | 1 => .halt | 2 => .slotResume | _ => .stopRequest

/-- A wake message leaves for its core, here or at a peer (R229). -/
def State.sendWake (s : State) (w : Word) (tenant : BitVec 16) : State :=
  if destPackage w = s.endpoint then
    s.post (wakeEvent w) { core := destCore w, slot := destSlot w, word := w, tenant := tenant } 1
  else s.sendPacket { barePacket (destPackage w) .message tenant with wake := some w }

/-- The slot at the incarnation that a wake names, whether its tenant is switched in or not (R229, R270): the tenant it is switched out
with, or none for a slot that stands in its core. -/
def State.findNamed (s : State) (w : Word) (p : Slot → Bool) : Option (Option (BitVec 16)) :=
  let fits (t : Slot) : Bool := t.inc = destInc w && p t
  let out (q : Parked) : Bool := q.core = destCore w && q.slot = destSlot w && fits q.kept
  match firstOf (fun q => out q && q.tenant = s.args.tenant) s.parked with
  | some q => some (some q.tenant)
  | none => if fits (s.slot (destCore w) (destSlot w)) then some none else (firstOf out s.parked).map fun q => some q.tenant

/-- The slot that a wake names changes. -/
def State.modNamed (s : State) (w : Word) (p : Slot → Bool) (f : Slot → Slot) : State :=
  match s.findNamed w p with
  | some (some tenant) => s.modTenantSlot tenant (destCore w) (destSlot w) f
  | some none => s.modSlot (destCore w) (destSlot w) f
  | none => s

/-! What comes in from the fabric (R276, R348, R349). -/

/-- The local tenant that a partition's import table names for a sending endpoint and tenant; of two valid entries for them, the one of
lower number (R276; DESIGN CHOICE, log 69). -/
def State.importOf (s : State) (p : CoreId) (source : BitVec 10) (tenant : BitVec 16) : Option (BitVec 16) :=
  let e (i : Nat) : Word := s.readWord (controlPage p + 4096 + 8 * i)
  let fits (i : Nat) : Bool := (e i).getLsbD 63 && (e i).extractLsb' 48 10 = source && (e i).extractLsb' 32 16 = tenant
  (firstOf fits (List.range 1024)).map fun i => (e i).extractLsb' 0 16

/-- Whether a packet has been received before, and then whether it was taken (R348, R349). -/
def State.receivedAs (s : State) (source : BitVec 10) (cls : PacketClass) (seq : Nat) : Option Bool :=
  (firstOf (fun r => r.1 = source && r.2.1 = cls && r.2.2.1 = seq) s.received).map fun r => r.2.2.2

/-- The packet repeats one that has been received (R348). -/
def State.repeated (s : State) (source : BitVec 10) (cls : PacketClass) (seq : Nat) : Bool := (s.receivedAs source cls seq).isSome

/-- The packet comes over a gap: the one before it in its stream, `args.after`, has not been received. It is not taken, nor acknowledged,
so that its source sends it again behind that one, and R276's order is kept (R348; DEDUCED, log 38). -/
def State.overGap (s : State) (source : BitVec 10) (cls : PacketClass) : Bool :=
  match s.args.after with
  | some n => !s.repeated source cls n
  | none => false

/-- The packet has been received, and taken or refused. -/
def State.noteReceived (s : State) (source : BitVec 10) (cls : PacketClass) (seq : Nat) (ok : Bool) : State :=
  { s with received := s.received ++ [(source, cls, seq, ok)] }

/-- An acknowledgement leaves (R348). -/
def State.sendAck (s : State) (dest : BitVec 10) (cls : PacketClass) (seq : Nat) (ok : Bool) : State :=
  { s with outbox := s.outbox ++ [.ack dest cls seq ok] }

/-- A packet `args.num` of the message class from endpoint `args.endpoint`, for core `c` and sent for `tenant`, is taken for the local tenant
with effect `f`, or refused where no import entry names one; a repeated one is acknowledged again, as it was then (R276, R348, R349). -/
def State.takeFrom (s : State) (c : CoreId) (tenant : BitVec 16) (f : State → BitVec 16 → State) : State :=
  let a := s.args
  match s.receivedAs a.endpoint .message a.num with
  | some ok => s.sendAck a.endpoint .message a.num ok
  | none =>
    if s.overGap a.endpoint .message then s
    else
      match (if (s.core c).plen = 0 then none else s.importOf (s.core c).pbase a.endpoint tenant) with
      | none => (s.noteReceived a.endpoint .message a.num false).sendAck a.endpoint .message a.num false
      | some t => f ((s.noteReceived a.endpoint .message a.num true).sendAck a.endpoint .message a.num true) t

/-! Wakes at their core. -/

/-- A wake's effect at its core, forwarded from a vacated one; one from a peer, if `args.flag`, comes in as any packet does (R274, R276,
R305). -/
def State.deliverWake (s : State) (f : State → State) : State :=
  let a := s.args
  if a.flag then
    s.takeFrom a.core a.tenant fun s t => s.post (wakeEvent a.word) { core := a.core, slot := a.slot, word := a.word, tenant := t }
  else if (s.core a.core).dead then s
  else
    match s.forwardingOf a.core a.tenant with
    | some g => s.sendWake (retarget a.word g.package g.core) a.tenant
    | none => s.arriveAt a.core { kind := wakeEvent a.word, args := a } f

/-- `wake`: a slot in `xlwait` returns to `run`; a stalled channel resumes at its access (R229, R224). -/
def execWakeMessage (s : State) : Host.Outcome State Fault Refusal :=
  let w := s.args.word
  .next (s.deliverWake fun s =>
    match wakeChannel w with
    | some ch => s.modChannel (destCore w) ch fun h => h.modHead fun t => { t with stalled := none }
    | none => s.modNamed w (fun t => t.state = .xlwait) Slot.unpark)

/-- A converted wait: trap 0x14 with the virtual address; a stalled transfer ends with code 1 (R310, R315). -/
def execConvert (s : State) : Host.Outcome State Fault Refusal :=
  let w := s.args.word
  .next (s.deliverWake fun s =>
    match wakeChannel w with
    | some ch => s.modChannel (destCore w) ch fun h => h.modHead fun t =>
        if t.stalled.isSome then { t with stalled := none, bad := some 1 } else t
    | none =>
      s.modNamed w (fun t => t.state = .xlwait) fun t =>
        { t.unpark with cause := some (causeConverted, match t.wait with | .translation va _ => va | _ => 0) })

/-- A slot stops at its instruction boundary (R297, R298). -/
def Slot.stop (t : Slot) (now : Nat) : Slot := if t.stopped then t else { t with stopped := true, stoppedAt := now }

/-- The slot that a wake names stops; the count of one that is switched out has stopped already (R270, R322). -/
def State.stopNamed (s : State) (w : Word) : State :=
  match s.findNamed w fun _ => true with
  | some (some tenant) => s.modTenantSlot tenant (destCore w) (destSlot w) fun t => { t with stopped := true }
  | some none => s.modSlot (destCore w) (destSlot w) fun t => t.stop s.now
  | none => s

def execHalt (s : State) : Host.Outcome State Fault Refusal := .next (s.deliverWake fun s => s.stopNamed s.args.word)

/-- The wait limit that a waiter's stay is counted against: its stage's own, or the slot's (R144, R149, R216). -/
def State.limitOf (s : State) (fewlim : Word) (w : Waiter) : Nat :=
  match w.agent with
  | .stage chain i _ _ => match s.findChain chain with | some h => (h.stage i).fewlim.toNat | none => fewlim.toNat
  | _ => fewlim.toNat

/-- The wait limits of a slot that goes on count from where they stopped, each on its own (R144, R322). -/
def State.shiftLimits (s : State) (c : CoreId) (k : SlotId) (tenant : BitVec 16) (fewlim : Word) (stoppedAt : Nat) : State :=
  let mine (w : Waiter) : Bool := w.tenant = tenant &&
    match w.agent with
    | .slot d j => d = c && j = k
    | .stage _ _ d j => d = c && j = k
    | .channel _ _ => false
  let shifted (w : Waiter) : Waiter := if mine w then { w with since := w.since + (s.now - stoppedAt) } else w
  let s := { s with waiters := s.waiters.map shifted }
  (keepIf mine s.waiters).foldl (fun s w =>
    if s.limitOf fewlim w = 0 then s
    else s.post .waitLimit { core := c, slot := k, num := w.since, word := w.va, tenant := w.tenant } (w.since + s.limitOf fewlim w + 1 - s.now)) s

/-- A stopped slot resumes in the state it now holds (R87, R297). -/
def State.resumeSlot (s : State) (c : CoreId) (k : SlotId) : State :=
  let t := s.slot c k
  if t.stopped then (s.setSlot c k { t with stopped := false }).shiftLimits c k t.tenant t.fewlim t.stoppedAt else s

/-- A stopped slot resumes; one whose tenant is switched out does so in its saved context (R270, R297). -/
def execSlotResume (s : State) : Host.Outcome State Fault Refusal :=
  let w := s.args.word
  .next (s.deliverWake fun s =>
    match s.findNamed w fun t => t.stopped with
    | some (some tenant) => s.modTenantSlot tenant (destCore w) (destSlot w) fun t => { t with stopped := false }
    | some none => s.resumeSlot (destCore w) (destSlot w)
    | none => s)

def execStopRequest (s : State) : Host.Outcome State Fault Refusal :=
  let w := s.args.word
  .next (s.deliverWake fun s => s.modNamed w (fun _ => true) fun t => { t with pendStop := true })

end Sys2Proof.Machine
end

