-- ==== Sys2Proof/Machine/Controller.lean ====
section
/-!
DEFINITION. The management controller: log and notices, the boot flash, the power-on sequence and management requests (R279 to R288,
R295, R351 to R354).
-/
namespace Sys2Proof.Machine

/-! Notices (R295). -/

/-- Cause 3 becomes pending at the notice slot, if it is at its incarnation; one that finds the cause pending is kept (R295). -/
def execManagementNotice (s : State) : Host.Outcome State Fault Refusal :=
  match s.controller.bootBlock with
  | none => .next s
  | some a =>
    let w := s.readWord (a + 32)
    let c := destCore w
    let k := destSlot w
    let n : BitVec 16 × BitVec 12 := (s.args.code, BitVec.ofNat 12 s.args.num)
    if (s.slot c k).inc ≠ destInc w then .next s
    else if (s.slot c k).pendNotice.isSome then .next { s with controller := { s.controller with notices := s.controller.notices ++ [n] } }
    else .next (s.modSlot c k fun t => { t with pendNotice := some (noticeWord n) })

/-! Images (R279 to R281). -/

def Controller.flashNat (k : Controller) (a n : Nat) : Nat := Cells.readNat k.flash a n
def Controller.flashBytes (k : Controller) (a n : Nat) : List Byte := (upFrom a n).map fun i => Cells.read i k.flash

/-- Bytes of a bank, and of the keys and signatures that follow a body (R279, R280). -/
def bankBytes : Nat := 0x1000000
def trailerBytes : Nat := 388 + 384 + 48 + 16224

/-- An image in the flash: its kind and where it starts. -/
structure Image where
  kind : Nat
  at_ : Nat
  deriving DecidableEq, Repr

def Image.body (k : Controller) (i : Image) : Nat := k.flashNat (i.at_ + 12) 4
def Image.svn (k : Controller) (i : Image) : BitVec 32 := BitVec.ofNat 32 (k.flashNat (i.at_ + 8) 4)
def Image.load (k : Controller) (i : Image) : Nat := k.flashNat (i.at_ + 16) 8
def Image.entry (k : Controller) (i : Image) : Nat := k.flashNat (i.at_ + 24) 8
def Image.stop (k : Controller) (i : Image) : Nat := i.at_ + 128 + i.body k + trailerBytes
def Image.message (k : Controller) (i : Image) : List Byte := k.flashBytes i.at_ (128 + i.body k)

/-- The three images of a bank, each from the first 4 KiB boundary after the one before (R279; DESIGN CHOICE, log 70). -/
def Controller.images (k : Controller) (base : Nat) : Image × Image × Image :=
  let up (n : Nat) : Nat := (n + 4095) / 4096 * 4096
  let a : Image := { kind := 1, at_ := base }
  let b : Image := { kind := 2, at_ := up (a.stop k) }
  (a, b, { kind := 3, at_ := up (b.stop k) })

/-- The layout of an image holds (R280). -/
def Image.layoutOk (k : Controller) (base : Nat) (i : Image) : Bool :=
  k.flashNat i.at_ 4 = 0x4D494A50 && k.flashNat (i.at_ + 4) 4 = i.kind && i.body k % 16 = 0 && k.flashNat (i.at_ + 32) 96 = 0 &&
  i.entry k < i.body k && (if i.kind = 1 then i.load k = 0 else i.load k + i.body k ≤ physLimit) && i.stop k ≤ base + bankBytes

/-- Why an image is not valid, 0 when it is (R280, R354): 4 layout, 1 signature, 2 key hash, 3 svn. -/
def Image.fault (k : Controller) (base : Nat) (i : Image) : Nat :=
  if !i.layoutOk k base then 4
  else
    let e := i.at_ + 128 + i.body k
    let rsaKey := k.flashBytes e 388
    let slhKey := k.flashBytes (e + 772) 48
    if !rsaVerifies rsaKey (i.message k) (k.flashBytes (e + 388) 384) || !slhVerifies slhKey (i.message k) (k.flashBytes (e + 820) 16224) then 1
    else if sha384 rsaKey ≠ k.rsaHash || sha384 slhKey ≠ k.slhHash then 2
    else if (i.svn k).toNat < ((k.minSvn[i.kind - 1]?).getD 0).toNat then 3
    else 0

def bankBase (b : Bool) : Nat := if b then bankBytes else 0

/-- The first fault of a bank's images. -/
def Controller.bankFault (k : Controller) (b : Bool) : Nat :=
  let (x, y, z) := k.images (bankBase b)
  let f := x.fault k (bankBase b)
  let g := y.fault k (bankBase b)
  if f ≠ 0 then f else if g ≠ 0 then g else z.fault k (bankBase b)

def Controller.svns (k : Controller) (b : Bool) : List (BitVec 32) :=
  let (x, y, z) := k.images (bankBase b)
  [x.svn k, y.svn k, z.svn k]

def svnSum (l : List (BitVec 32)) : Nat := l.foldl (fun n v => n + v.toNat) 0

/-- The bank used at power-on: valid, with the higher sum, A on a tie (R281). `false` is A. -/
def Controller.choose (k : Controller) : Option Bool :=
  match k.bankFault false == 0, k.bankFault true == 0 with
  | true, true => some (svnSum (k.svns false) < svnSum (k.svns true))
  | true, false => some false
  | false, true => some true
  | false, false => none

/-! Measurements (R283). -/

def Controller.extend (k : Controller) (i : Fin 4) (message : List Byte) : Controller :=
  { k with measures := k.measures.set i.val (sha384 (digestBytes k.measures[i] ++ digestBytes (sha384 message))) i.isLt }

/-- The feature word of the PRJ-2048 (R273). -/
def featureWord : Nat := 0x1F

/-- The configuration record (R283). -/
def Controller.record (k : Controller) (b : Bool) : List Byte :=
  bytesOfNat featureWord 8 ++ k.minSvn.toList.flatMap (fun v => bytesOfNat v.toNat 4) ++ bytesOfNat b.toNat 4 ++ List.replicate 40 0

/-! The power-on sequence (R282). -/

/-- Bytes written to memory from an address, the words they cover full. -/
def State.writeBytes (s : State) (a : Nat) : List Byte → State
  | [] => s
  | b :: r => ((s.memWrite a 1 b.toNat).memSetFull a true).writeBytes (a + 1) r

/-- The slot that the boot launch starts (R90, R282). -/
def bootSlot : SlotId := 0

/-- Steps 4 to 6 from a chosen bank: images copied and measured, the boot block written, the reference started, the hypervisor
launched, with 0 as its sender word and payload word 2 (R282; DESIGN CHOICE, logs 6, 24 and 71). -/
def State.bootFrom (s : State) (b : Bool) (reference : Word) : State :=
  let k := s.controller
  let (x, y, z) := k.images (bankBase b)
  let block := z.load k + z.body k
  let s := s.writeBytes (y.load k) (k.flashBytes (y.at_ + 128) (y.body k))
  let s := s.writeBytes (z.load k) (k.flashBytes (z.at_ + 128) (z.body k))
  let s := s.writeWords block [BitVec.ofNat 64 (z.load k), BitVec.ofNat 64 (z.entry k), zext s.endpoint, BitVec.ofNat 64 featureWord,
    slotIdWord s.endpoint 0 bootSlot, 0, 0, 0]
  let k := (((k.extend 0 (x.message k)).extend 1 (y.message k)).extend 2 (z.message k)).extend 3 (k.record b)
  let s := { s with
    controller := { k with bank := some b, started := true, bootBlock := some block, slew := 0, slewAt := s.now, timeFrac := 0 },
    timeRef := reference }
  let launch : Message :=
    { dest := slotIdWord s.endpoint 0 0, sender := 0, tenant := hvTenant, cls := 0, origin := .controller,
      payload := #v[BitVec.ofNat 64 (y.load k + y.entry k), BitVec.ofNat 64 block, 0, 2], body := .plain }
  s.sendLocal 0 launch

/-- The controller as the next power-on finds it: flash, fuses, identity lists and sensors are what lasts (R281, R352; DESIGN CHOICE, log 3). -/
def Controller.next (k : Controller) : Controller :=
  { Controller.powerOn with
    flash := k.flash, minSvn := k.minSvn, rsaHash := k.rsaHash, slhHash := k.slhHash, allowed := k.allowed, sensors := k.sensors,
    sampledAt := k.sampledAt }

/-- The package as the next power-on finds it: as after reset, but for what lasts in the controller and the model's own fields (R282, R352). -/
def State.powerCycle (s : State) : State :=
  { State.reset with
    endpoint := s.endpoint, controller := s.controller.next, outbox := s.outbox, now := s.now, fresh := s.fresh, schedule := s.schedule,
    agenda := [], args := s.args, cur := s.cur }

/-- While the package is held in reset, the board may have programmed flash bytes: `args.data` from `args.num` on (R352). -/
def Controller.program (k : Controller) (a : Nat) (data : List Byte) : Controller :=
  { k with flash := Cells.writeNat (natOfBytes data) a k.flash data.length }

/-- Power-on, the first or a later one: the controller chooses a bank and starts up. `args.word` is the reference time agreed with the
domain's controllers (R281, R282, R351, R352). -/
def execPowerOn (s : State) : Host.Outcome State Fault Refusal :=
  let s := if s.controller.started || s.controller.noBank then s.powerCycle else s
  let k := s.controller.program s.args.num s.args.data
  let s := { s with controller := k }
  let f := k.bankFault false
  let g := k.bankFault true
  match k.choose with
  | none =>
    let s := s.logEvent 0x0020 0 (logData [(12, 1, f), (13, 1, g)])
    .next { s with controller := { s.controller with noBank := true } }
  | some b =>
    let s := s.bootFrom b s.args.word
    if f = 0 && g = 0 then .next s
    else .next (s.logEvent 0x0021 0 (logData [(12, 1, b.toNat), (13, 1, if b then f else g)]))

/-! Requests (R284 to R288, R353). -/

/-- The request in a flit (R284). -/
def requestOf (source : BitVec 10) (flit : List Byte) : Request :=
  let field (a n : Nat) : Nat := natOfBytes ((flit.drop a).take n)
  { source := source, code := field 0 2, tag := BitVec.ofNat 16 (field 2 2), arg := BitVec.ofNat 32 (field 4 4),
    nonce := BitVec.ofNat 384 (natOfBytes ((flit.drop 8).take 48).reverse), time := BitVec.ofNat 64 (field 56 8) }

/-- A reply leaves for the requester in class 4: code, tag and status, then its content from byte 8 (R284, R353; DESIGN CHOICE, log 25). -/
def State.reply (s : State) (r : Request) (status : Nat) (content : List Byte) : State :=
  s.sendPacket { barePacket r.source .management 0 with
    data := bytesOfNat r.code 2 ++ bytesOfNat r.tag.toNat 2 ++ bytesOfNat status 4 ++ content }

/-- A request is answered: without a valid bank with status 4; one from an endpoint outside the management list with status 1,
attestation excepted; an unknown code with status 2 (R284, R351, R353). A flit with the code of another row is that row's. -/
def State.answerManagement (s : State) (code : Nat) (f : State → Request → State) (r : Request) : State :=
  if s.controller.noBank then s.reply r 4 []
  else if r.code ≠ 1 && !someOf (fun e => e = r.source) s.controller.allowed then s.reply r 1 []
  else if r.code = 0 || r.code > 5 then s.reply r 2 []
  else if r.code = code then f s r
  else s

/-- A request, the flit `args.data` of endpoint `args.endpoint`: held before start-up has ended, and behind requests that are held; those are
answered in arrival order, each by the move that `args.num` = 1 marks (R282, R284). -/
def State.serveRequest (s : State) (kind : Instr) (code : Nat) (f : State → Request → State) : Host.Outcome State Fault Refusal :=
  let a := s.args
  let k := s.controller
  let r := requestOf a.endpoint a.data
  let e : Event := { kind := kind, args := { a with num := 0 } }
  match k.heldRequests with
  | [] => if k.started || k.noBank then .next (s.answerManagement code f r) else .next { s with controller := { k with heldRequests := [e] } }
  | h :: l =>
    if a.num = 1 && h = e && (k.started || k.noBank) then
      .next (({ s with controller := { k with heldRequests := l } } : State).answerManagement code f r)
    else .next { s with controller := { k with heldRequests := h :: l ++ [e] } }

/-- The attestation report (R285). -/
def State.report (s : State) (nonce : BitVec 384) : List Byte :=
  let chain := Config.certificates
  let len := 268 + chain.length + 384 + 16224
  let body := [0x50, 0x4A, 0x41, 0x52] ++ bytesOfNat len 4 ++ digestBytes nonce ++ s.controller.measures.toList.flatMap digestBytes ++
    bytesOfNat Config.serial.toNat 16 ++ bytesOfNat chain.length 4 ++ chain
  body ++ bytesOfNat (Config.rsaSign body).toNat 384 ++ bytesOfNat (Config.slhSign body).toNat 16224

def execAttestation (s : State) : Host.Outcome State Fault Refusal :=
  s.serveRequest .attestation 1 fun s r => s.reply r 0 (s.report r.nonce)

/-- A sample of a sensor is taken in this cycle (R286). -/
def State.sample (s : State) (n : Nat) (v : BitVec 16) : State :=
  let k := s.controller
  { s with controller := { k with sensors := k.sensors.setIfInBounds n v, sampledAt := k.sampledAt.setIfInBounds n s.now } }

/-- A sensor's latest sample is at most 1 ms old: with `args.flag` the board has given a newer one, `args.code`; where the last one is
older than that, the controller takes another, whose value is free (R286; DESIGN CHOICE, log 2). -/
def State.sampled (s : State) (n : Nat) : State :=
  if s.args.flag then s.sample n s.args.code
  else if s.now - (s.controller.sampledAt[n]?).getD 0 ≤ cyclesOfUs 1000 then s
  else let (v, s) := s.takeFresh; s.sample n (v.setWidth 16)

/-- The latest sample of a sensor, in 2 bytes (R286; DESIGN CHOICE, log 94). -/
def execSensorRead (s : State) : Host.Outcome State Fault Refusal :=
  s.serveRequest .sensorRead 2 fun s r =>
    let n := r.arg.toNat
    if n > 6 then s.reply r 3 []
    else let s := s.sampled n; s.reply r 0 (bytesOfNat ((s.controller.sensors[n]?).getD 0).toNat 2)

/-- A log entry's 32 bytes (R288). -/
def LogEntry.bytes (e : LogEntry) : List Byte :=
  bytesOfNat e.time.toNat 8 ++ bytesOfNat e.code.toNat 2 ++ bytesOfNat e.unit.toNat 2 ++ bytesOfNat e.data.toNat 20

/-- 64 entries from the argument on, around the ring (R288); one not yet written is zeros (DESIGN CHOICE, log 95). -/
def execLogRead (s : State) : Host.Outcome State Fault Refusal :=
  s.serveRequest .logRead 3 fun s r =>
    if r.arg.toNat > 4095 then s.reply r 3 []
    else s.reply r 0 ((upFrom r.arg.toNat 64).flatMap fun i =>
      match s.controller.log[i % logSize]? with | some e => e.bytes | none => List.replicate 32 0)

/-- The reference is slewed toward the time in the request, never stepped back, and the reply carries it in 8 bytes (R287; DESIGN CHOICE,
log 72). What the reference has come to so far stays, to the unit of time. -/
def execTimeExchange (s : State) : Host.Outcome State Fault Refusal :=
  s.serveRequest .timeExchange 4 fun s r =>
    let here := s.reference
    let k := { s.controller with
      slew := timeUnits * (r.time - here).toInt, slewAt := s.now, timeFrac := (s.fineTime % timeUnits).toNat }
    let s := { s with timeRef := here, controller := k }
    s.reply r 0 (bytesOfNat here.toNat 8)

/-- The fused minimum of each kind rises to the svn of the bank in use (R281, R352). -/
def execCommitUpdate (s : State) : Host.Outcome State Fault Refusal :=
  s.serveRequest .commitUpdate 5 fun s r =>
    let k := s.controller
    match k.bank with
    | none => s.reply r 4 []
    | some b =>
      if k.svns false = k.svns true then s.reply r 0 []
      else
        let l := k.svns b
        let up (i : Nat) : BitVec 32 := let o := (k.minSvn[i]?).getD 0; let n := (l[i]?).getD 0; if o.toNat < n.toNat then n else o
        let s := { s with controller := { k with minSvn := Vector.ofFn fun i => up i.val } }
        (s.logEvent 0x0022 0 (logData [(12, 4, (up 0).toNat), (16, 4, (up 1).toNat), (20, 4, (up 2).toNat)])).reply r 0 []

/-- A sensor passes its limit: the sample is kept, logged and noticed (R286, R354). -/
def execSensorAboveLimit (s : State) : Host.Outcome State Fault Refusal :=
  let n := s.args.num
  let v := s.args.code
  .next ((s.sample n v).logEvent 0x0031 0 (logData [(12, 1, n), (13, 2, v.toNat)]))

/-! Links (R348, R354). -/

def execLinkStateChange (s : State) : Host.Outcome State Fault Refusal :=
  let n := s.args.num
  let s := { s with controller := { s.controller with linkUp := s.controller.linkUp.setIfInBounds n s.args.flag } }
  .next (s.logEvent 0x0012 0 (logData [(12, 2, n), (14, 1, s.args.flag.toNat)]))

/-- A flit is resent at once and counted; with `args.flag` the controller logs the count since its last entry (R348, R354). -/
def execLinkLevelRetry (s : State) : Host.Outcome State Fault Refusal :=
  let n := s.args.num
  let count := (s.controller.retries[n]?).getD 0 + 1
  let put (v : Nat) (s : State) : State := { s with controller := { s.controller with retries := s.controller.retries.setIfInBounds n v } }
  if s.args.flag then .next ((put 0 s).logEvent 0x0011 0 (logData [(12, 2, n), (14, 4, count)])) else .next (put count s)

end Sys2Proof.Machine
end

