-- ==== Sys2Proof/Machine/Routing.lean ====
section
/-!
DEFINITION. Work that begins and ends in a slot (R88, R89), and messages: sending, arriving, waiting, bouncing and being delivered
(R95 to R97, R270, R274, R275, R277, R302, R303, R348).
-/
namespace Sys2Proof.Machine

/-! A slot's work (R88, R89). -/

/-- The slot's work has ended: its incarnation advances (R88). -/
def Slot.enterIdle (t : Slot) : Slot :=
  { t with
    state := .idle, wait := .none, inc := t.inc + 1, flights := [], handler := none, gang := none, form := none, chain := none, stage := 0,
    nesting := 0, light := false, cause := none, earlier := none, badTable := none, pendStop := false, pendTimer := false, yielded := false, stopped := false }

/-- The slot's work has ended, and it stands on no list of waiters of its core (R88, R165, R175). -/
def State.enterIdle (s : State) (c : CoreId) (k : SlotId) : State := (s.modCore c fun q => q.leaveQueues k).modSlot c k Slot.enterIdle

/-- The registers that belong to the slot and the tenant it works for (R88; DEDUCED, log 5). -/
def Slot.tenantRegs (t : Slot) : TenantRegs :=
  { tenant := t.tenant, bankS := t.bankS, tcmp := t.tcmp, xlroot := t.xlroot, objbase := t.objbase, objlim := t.objlim, cmtab := t.cmtab,
    frbase := t.frbase }

/-- Those registers as the slot last had them for a tenant, at first as power-on leaves them (R88; DEDUCED, log 5). -/
def Slot.regsFor (t : Slot) (tenant : BitVec 16) : TenantRegs :=
  if t.tenant = tenant then t.tenantRegs
  else (firstOf (fun r : TenantRegs => r.tenant = tenant) t.others).getD { Slot.powerOn.tenantRegs with tenant := tenant }

/-- What the slot keeps for other tenants once it works for `tenant`. -/
def Slot.othersFor (t : Slot) (tenant : BitVec 16) : List TenantRegs :=
  if t.tenant = tenant then t.others
  else keepIf (fun r : TenantRegs => r.tenant ≠ tenant && r.tenant ≠ t.tenant) t.others ++ [t.tenantRegs]

/-- A slot without work that stands ready for a tenant: the registers that belong to the slot, and those that belong to the slot and
tenant; every other one as work finds it (R88). -/
def Slot.standing (t : Slot) (tenant : BitVec 16) : Slot :=
  let r := t.regsFor tenant
  { Slot.powerOn with
    bankS := r.bankS, bankH := t.bankH, tcmp := r.tcmp, xlroot := r.xlroot, objbase := r.objbase, objlim := r.objlim, cmtab := r.cmtab,
    frbase := r.frbase, tenant := tenant, others := t.othersFor tenant, inc := t.inc, flightNo := t.flightNo, issueAt := t.issueAt,
    pendNotice := t.pendNotice }

/-- Work begins from `idle`: registers 0 and `m0` ones; the banked registers and `tcmp` belong to the slot and tenant, and so do the
registers that describe its address space (R88; DEDUCED, log 5). -/
def Slot.begin (t : Slot) (pc : Word) (priv : Level) (tenant : BitVec 16) (light : Bool) : Slot :=
  { t.standing tenant with pc := pc, priv := priv, light := light, ie := priv = .u, state := .run }

/-- The stack top of slot `k` (R89). -/
def Core.stackTop (q : Core) (k : SlotId) : Word :=
  BitVec.ofNat 64 (field q.slstk 63 16 * 65536 + (k.toNat + 1) * 16384 * (field q.slstk 7 0 + 1))

/-- General registers set one after another. -/
def Slot.setXs (t : Slot) : List (BitVec 5 × Word) → Slot
  | [] => t
  | (r, w) :: l => (t.setX r w).setXs l

/-- The slot is a member of nothing that keeps it from work: idle, not stopped, not reserved by a gang and not about to hand over or to
take a tenant's context (R90, R99, R269). -/
def State.isFree (s : State) (c : CoreId) (k : SlotId) : Bool :=
  let t := s.slot c k
  t.state = .idle && !t.stopped &&
  !someOf (fun g : Gang => someOf (fun r => r = (c, k)) g.reserved) s.gangs &&
  !s.handingOver c k && !s.isLate c k

/-- Idle general slots of a core, lowest first (R90). -/
def State.freeSlots (s : State) (c : CoreId) : List SlotId := keepIf (fun k => s.isFree c k) generalSlots

/-! Tenants that have been reset. -/

/-- The tenant has been reset in the partition of a core (R347). -/
def State.isReset (s : State) (c : CoreId) (tenant : BitVec 16) : Bool :=
  match s.schedulerOf (s.core c).pbase with
  | some d => someOf (fun t => t = tenant) d.resets
  | none => false

/-! Sending (R208, R275, R277, R348). -/

/-- The bytes of a message: one flit, or four for a hop (R93, R275). -/
def Message.bytes (m : Message) : List Byte :=
  let head (hop : Nat) : List Byte :=
    bytesOfNat m.dest.toNat 8 ++ bytesOfNat m.sender.toNat 8 ++ bytesOfNat m.tenant.toNat 2 ++ [m.cls.setWidth 8, 0, BitVec.ofNat 8 hop] ++
    List.replicate 11 0 ++ m.payload.toList.flatMap fun w => bytesOfNat w.toNat 8
  match m.body with
  | .hop h _ => head 1 ++ (h.xs.toList.flatMap fun w => bytesOfNat w.toNat 8) ++ (h.lbs.toList.flatMap fun l => bytesOfNat l.toNat 16) ++ List.replicate 16 0
  | _ => head 0

/-- A packet of messages to one endpoint for one tenant (R275, R277). -/
def messagePacket (dest : BitVec 10) (tenant : BitVec 16) (l : List Message) : KeptPacket :=
  { barePacket dest .message tenant with msgs := l, data := l.flatMap Message.bytes }

/-- The batch window and size for a tenant of a core's partition (R265, R277). -/
def State.coalescing (s : State) (c : CoreId) (tenant : BitVec 16) : Nat × Nat :=
  let p := (s.core c).pbase
  match s.entryOf p tenant with
  | some e => (Nat.max 1 (entryCnum (s.committed p e)), entryCwin (s.committed p e))
  | none => (1, 0)

/-- A batch leaves (R277). -/
def State.sendBatch (s : State) (b : Batch) : State := s.sendPacket (messagePacket b.endpoint b.tenant b.msgs)

/-- A message to a host endpoint joins the batch of its partition, endpoint and tenant, which leaves when it is full (R277). -/
def State.gather (s : State) (c : CoreId) (m : Message) : State :=
  let e := destPackage m.dest
  let p := (s.core c).pbase
  let (cnum, cwin) := s.coalescing c m.tenant
  let mine (b : Batch) : Bool := b.pbase = p && b.endpoint = e && b.tenant = m.tenant
  let b := match firstOf mine s.batches with
    | some b => { b with msgs := b.msgs ++ [m] }
    | none => { pbase := p, endpoint := e, tenant := m.tenant, oldest := s.now, msgs := [m] }
  if b.msgs.length ≥ cnum then ({ s with batches := removeFirst mine s.batches } : State).sendBatch b
  else if b.msgs.length = 1 then
    ({ s with batches := s.batches ++ [b] } : State).post .hostBatchTimeout { core := p, endpoint := e, tenant := m.tenant, num := s.now } (cyclesOfUs cwin)
  else { s with batches := replaceFirst mine b s.batches }

/-- A message leaves core `c` for its destination; `via` is 0, or one more than the vacated core that forwards it (R274). One for this package
arrives a cycle after it leaves at the earliest, and so does a bounce (R4 binds no such time; DESIGN CHOICE, log 85). -/
def State.routeVia (s : State) (c : CoreId) (m : Message) (via : Nat) : State :=
  if destPackage m.dest = s.endpoint then s.post .messageArrival { core := destCore m.dest, msg := some m, num := via } 1
  else if Config.isHost (destPackage m.dest) then s.gather c m
  else s.sendPacket (messagePacket (destPackage m.dest) m.tenant [m])

def State.route (s : State) (c : CoreId) (m : Message) : State := s.routeVia c m 0

/-- The batch of a partition, endpoint and tenant leaves when its oldest message has waited long enough (R277). -/
def execHostBatchTimeout (s : State) : Host.Outcome State Fault Refusal :=
  let a := s.args
  let due (b : Batch) : Bool := b.pbase = a.core && b.endpoint = a.endpoint && b.tenant = a.tenant && b.oldest = a.num
  match firstOf due s.batches with
  | some b => .next (({ s with batches := removeFirst due s.batches } : State).sendBatch b)
  | none => .next s

/-! Bounces (R302). -/

/-- Payload word 0 of a bounce record (R302). -/
def bounceWord (cls : BitVec 3) (reason : BitVec 8) : Word := 0#45 ++ cls ++ reason ++ 0x12#8

/-- A message is not delivered: a bounce record goes to the fault service of the sender's partition, a cycle later at the earliest (DESIGN
CHOICE, log 85); a bounce record that cannot be delivered is discarded and logged (R302). -/
def State.bounce (s : State) (c : CoreId) (m : Message) (reason : BitVec 8) : State :=
  if m.origin = .engine then s.logEvent 0x0010 (unitOf c) (logData [(12, 8, m.payload[1].toNat)])
  else
    let record (dest : Word) : Message :=
      { dest := dest, sender := m.sender, tenant := m.tenant, cls := 1, origin := .engine,
        payload := #v[bounceWord m.cls reason, m.dest, m.payload[0], m.payload[1]], body := .plain }
    if destPackage m.sender = s.endpoint then
      let p := (s.core (destCore m.sender)).pbase
      s.post .messageArrival { core := p, msg := some (record (slotIdWord s.endpoint p 0)) } 1
    else s.route c (record (m.sender &&& 0x1FFFFFF#64))

/-! Waiting at a core (R97, R270). -/

/-- A comb's overflow pool changes, and takes lines from its L2 slice (R12). -/
def State.setPool (s : State) (b : CombId) (l : List (CoreId × Message)) : State :=
  ({ s with overflow := if l.isEmpty then Table.drop b.toNat s.overflow else Table.put b.toNat l s.overflow } : State).trimSlice b

/-- A message joins the inbound queue, or bounces. -/
def State.admitMessage (s : State) (c : CoreId) (m : Message) : State :=
  match s.refuses c m with
  | some r => s.bounce c m r
  | none => s.modCore c fun q => { q with inbox := q.inbox ++ [m] }

/-- Messages of the pool move up into a queue that has room, in order, those of tenants not served waiting (R97, R270). -/
def State.refill (s : State) (c : CoreId) : Nat → State
  | 0 => s
  | n + 1 =>
    if (s.core c).inbox.length ≥ 32 then s
    else
      let mine (p : CoreId × Message) : Bool := p.1 = c && s.serves c p.2.tenant
      let pool := s.pool (combOf c)
      match firstOf mine pool with
      | some p => ((s.setPool (combOf c) (removeFirst mine pool)).admitMessage c p.2).refill c n
      | none => s

def State.refillCore (s : State) (c : CoreId) : State := s.refill c (s.pool (combOf c)).length

/-- A message leaves the inbound queue, or the pool where it waits there (R95, R97). -/
def State.takeMessage (s : State) (c : CoreId) (m : Message) : State :=
  if someOf (fun n => n = m) (s.core c).inbox then
    (s.modCore c fun q => { q with inbox := removeFirst (fun n => n = m) q.inbox }).refillCore c
  else s.setPool (combOf c) (removeFirst (fun p => p = (c, m)) (s.pool (combOf c)))

/-- A local message leaves its sender's network interface (R208). -/
def State.leaveInterface (s : State) (m : Message) : State :=
  if m.origin = .slot && destPackage m.sender = s.endpoint then
    s.modCore (destCore m.sender) fun q => { q with iface := removeFirst (fun n => n = m) q.iface }
  else s

/-- Messages for a comb wait in the mesh (R303). -/
def State.meshWaits (s : State) (b : CombId) : Bool := someOf (fun d : Due => d.event.waitsInMesh && combOf d.event.args.core = b) s.agenda

/-- A message at its core: in the queue, in the comb's pool, or in the mesh when both are full, where those of a comb wait in order; one that
is at its turn there bears `args.flag`'s mark `args.link` (R97, R303). -/
def State.takeIn (s : State) (c : CoreId) (m : Message) : State :=
  let pool := s.pool (combOf c)
  let waits := someOf (fun p : CoreId × Message => p.1 = c && s.serves c p.2.tenant) pool
  let mesh : Due := { after := s.now, event := { kind := .messageArrival, args := { core := c, msg := some m, link := meshMark } } }
  if s.args.link ≠ meshMark && s.meshWaits (combOf c) then { s with agenda := s.agenda ++ [mesh] }
  else if s.serves c m.tenant && !waits && (s.core c).inbox.length < 32 then (s.leaveInterface m).admitMessage c m
  else if poolUsed pool + flitsOf m ≤ poolFlits then (s.leaveInterface m).setPool (combOf c) (pool ++ [(c, m)])
  else { s with agenda := mesh :: s.agenda }

/-! What comes in from the fabric (R276, R348, R349). -/

/-- A message of a packet as the receiving package has it: from a host adapter if its endpoint is one, and a bounce record at the
fault service of the partition of the core it names (R276, R278, R302). -/
def State.imported (s : State) (c : CoreId) (m : Message) (tenant : BitVec 16) : Message :=
  let origin : Origin := if m.origin = .engine then .engine else if Config.isHost s.args.endpoint then .host else .slot
  { m with tenant := tenant, origin := origin, dest := if origin = .engine then retarget m.dest s.endpoint (s.core c).pbase else m.dest }

/-- A message packet from a peer is taken for the local tenant, or refused (R276, R348, R349). -/
def State.takePacket (s : State) (c : CoreId) (m : Message) : State :=
  s.takeFrom c m.tenant fun s t => let m := s.imported c m t; s.post .messageArrival { core := destCore m.dest, msg := some m }

/-- The core of a comb that `hopk` from core `c` goes to, among those of the partition, as the comb's router finds it (R94). -/
def State.hopTarget (s : State) (c : CoreId) (b : CombId) : Option CoreId :=
  let l := keepIf (s.inPartition c) (coresOfComb b)
  let idle (d : CoreId) : Bool := someOf (fun k => (s.slot d k).state = .idle) generalSlots
  match firstOf idle l with
  | some d => some d
  | none =>
    match firstOf (fun d : CoreId => c.toNat % 8 ≤ d.toNat % 8) l with
    | some d => some d
    | none => l.head?

/-- A message that its source core's interface still holds is now addressed as `n` (R94, R208). -/
def State.readdress (s : State) (m n : Message) : State :=
  s.modCore (destCore m.sender) fun q => { q with iface := replaceFirst (fun l => l = m) n q.iface }

/-- The router of its home comb takes a hop, and names the core it goes to (R94). Where the comb holds no core of the partition any more, the
hop bounces with reason 3 (DESIGN CHOICE, log 88). -/
def State.takeHop (s : State) (m : Message) (h : HopState) (b : CombId) : State :=
  match s.hopTarget (destCore m.sender) b with
  | some d =>
    let n := { m with dest := retarget m.dest s.endpoint d, body := .hop h none }
    (s.readdress m n).post .messageArrival { core := d, msg := some n }
  | none => (s.leaveInterface m).bounce (destCore m.sender) m 3

/-- A message reaches its core: it is taken in, goes on to where the core's tenant has gone, or bounces; while a save hands the core over
it waits (R97, R274, R302, R304, R319, R347). -/
def State.messageAt (s : State) (c : CoreId) (m : Message) : State :=
  if (s.core c).dead then (s.leaveInterface m).bounce c m 5
  else if s.isReset c m.tenant then (s.leaveInterface m).bounce c m 6
  else
    match s.forwardingOf c m.tenant with
    | some g => (s.leaveInterface m).routeVia c { m with dest := retarget m.dest g.package g.core } (c.toNat + 1)
    | none =>
      if (s.core c).vacatedFor m.tenant && !s.saving c m.tenant then (s.leaveInterface m).bounce c m 3
      else s.arriveAt c { kind := .messageArrival, args := s.args } fun s => s.takeIn c m

/-- A message arrives at core `args.core`; from the fabric if `args.flag` (R97, R274, R276, R302, R304, R319, R347). -/
def execMessageArrival (s : State) : Host.Outcome State Fault Refusal :=
  match s.args.msg with
  | none => .next s
  | some m =>
    if s.args.flag then .next (s.takePacket s.args.core m)
    else
      match m.body with
      | .hop h (some b) => .next (s.takeHop m h b)
      | _ => .next (s.messageAt s.args.core m)

/-! Delivery to a handler (R96). -/

/-- A slot starts its handler for a message (R96). -/
def Slot.handle (t : Slot) (m : Message) (pc : Word) : Slot :=
  { t.setXs [(10, m.payload[0]), (11, m.payload[1]), (12, m.payload[2]), (13, m.payload[3]), (14, m.sender)] with
    pc := pc, handler := some m.cls, state := .run, wait := .none }

/-- The bound slot `args.slot` of core `args.core`, in `msgwait`, takes its oldest pending message (R96, R97). -/
def execMessageDelivery (s : State) : Host.Outcome State Fault Refusal :=
  let c := s.args.core
  let k := s.args.slot
  if (s.slot c k).state ≠ .msgwait then .next s
  else
    match s.pendingFor c k with
    | none => .next s
    | some m =>
      match (s.core c).bindings[m.cls.toNat]'(m.cls.isLt) with
      | some (_, pc) => .next ((s.modSlot c k fun t => t.handle m pc).takeMessage c m)
      | none => .next s

/-- A class is unbound: the messages of it that wait in the queue, and in the pool for the tenant served, bounce (R228, R302). -/
def State.unbind (s : State) (c : CoreId) (cls : BitVec 3) : State :=
  let pool := s.pool (combOf c)
  let mine (p : CoreId × Message) : Bool := p.1 = c && p.2.cls = cls && s.serves c p.2.tenant
  let waiting := keepIf (fun m : Message => m.cls = cls) (s.core c).inbox ++ (keepIf mine pool).map Prod.snd
  let s := s.modCore c fun q =>
    { q with bindings := q.bindings.set cls.toNat none cls.isLt, inbox := keepIf (fun m : Message => m.cls ≠ cls) q.inbox }
  let s := if someOf mine pool then s.setPool (combOf c) (keepIf (fun p => !mine p) pool) else s
  (waiting.foldl (fun s m => s.bounce c m (if destChk m.dest then 1 else 2)) s).refillCore c

/-- Every class that a slot holds is unbound (R204). -/
def State.unbindAll (s : State) (c : CoreId) (k : SlotId) : State :=
  ([1, 2, 3, 4, 5, 6, 7] : List (BitVec 3)).foldl (fun s cls =>
    match (s.core c).bindings[cls.toNat]'(cls.isLt) with
    | some (j, _) => if j = k then s.unbind c cls else s
    | none => s) s

/-- A slot is retired with its core (R319). -/
def Slot.retire (t : Slot) : Slot := if t.state = .idle then t else t.enterIdle

end Sys2Proof.Machine
end

