-- ==== Sys2Proof/Machine/Coherence.lean ====
section
/-!
DEFINITION. The home directories and the caches that answer them, power gating, and cores declared dead (R77 to R85, R304, R316,
R319 to R321). Data is always in memory (DEDUCED, log 4): these events move lines' states and let pending accesses complete.
-/
namespace Sys2Proof.Machine

/-! Entries. -/

def State.findDir (s : State) (tag : LineTag) (home : CombId) : Option DirEntry :=
  firstOf (fun d => d.tag = tag && d.home = home) s.dir

def State.setDir (s : State) (d : DirEntry) : State :=
  let same (e : DirEntry) : Bool := e.tag = d.tag && e.home = d.home
  { s with dir := if someOf same s.dir then replaceFirst same d s.dir else s.dir ++ [d] }

/-- The sharer bit of a core: four combs with neighbouring Hilbert indices (R80). -/
def sharerGroup (c : CoreId) : Nat := c.toNat / 32

/-- Every core of the groups of a sharer vector (R80). -/
def sharerCores (v : BitVec 64) : List CoreId :=
  (List.range 64).flatMap fun g => if v.getLsbD g then (upFrom (32 * g) 32).map (BitVec.ofNat 11) else []

def addSharer (v : BitVec 64) (c : CoreId) : BitVec 64 := v ||| BitVec.ofNat 64 (2 ^ sharerGroup c)

/-- A message that carries an old incarnation is discarded and counted (R320). -/
def State.discard (s : State) : State := { s with controller := { s.controller with discarded := s.controller.discarded + 1 } }

/-- The home waits for answers from now on, for 2^22 cycles at most (R319). -/
def State.awaitAnswer (s : State) (d : DirEntry) : State :=
  (s.setDir { d with since := s.now }).post .answerTimeout { tag := d.tag, comb := d.home, num := s.now } holdLimit

/-! Serving a request (R81 to R84). -/

/-- The state granted reaches the requester, from the slice of the home (R77, R81). -/
def State.postGrant (s : State) (d : DirEntry) (r : LineRequest) (st : LineState) : State :=
  (s.cacheL2 d.home d.tag).post .grant { core := r.core, inc := r.inc, tag := d.tag, comb := d.home, st := st }

/-- The requester becomes the owner. -/
def State.grantOwner (s : State) (d : DirEntry) (r : LineRequest) (st : LineState) : State :=
  (s.setDir { d with state := .x, owner := some (r.core, r.inc), sharers := 0, serving := none }).postGrant d r st

/-- The requester becomes a sharer. -/
def State.grantSharer (s : State) (d : DirEntry) (r : LineRequest) : State :=
  (s.setDir { d with sharers := addSharer d.sharers r.core, serving := none }).postGrant d r .s

/-- The request goes to the owner, or is answered "none" for a dead one (R82, R320). -/
def State.forwardTo (s : State) (d : DirEntry) (o : CoreId) : State :=
  let write := match d.serving with | some r => r.want ≠ .read | none => false
  (s.awaitAnswer { d with state := .fwd }).post .forward
    { core := o, inc := (s.core o).inc4, tag := d.tag, comb := d.home, flag := write, owner := d.serving.map (·.core) }

/-- Sharers are invalidated before a write is served: every core of the groups set but the requester, an owner among them (R80, R84). -/
def State.serveShared (s : State) (d : DirEntry) (r : LineRequest) : State :=
  let owed := keepIf (fun c => c ≠ r.core && !(s.core c).dead) (sharerCores d.sharers)
  let s := s.awaitAnswer { d with state := .inv, owed := owed }
  owed.foldl (fun s c => s.post .invalidation { core := c, inc := (s.core c).inc4, tag := d.tag, comb := d.home }) s

/-- A live owner of an entry. -/
def State.liveOwner (s : State) (d : DirEntry) : Option CoreId :=
  match d.owner with
  | some (o, inc) => if (s.core o).dead || (s.core o).inc4 ≠ inc then none else some o
  | none => none

/-- Every invalidation is acknowledged: an owner that still has to pass the line is asked, else the request is granted (R82, R84). -/
def State.afterInvalidation (s : State) (d : DirEntry) : State :=
  match d.serving with
  | none => s.setDir { d with owed := [] }
  | some r =>
    let d := { d with owed := [], sharers := 0 }
    match r.want, s.liveOwner d with
    | .write, some o => if o = r.core then s.grantOwner d r .m else s.forwardTo d o
    | _, _ => s.grantOwner d r .m

/-- A line without an owner (R81, R83). -/
def State.serveUnowned (s : State) (d : DirEntry) (r : LineRequest) : State :=
  let d := { d with owner := none, state := if d.sharers = 0 then .u else .s, serving := some r }
  match r.want with
  | .read => if d.sharers = 0 then s.grantOwner d r .e else s.grantSharer d r
  | _ => if d.sharers = 0 then s.grantOwner d r .m else
      let s := s.serveShared d r
      match s.findDir d.tag d.home with
      | some d => if d.owed.isEmpty then s.afterInvalidation d else s
      | none => s

/-- The home takes a request for an entry between requests (R81 to R84). -/
def State.serveRequestAt (s : State) (d : DirEntry) (r : LineRequest) : State :=
  let lost := someOf (fun c => c = r.core) d.lost
  let d := { d with lost := keepIf (fun c => c ≠ r.core) d.lost }
  let want : LineWant := if r.want = .upgrade && (lost || d.state = .u || d.state = .x) then .write else r.want
  let r := { r with want := want }
  let d := { d with serving := some r }
  match s.liveOwner d with
  | none => s.serveUnowned d r
  | some o =>
    match want, d.state with
    | .read, _ => s.forwardTo d o
    | .write, .x => s.forwardTo d o
    | _, _ =>
      let d' := if want = .upgrade then { d with sharers := addSharer d.sharers o } else d
      let s := s.serveShared d' r
      match s.findDir d.tag d.home with
      | some d => if d.owed.isEmpty then s.afterInvalidation d else s
      | none => s

/-- The home goes on to the requests that wait, in arrival order (R81). -/
def State.pumpDir (s : State) (tag : LineTag) (home : CombId) : Nat → State
  | 0 => s
  | n + 1 =>
    match s.findDir tag home with
    | none => s
    | some d =>
      if d.serving.isSome then s
      else
        match d.queue with
        | [] => s
        | r :: q =>
          let d := { d with queue := q }
          let s := s.setDir d
          (if (s.core r.core).inc4 ≠ r.inc then s.discard else s.serveRequestAt d r).pumpDir tag home n

def State.pumpEntry (s : State) (tag : LineTag) (home : CombId) : State :=
  match s.findDir tag home with
  | some d => s.pumpDir tag home (d.queue.length + 1)
  | none => s

/-- The combs that a discovery broadcast asks: those of the requester's partition; for H's lines, those of every core that can hold a
line (R83; DEDUCED, log 26). -/
def State.probedCombs (s : State) (tag : LineTag) (c : CoreId) : List CombId :=
  if tag.tenant = hvTenant then combsOf s.coreIds else combsOf (s.partition c)

/-- A request that finds no entry starts a discovery (R83). -/
def State.discover (s : State) (tag : LineTag) (home : CombId) (r : LineRequest) : State :=
  let combs := s.probedCombs tag r.core
  let d : DirEntry :=
    { tag := tag, home := home, state := .dsc, owner := none, sharers := 0, serving := some r, owed := [], owedCombs := combs,
      foundOwner := none, lost := [], queue := [], since := s.now }
  if combs.isEmpty then s.serveUnowned d r
  else
    combs.foldl (fun s b => s.post .discoveryProbe { comb := b, num := home.toNat, tag := tag, flag := r.want ≠ .read, owner := some r.core }) (s.awaitAnswer d)

/-- A request has arrived in this cycle: those of lower cores for the line come later (R81). -/
def State.noteArrival (s : State) : State := { s with arrivals := (s.args.tag, s.args.comb, s.args.core) :: s.arrivals }

/-- A request arrives at its home (R81). -/
def State.requestArrives (s : State) (want : LineWant) : State :=
  let a := s.args
  let s := s.noteArrival
  if (s.core a.core).inc4 ≠ a.inc then s.discard
  else
    let r : LineRequest := { core := a.core, inc := a.inc, want := want }
    match s.findDir a.tag a.comb with
    | none => s.discover a.tag a.comb r
    | some d => (s.setDir { d with queue := d.queue ++ [r] }).pumpEntry a.tag a.comb

def execRds (s : State) : Host.Outcome State Fault Refusal := .next (s.requestArrives .read)
def execRdx (s : State) : Host.Outcome State Fault Refusal := .next (s.requestArrives .write)
def execUpg (s : State) : Host.Outcome State Fault Refusal := .next (s.requestArrives .upgrade)

/-! Answers (R82 to R85). -/

/-- What an owner's answer makes of the request (R82); an owner that asked for more sectors of its line keeps it as it is (DESIGN CHOICE,
log 55). -/
def State.answered (s : State) (d : DirEntry) (r : LineRequest) (o : CoreId) (reply : OwnerReply) : State :=
  match reply with
  | .keptO =>
    if o = r.core then
      (s.setDir { d with state := if d.sharers = 0 then .x else .o, owner := some (o, (s.core o).inc4), serving := none }).postGrant d r .s
    else s.grantSharer { d with state := .o, owner := some (o, (s.core o).inc4) } r
  | .keptS => s.grantSharer { d with state := .s, owner := none, sharers := addSharer d.sharers o } r
  | .gaveUp => s.grantOwner d r .m
  | .noCopy => s.serveUnowned d r

/-- The owner's answer reaches the home; after a write-back it only ends the transaction (R82, R85). -/
def execOwnerAnswer (s : State) : Host.Outcome State Fault Refusal :=
  let a := s.args
  if (s.core a.core).inc4 ≠ a.inc then .next s.discard
  else
    match s.findDir a.tag a.comb with
    | none => .next s
    | some d =>
      if (d.owner.map Prod.fst) ≠ some a.core then .next s
      else match d.serving, d.state with
      | some r, .fwd => .next ((s.answered d r a.core a.reply).pumpEntry a.tag a.comb)
      | some r, .wbp =>
        let d' : DirEntry := if r.want = .read then { d with state := .s, owner := none, sharers := addSharer d.sharers r.core, serving := none }
          else { d with state := .x, owner := some (r.core, r.inc), sharers := 0, serving := none }
        .next ((s.setDir d').pumpEntry a.tag a.comb)
      | _, _ => .next s

/-- A write-back (R85). -/
def execWb (s : State) : Host.Outcome State Fault Refusal :=
  let a := s.args
  let s := s.noteArrival
  if (s.core a.core).inc4 ≠ a.inc then .next s.discard
  else
    let s := s.cacheL2 a.comb a.tag
    match s.findDir a.tag a.comb with
    | none => .next s
    | some d =>
      if (d.owner.map Prod.fst) ≠ some a.core then .next s
      else
        match d.serving, d.state with
        | some r, .fwd => .next ((s.setDir { d with state := .wbp }).postGrant d r (if r.want = .read then .s else .m))
        | _, .o | _, .x => .next (s.setDir { d with owner := none, state := if d.sharers = 0 then .u else .s })
        | _, _ => .next (s.setDir { d with owner := none })

/-- What a core does with a forwarded request for a line (R82). -/
def Core.giveLine (q : Core) (tag : LineTag) (write : Bool) : OwnerReply × Core :=
  match q.findLine tag with
  | some l =>
    match l.state, write with
    | .m, false | .o, false => (.keptO, q.putLine { l with state := .o })
    | .e, false => (.keptS, q.putLine { l with state := .s })
    | .m, true | .o, true | .e, true => (.gaveUp, q.dropLine tag)
    | _, _ => (.noCopy, q)
  | none => (.noCopy, q)

/-- What a core does with a request that comes to it from a home: an owner that asks for more sectors of its own line keeps it as it is
(R82; DESIGN CHOICE, log 55). -/
def Core.serveLine (q : Core) (c : CoreId) (tag : LineTag) (write : Bool) (asker : Option CoreId) : OwnerReply × Core :=
  if asker = some c && !write && (q.findLine tag).isSome then (.keptO, q) else q.giveLine tag write

/-- A forward reaches the owner; the home has answered for a dead one (R82, R320). -/
def execForward (s : State) : Host.Outcome State Fault Refusal :=
  let a := s.args
  let (reply, q) := (s.core a.core).serveLine a.core a.tag a.flag a.owner
  if q.dead || q.inc4 ≠ a.inc then .next s
  else .next ((s.setCore a.core q).post .ownerAnswer { core := a.core, inc := q.inc4, tag := a.tag, comb := a.comb, reply := reply })

/-- An invalidation: the line is I, and an upgrade in flight has lost its copy (R84). -/
def execInvalidation (s : State) : Host.Outcome State Fault Refusal :=
  let a := s.args
  let q := s.core a.core
  let lost := someOf (fun m : Miss => m.tag = a.tag && m.want = .upgrade) q.misses
  if q.dead || q.inc4 ≠ a.inc then .next s
  else
  let s := if (q.findLine a.tag).isSome then s.setCore a.core (q.dropLine a.tag) else s
  .next (s.post .invalidationAck { core := a.core, inc := q.inc4, tag := a.tag, comb := a.comb, flag := lost })

def execInvalidationAck (s : State) : Host.Outcome State Fault Refusal :=
  let a := s.args
  if (s.core a.core).inc4 ≠ a.inc then .next s.discard
  else
    match s.findDir a.tag a.comb with
    | none => .next s
    | some d =>
      if d.state ≠ .inv then .next s
      else
        let d := { d with owed := keepIf (fun c => c ≠ a.core) d.owed, lost := if a.flag then d.lost ++ [a.core] else d.lost }
        if d.owed.isEmpty then .next ((s.afterInvalidation d).pumpEntry a.tag a.comb) else .next (s.setDir d)

/-- A core drops a line; a dirty one is written back (R79). A line with a request under way stays (DESIGN CHOICE, log 55). -/
def State.evict (s : State) (c : CoreId) (l : CacheLine) : State :=
  let q := s.core c
  if someOf (fun m : Miss => m.tag = l.tag) q.misses then s
  else
    let s := s.setCore c (q.dropLine l.tag)
    if l.state = .m || l.state = .o then s.post .wb { core := c, inc := q.inc4, tag := l.tag, comb := l.home } else s

/-- Lines of a core that can be evicted, oldest first. -/
def Core.evictable (q : Core) : List CacheLine := keepIf (fun l : CacheLine => !someOf (fun m : Miss => m.tag = l.tag) q.misses) q.lines

/-- L1D lines beyond the room of a split are evicted, oldest first (R11; DESIGN CHOICE, log 50). -/
def State.evictBeyond (s : State) (c : CoreId) (room : Nat) : State :=
  let q := s.core c
  (q.evictable.take (q.lines.length - room)).foldl (fun s l => s.evict c l) s

/-- A line comes into a core's L1D, which has room for as many as its split leaves (R11, R77). -/
def State.install (s : State) (c : CoreId) (l : CacheLine) : State :=
  let room := lineRoom (s.core c).split
  let s := if ((s.core c).findLine l.tag).isSome then s else s.evictBeyond c (room - 1)
  s.modCore c fun q => q.putLine l

/-- A grant reaches the core: the line is there in the state granted, and the accesses that waited for it are performed (R77, R81, R133).
A grant of sectors alone leaves the state of a line that the core has. -/
def execGrant (s : State) : Host.Outcome State Fault Refusal :=
  let a := s.args
  let q := s.core a.core
  let m := a.st = .m
  let fetched := match firstOf (fun k : Miss => k.tag = a.tag && ((k.want = .read) = !m)) q.misses with | some k => k.sectors | none => 0
  let old := q.findLine a.tag
  let st := if m then a.st else match old with | some l => l.state | none => a.st
  let had := match old with | some l => l.sectors | none => 0
  if q.dead || q.inc4 ≠ a.inc then .next s
  else
    .next ((s.setCore a.core (q.answerMiss a.tag m)).install a.core { tag := a.tag, home := a.comb, state := st, sectors := had ||| fetched })

/-- A probe reaches comb `args.comb`, which answers for its cores and has an owner serve the request of core `args.owner` (R82, R83).
`args.num` is the home. -/
def execDiscoveryProbe (s : State) : Host.Outcome State Fault Refusal :=
  let a := s.args
  let owns (c : CoreId) : Bool :=
    match (s.core c).findLine a.tag with | some l => l.state = .m || l.state = .o || l.state = .e | none => false
  match firstOf owns (coresOfComb a.comb) with
  | none => .next (s.post .discoveryAnswer { comb := a.comb, num := a.num, tag := a.tag, owner := none })
  | some c =>
    let (reply, q) := (s.core c).serveLine c a.tag a.flag a.owner
    .next ((s.setCore c q).post .discoveryAnswer { comb := a.comb, num := a.num, tag := a.tag, owner := some c, reply := reply })

/-- A comb's answer: the last one decides (R83). -/
def execDiscoveryAnswer (s : State) : Host.Outcome State Fault Refusal :=
  let a := s.args
  let home : CombId := BitVec.ofNat 8 a.num
  match s.findDir a.tag home with
  | none => .next s
  | some d =>
    match d.serving, d.state with
    | some r, .dsc =>
      let d := { d with owedCombs := keepIf (fun b => b ≠ a.comb) d.owedCombs }
      let d := match a.owner with | some c => { d with foundOwner := some (c, a.reply) } | none => d
      if !d.owedCombs.isEmpty then .next (s.setDir d)
      else
        match d.foundOwner with
        | some (c, reply) => .next ((s.answered { d with foundOwner := none } r c reply).pumpEntry a.tag home)
        | none => .next ((s.serveUnowned d r).pumpEntry a.tag home)
    | _, _ => .next s

/-- The entry of a line in X that is between requests is dropped (R83). -/
def execDirectoryDrop (s : State) : Host.Outcome State Fault Refusal :=
  let a := s.args
  match s.findDir a.tag a.comb with
  | some d =>
    if d.state = .x && d.quiet then .next { s with dir := removeFirst (fun e => e.tag = a.tag && e.home = a.comb) s.dir } else .next s
  | none => .next s

/-! Evictions and power gates (R79, R304). -/

def execLineEviction (s : State) : Host.Outcome State Fault Refusal :=
  let a := s.args
  match (s.core a.core).findLine a.tag with
  | some l => .next (s.evict a.core l)
  | none => .next s

/-- A slot's state allows its core to power-gate (R304). -/
def gateable (st : SlotState) : Bool :=
  match st with
  | .idle | .msgwait | .fewait | .xlwait | .joinwait => true
  | _ => false

/-- No accumulator is owned and no engine works for the core (R304). -/
def Core.enginesIdle (q : Core) : Bool :=
  allOf (fun o => o.isNone) q.zaOwner.toList && q.matrix.isEmpty && q.ahead.isNone && q.rep.phase ≠ .running &&
  allOf (fun h : Channel => h.queue.isEmpty) q.channels.toList && q.iface.isEmpty

/-- A core power-gates: it writes back its L1D and drops its TLB and prefix cache (R304). -/
def execPowerGate (s : State) : Host.Outcome State Fault Refusal :=
  let c := s.args.core
  let q := s.core c
  if q.power ≠ .on || q.dead || !allOf (fun t : Slot => gateable t.state && !t.stopped) q.slots.toList || !q.enginesIdle || !q.inbox.isEmpty || !q.misses.isEmpty then
    .next s
  else
    let s := q.lines.foldl (fun s l => s.evict c l) s
    .next (s.modCore c fun q => { q with tlb := [], prefixes := [], power := .gated })

/-- The core is up again, and what its comb held is served in arrival order (R304). -/
def execPowerUpComplete (s : State) : Host.Outcome State Fault Refusal :=
  let c := s.args.core
  let held := (s.core c).heldAtComb.map fun e => ({ after := s.now, event := e } : Due)
  .next ({ s with agenda := held ++ s.agenda }.modCore c fun q => { q with power := .on, heldAtComb := [] })

/-! Dead cores (R316, R319 to R321). -/

/-- What a core's death does to a directory entry: what it owed counts as given, and it owns nothing (R320). -/
def State.buryAt (s : State) (c : CoreId) (d : DirEntry) : State :=
  let owned := (d.owner.map Prod.fst) = some c
  let d : DirEntry := { d with
    owed := keepIf (fun o => o ≠ c) d.owed
    owner := if owned then none else d.owner
    state := if owned && (d.state = .o || d.state = .x) then (if d.sharers = 0 then .u else .s) else d.state }
  match d.serving, d.state with
  | some r, .fwd => if owned then (s.serveUnowned d r).pumpEntry d.tag d.home else s.setDir d
  | some r, .wbp =>
    if owned then
      let d' : DirEntry := if r.want = .read then { d with state := .s, sharers := addSharer d.sharers r.core, serving := none }
        else { d with state := .x, owner := some (r.core, r.inc), sharers := 0, serving := none }
      (s.setDir d').pumpEntry d.tag d.home
    else s.setDir d
  | some _, .inv => if d.owed.isEmpty then (s.afterInvalidation d).pumpEntry d.tag d.home else s.setDir d
  | _, _ => s.setDir d

/-- A waiter that stands for an agent of core `c`. -/
def Waiter.ofCore (w : Waiter) (c : CoreId) : Bool :=
  match w.agent with
  | .slot d _ => d = c
  | .stage _ _ d _ => d = c
  | .channel d _ => d = c

/-- The notice word of a dead core (R321). -/
def noticeOf (lost : Nat) (reason : BitVec 8) (newinc oldinc : BitVec 4) (c : CoreId) : Word :=
  BitVec.ofNat 24 lost ++ reason ++ 0#8 ++ newinc ++ oldinc ++ 0#5 ++ c

/-- Lost lines that a record lists (R321). -/
def listedLines : Nat := 2046

/-- Error codes of the transfers that a dead core leaves behind: each channel's pending error is latched (R315, R319). -/
def Channel.bury (h : Channel) : Channel :=
  let pending := h.queue.filterMap fun t => t.bad.map fun code => (t.id, code)
  { h with queue := [], latch := match h.latch with | some e => some e | none => pending.head? }

/-- A core after its death: retired slots, no caches, no work (R319). -/
def Core.bury (q : Core) : Core :=
  { Core.powerOn with
    slots := q.slots.map Slot.retire, spad := q.spad, spadEmpty := q.spadEmpty, spadBad := q.spadBad, split := q.split,
    splitWanted := q.splitWanted, rings := q.rings, za := q.za, mail := q.mail,
    channels := q.channels.map Channel.bury, deque := q.deque,
    slstk := q.slstk, pbase := q.pbase, plen := q.plen, partWrites := q.partWrites, lastIssued := q.lastIssued,
    inc4 := q.inc4 + 1, dead := true, forwarding := q.forwarding, vacated := q.vacated, lastTnow := q.lastTnow }

/-- The lines that a core holds in M or O, and those whose write-back is on its way and will be discarded (R320). -/
def State.lostWith (s : State) (c : CoreId) : List LineTag :=
  let q := s.core c
  let held := (keepIf (fun l : CacheLine => l.state = .m || l.state = .o) q.lines).map (·.tag)
  let sent := (keepIf (fun d : Due => d.event.kind = .wb && d.event.args.core = c && d.event.args.inc = q.inc4) s.agenda).map (·.event.args.tag)
  held ++ keepIf (fun t => !someOf (fun u => u = t) held) sent

/-- The messages that wait for a core in its comb's pool, and at its comb while it is gated (R97, R304). -/
def State.waitingFor (s : State) (c : CoreId) : List Message :=
  (keepIf (fun p : CoreId × Message => p.1 = c) (s.pool (combOf c))).map Prod.snd ++
  (s.core c).heldAtComb.filterMap fun e => if e.kind = .messageArrival then e.args.msg else none

/-- A core is declared dead for a reason (R319, R320). -/
def State.declareDead (s : State) (c : CoreId) (reason : BitVec 8) : State :=
  let q := s.core c
  if q.dead then s
  else
    let lost := s.lostWith c
    let waiting := q.inbox ++ s.waitingFor c
    let s := s.setCore c q.bury
    let s := s.setPool (combOf c) (keepIf (fun p : CoreId × Message => p.1 ≠ c) (s.pool (combOf c)))
    let s : State := { s with
      waiters := keepIf (fun w => !w.ofCore c) s.waiters
      agenda := keepIf (fun d : Due => !(d.event.kind = .resultUsable && d.event.args.core = c)) s.agenda }
    let s := s.loseLines lost
    let s := s.dir.foldl (fun s d => match s.findDir d.tag d.home with | some d => s.buryAt c d | none => s) s
    let s := waiting.foldl (fun s m => s.bounce c m 5) s
    let notice := noticeOf lost.length reason (q.inc4 + 1) q.inc4 c
    let s := s.logEvent 0x0003 (unitOf c) (logData [(12, 8, notice.toNat)])
    let s := if lost.length > listedLines then s.logEvent 0x0004 (unitOf c) (logData [(12, 4, lost.length - listedLines)]) else s
    if q.plen = 0 then s
    else { s with controller := { s.controller with deadRecords := s.controller.deadRecords ++ [(c, notice, lost.take listedLines)] } }

/-- An error is corrected: the controller counts and logs it, and nothing else sees it (R316, R354). -/
def State.corrected (s : State) (unit : BitVec 16) (addr : Word) : State :=
  ({ s with controller := { s.controller with corrected := s.controller.corrected + 1 } }).logEvent 0x0001 unit (logData [(12, 8, addr.toNat)])

/-- The cores that a directory entry names (R80, R316). -/
def DirEntry.named (d : DirEntry) : List CoreId :=
  (match d.owner with | some o => [o.1] | none => []) ++ sharerCores d.sharers

/-- The cores that an uncorrectable error concerns: those that the entry of a line names for a directory's, else the core itself (R316). -/
def State.concerned (s : State) (a : EventArgs) : List CoreId :=
  if a.code = 3 then match s.findDir a.tag a.comb with | some d => keepIf (fun c => !(s.core c).dead) d.named | none => [] else [a.core]

/-- Core `args.core` is declared dead; `args.num` is the reason (R319, R321). An uncorrectable error, reason 1, is logged before, with its
unit address `args.word` and its kind `args.code`, 2 for core state and 3 for the directory entry of line `args.tag` at `args.comb`,
which declares dead the cores it names (R316, R354). Reason 0 is an error that was corrected: it declares none. -/
def execCoreDeclaredDead (s : State) : Host.Outcome State Fault Refusal :=
  let a := s.args
  if a.num = 0 then .next (s.corrected (unitOf a.core) a.word)
  else
    let dead := s.concerned a
    let s := if a.num ≠ 1 || (a.code ≠ 3 && allOf (fun c => (s.core c).dead) dead) then s
      else s.logEvent 0x0002 (unitOf a.core) (logData [(12, 8, a.word.toNat), (20, 1, a.code.toNat)])
    .next (dead.foldl (fun s c => s.declareDead c (BitVec.ofNat 8 a.num)) s)

/-- A home has waited 2^22 cycles, since cycle `args.num`: the cores that owe it an answer are declared dead (R319). -/
def execAnswerTimeout (s : State) : Host.Outcome State Fault Refusal :=
  let a := s.args
  match s.findDir a.tag a.comb with
  | none => .next s
  | some d =>
    if d.since ≠ a.num then .next s
    else
      let late : List CoreId :=
        match d.state with
        | .inv => d.owed
        | .fwd | .wbp => match d.owner with | some o => [o.1] | none => []
        | .dsc => d.owedCombs.flatMap coresOfComb
        | _ => []
      .next (late.foldl (fun s c => s.declareDead c 2) s)

/-- The entry of a lost line in a dead-core record (R321). -/
def lostEntry (t : LineTag) : Word := t.tenant ++ 0#8 ++ t.line ++ 0#7

/-- The next dead-core record is written once its area's notice word is empty (R321). -/
def execDeadCoreRecord (s : State) : Host.Outcome State Fault Refusal :=
  match s.controller.deadRecords with
  | [] => .next s
  | (c, notice, lines) :: r =>
    let a := deadArea (s.core c).pbase
    if s.memFull a then .next s
    else
      let s := s.writeWords (a + 8) (BitVec.ofNat 64 s.controller.discarded :: lines.map lostEntry)
      .next ({ s with controller := { s.controller with deadRecords := r } }.fillWord { place := .mem a, tag := { tenant := hvTenant, line := BitVec.ofNat 33 (a / 128) }, home := combOf (s.core c).pbase } notice)

end Sys2Proof.Machine
end

