-- ==== Sys2Proof/Machine/Work.lean ====
section
/-!
DEFINITION. How slots get work and give it up: launches, hop arrivals, the deque, steals and gangs (R86 to R90, R98 to R104, R200 to
R206, R341).
-/
namespace Sys2Proof.Machine

/-! Gangs (R98 to R100). -/

def State.findGang (s : State) (id : Nat) : Option Gang := firstOf (fun g => g.id = id) s.gangs
def State.putGang (s : State) (g : Gang) : State := { s with gangs := replaceFirst (fun h => h.id = g.id) g s.gangs }

/-- A waiting member goes on behind its `gbar`. -/
def Slot.passBarrier (t : Slot) : Slot := { t.unpark with pc := t.pc + 4 }

/-- Barrier `n` releases when every active member has arrived (R100). -/
def State.release (s : State) (id : Nat) (n : Nat) : State :=
  match s.findGang id with
  | none => s
  | some g =>
    let here := (g.arrived[n]?).getD []
    if !here.isEmpty && here.length = g.active.length then
      let s := s.putGang { g with arrived := g.arrived.setIfInBounds n [] }
      here.foldl (fun s m => s.modTenantSlot g.tenant m.1 m.2 Slot.passBarrier) s
    else s

/-- A member leaves its gang; with the last one the gang and its barriers are free (R100). -/
def State.leaveGang (s : State) (c : CoreId) (k : SlotId) : State :=
  match (s.slot c k).gang with
  | none => s
  | some (id, _) =>
    match s.findGang id with
    | none => s
    | some g =>
      let g := { g with active := keepIf (fun m => m ≠ (c, k)) g.active }
      if g.active.isEmpty then { s with gangs := keepIf (fun h : Gang => h.id ≠ id) s.gangs }
      else [0, 1, 2, 3].foldl (fun s n => s.release id n) (s.putGang g)

/-- The slot's work ends: it gives up the buffer, its gang and its classes, and enters `idle` (R88, R202, R204). -/
def State.endWork (s : State) (c : CoreId) (k : SlotId) : State :=
  let s := if (s.core c).rep.holder = some k then s.releaseRep c else s
  ((s.leaveGang c k).unbindAll c k).enterIdle c k

/-- A GANG object's fields (R98). -/
def gangFirst (e : BitVec 512) : Nat := field e 383 373
def gangCores (e : BitVec 512) : Nat := field e 372 364 + 1
def gangSpc (e : BitVec 512) : Nat := field e 363 360
def gangNbar (e : BitVec 512) : Nat := field e 359 357

/-- The fields of a GANG object keep their layout (R98, R231, R341). -/
def gangLayoutOk (e : BitVec 512) : Bool := field e 355 7 = 0 && gangSpc e ≠ 0 && gangNbar e ≤ 4

/-- Cores of a gang, ascending. -/
def Gang.cores (g : Gang) : List CoreId := (upFrom g.first.toNat g.ncores).map (BitVec.ofNat 11)

/-- The gang of an object entry, queued (R98). -/
def gangOf (e : BitVec 512) (id : Nat) (index : BitVec 16) (t : Slot) : Gang :=
  { id := id, index := index, tenant := t.tenant, priv := t.priv, pc := e.extractLsb' 448 64, arg := e.extractLsb' 384 64,
    first := BitVec.ofNat 11 (gangFirst e), ncores := gangCores e, spc := gangSpc e, nbar := gangNbar e, light := e.getLsbD 356,
    running := false, reserved := [], active := [], arrived := Vector.replicate 4 [] }

/-- `ganggo` (R99, R205, R341). -/
def execGanggo (x : BitVec 5) (st : State) :=
  run (.ganggo x) (do
    let idx := (← readX x).extractLsb' 0 16
    let e ← useObject (.ganggo x) idx 5
    let s ← get
    let first := gangFirst e
    let last := first + gangCores e - 1
    if last ≥ 2048 || first / 512 ≠ last / 512 || !allOf (fun c => s.inPartition s.cur.core (BitVec.ofNat 11 c)) (upFrom first (gangCores e)) ||
       !gangLayoutOk e then
      trap causeObject (xvalObject (.ganggo x) idx 7)
    let g := gangOf e s.fresh idx s.me
    set { s with fresh := s.fresh + 1, gangs := s.gangs ++ [g],
                 admission := s.admission.setIfInBounds (first / 512) ((s.admission[first / 512]?).getD [] ++ [g.id]) }
    return .step) st

/-- `gbar n` (R100, R206, R341). -/
def execGbar (n : BitVec 2) (st : State) :=
  run (.gbar n) (do
    let s ← get
    match s.me.gang with
    | none => trap causeIllegal (xvalSub (.gbar n) 6)
    | some (id, _) =>
      match s.findGang id with
      | none => trap causeIllegal (xvalSub (.gbar n) 6)
      | some g =>
        if n.toNat ≥ g.nbar then trap causeIllegal (xvalSub (.gbar n) 6)
        let here := (g.arrived[n.toNat]?).getD []
        let s := s.putGang { g with arrived := g.arrived.setIfInBounds n.toNat (here ++ [(s.cur.core, s.cur.slot)]) }
        set ((s.modMe fun t => t.park .barwait (.barrier id n)).release id n.toNat)
        return .stay) st

/-- Barriers of a comb that running gangs hold (R12, R98). -/
def State.barriersHeld (s : State) (b : CombId) : Nat :=
  s.gangs.foldl (fun n g => if g.running && someOf (fun c => combOf c = b) g.cores then n + g.nbar else n) 0

/-- Slots of a core that a gang holds. -/
def Gang.heldAt (g : Gang) (c : CoreId) : List (CoreId × SlotId) := keepIf (fun r => r.1 = c) g.reserved

/-- The gang at the head of the admission queue of a core's die, if it still needs slots of the core (R90, R99). -/
def State.headGang (s : State) (d : BitVec 2) : Option Gang :=
  match (s.admission[d.toNat]'(d.isLt)).head? with
  | some id => s.findGang id
  | none => none

def State.gangNeeds (s : State) (c : CoreId) : Bool :=
  match s.headGang (dieOf c) with
  | some g => someOf (fun d => d = c) g.cores && (g.heldAt c).length < g.spc && s.serves c g.tenant
  | none => false

/-- A gang collects idle slots of its cores (R99). -/
def State.collect (s : State) (g : Gang) : Gang :=
  g.cores.foldl (fun g c =>
    if !s.serves c g.tenant then g
    else
      let need := g.spc - (g.heldAt c).length
      { g with reserved := g.reserved ++ ((s.freeSlots c).take need).map fun k => (c, k) }) g

/-- Members in rank order (R99). -/
def Gang.members (g : Gang) : List (CoreId × SlotId) :=
  g.cores.flatMap fun c => keepIf (fun m => someOf (fun r => r = m) g.reserved) (allSlots.map fun k => (c, k))

/-- A member begins; bits [1:0] of its pc are cleared (R88, R99; DESIGN CHOICE, log 56). -/
def State.beginMember (s : State) (g : Gang) (m : CoreId × SlotId) (rank : Nat) : State :=
  s.modSlot m.1 m.2 fun t =>
    { (t.begin (g.pc &&& ~~~3#64) g.priv g.tenant g.light).setXs
        [(2, (s.core m.1).stackTop m.2), (10, g.arg), (11, BitVec.ofNat 64 rank), (12, BitVec.ofNat 64 (g.ncores * g.spc)), (13, zext g.index)] with
      gang := some (g.id, rank) }

/-- The head gang of die `args.die` reserves idle slots; with every slot and barrier its members begin together (R99). -/
def execGangAdmission (s : State) : Host.Outcome State Fault Refusal :=
  let d := s.args.die
  match s.headGang d with
  | none => .next s
  | some g =>
    let g := s.collect g
    let full := allOf (fun c => (g.heldAt c).length = g.spc) g.cores
    let barred := allOf (fun b => s.barriersHeld b + g.nbar ≤ 16) (combsOf g.cores)
    if full && barred then
      let members := g.members
      let s := s.putGang { g with running := true, reserved := [], active := members }
      let s := { s with admission := s.admission.setIfInBounds d.toNat (s.admission[d.toNat]'(d.isLt)).tail }
      .next ((members.zipIdx).foldl (fun s p => s.beginMember g p.1 p.2) s)
    else .next (s.putGang g)

/-! Class-0 messages (R88, R90, R93). -/

/-- A stage-start message of a folded chain that waits for the fold bank; it holds back no message behind it, one of its own sender's
included (R212; DEDUCED, log 27). -/
def State.awaitsBank (s : State) (c : CoreId) (m : Message) : Bool :=
  match m.body with
  | .stage ref _ =>
    match s.findChain ref with
    | none => false
    | some h => h.form = .folded && (h.folder.isSome || (match (s.core c).foldBank with | some r => r ≠ ref | none => false))
  | _ => false

/-- A stage-start message of a spread chain whose stage still runs: it waits, and those behind it with it (R95, R212; DEDUCED, log 27). -/
def State.awaitsStage (s : State) (m : Message) : Bool :=
  match m.body with
  | .stage ref i =>
    match s.findChain ref with
    | none => false
    | some h => h.form = .spread && (h.stages[i.toNat]'(i.isLt)).status ≠ .waiting
  | _ => false

/-- The class-0 message of a core that starts next: they start in arrival order, whether an idle general slot or the forager is to take
them (R88, R90, R95, R106, R212, R247). -/
def State.nextWork (s : State) (c : CoreId) : Option Message := 
  firstOf (fun m : Message => m.cls = 0 && !s.awaitsBank c m) (s.deliverable c)

/-- The class-0 message of a core that an idle general slot can take (R90). -/
def State.oldestWork (s : State) (c : CoreId) : Option Message :=
  match s.nextWork c with
  | some m => if wantsForager m || s.awaitsStage m then none else some m
  | none => none

/-- A class-0 message that a general slot could take waits at a core, so that the sources behind it are not looked at, even where an older
one holds it back (R90). -/
def State.workWaits (s : State) (c : CoreId) : Bool :=
  someOf (fun m : Message => m.cls = 0 && !wantsForager m && !s.awaitsBank c m && !s.awaitsStage m) (s.deliverable c)

/-- The launch of a core that the forager can take (R88). -/
def State.foragerWork (s : State) (c : CoreId) : Option Message :=
  match s.nextWork c with
  | some m => if wantsForager m then some m else none
  | none => none

/-- The slot that a launch starts, with its registers (R88). -/
def Slot.launched (t : Slot) (stack : Word) (m : Message) (light : Bool) : Slot :=
  let p := (Level.ofCode (m.payload[3].extractLsb' 0 2)).getD .u
  (t.begin (m.payload[0] &&& ~~~3#64) p m.tenant light).setXs [(2, stack), (10, m.payload[1]), (11, m.payload[2]), (14, m.sender)]

/-- A launch at core `args.core` starts its lowest idle general slot, or the forager where `args.slot` says so (R88, R90). -/
def execLaunch (s : State) : Host.Outcome State Fault Refusal :=
  let c := s.args.core
  if s.args.slot = forager then
    match s.foragerWork c with
    | none => .next s
    | some m =>
      let s' := s.takeMessage c m
      if (s.slot c forager).state ≠ .idle then .next (s'.bounce c m 4)
      else if !s.isFree c forager then .next s
      else .next (s'.modSlot c forager fun t => t.launched ((s.core c).stackTop forager) m false)
  else
    match (s.freeSlots c).head?, s.oldestWork c with
    | some k, some m =>
      if m.body = .plain then
        .next ((s.takeMessage c m).modSlot c k fun t => t.launched ((s.core c).stackTop k) m (m.payload[0].getLsbD 0))
      else .next s
    | _, _ => .next s

/-- The thread that a hop carries (R88, R93). -/
def Slot.hopped (t : Slot) (stack : Word) (m : Message) (h : HopState) : Slot :=
  let t := t.begin h.pc ((Level.ofCode h.priv).getD .u) m.tenant true
  let t := t.setXs ((1, (h.xs[0])) :: (2, stack) :: ((upFrom 3 13).map fun n => (BitVec.ofNat 5 n, (h.xs[n - 2]?).getD 0)))
  { t with lb := replaceLow t.lb (fun n => (h.lbs[n]?).getD 0) 4, fflags := h.fflags, fewlim := h.fewlim }

/-- A hop arrival starts the lowest idle general slot of core `args.core` (R90, R93). -/
def execHopArrival (s : State) : Host.Outcome State Fault Refusal :=
  let c := s.args.core
  match (s.freeSlots c).head?, s.oldestWork c with
  | some k, some m =>
    match m.body with
    | .hop h _ => .next ((s.takeMessage c m).modSlot c k fun t => t.hopped ((s.core c).stackTop k) m h)
    | _ => .next s
  | _, _ => .next s

/-! The deque (R102 to R104). -/

/-- The newest element that satisfies `p`, of a list that is oldest first. -/
def lastOf {α : Type} (p : α → Bool) (l : List α) : Option α := firstOf p l.reverse

/-- Remove the newest such element. -/
def removeLast {α : Type} (p : α → Bool) (l : List α) : List α := (removeFirst p l.reverse).reverse

/-- A slot resumes a continuation (R88, R103). -/
def Slot.continued (t : Slot) (stack : Word) (r : Continuation) : Slot :=
  let t := t.begin r.pc r.priv r.tenant false
  { t.setXs ((2, stack) :: (3, r.x3) :: (4, r.x4) :: ((upFrom 24 8).map fun n => (BitVec.ofNat 5 n, (r.h[n - 24]?).getD 0))) with
    mfmt := r.mfmt.setWidth 4 }

/-- The lowest idle general slot of core `args.core` takes the bottom record of the tenant served (R90). -/
def execDequePop (s : State) : Host.Outcome State Fault Refusal :=
  let c := s.args.core
  let fits (r : Continuation) : Bool := s.serves c r.tenant
  match (s.freeSlots c).head?, lastOf fits (s.core c).deque with
  | some k, some r =>
    .next ((s.modCore c fun q => { q with deque := removeLast fits q.deque }).modSlot c k fun t => t.continued ((s.core c).stackTop k) r)
  | _, _ => .next s

/-- Comb indices of a die by distance from one, lower first on ties (R104). -/
def combRing (h : Nat) : List Nat :=
  (upFrom 1 63).flatMap fun d => (if d ≤ h then [h - d] else []) ++ (if h + d ≤ 63 then [h + d] else [])

/-- The victims of a core, in order (R104). -/
def victims (c : CoreId) : List CoreId :=
  let n := c.toNat
  let comb := n / 8
  let die := n / 512
  let own := (upFrom 1 7).map fun i => BitVec.ofNat 11 (comb * 8 + (n % 8 + i) % 8)
  let near := (combRing (comb % 64)).flatMap fun h => (upFrom ((die * 64 + h) * 8) 8).map (BitVec.ofNat 11)
  let far := [1, 2, 3].flatMap fun d => (upFrom ((die + d) % 4 * 512) 512).map (BitVec.ofNat 11)
  own ++ near ++ far

/-- A record that core `c` may steal from `v`: of the tenant it serves, in its partition (R104). -/
def State.stealable (s : State) (c v : CoreId) : Option Continuation :=
  if s.inPartition c v then firstOf (fun r : Continuation => s.serves c r.tenant) (s.core v).deque else none

/-- The first victim with a record for a core; cores that the state does not list hold none. -/
def State.victim (s : State) (c : CoreId) : Option CoreId :=
  if !someOf (fun p : Nat × Core => !p.2.deque.isEmpty && p.1 ≠ c.toNat) s.cores then none
  else firstOf (fun v => (s.stealable c v).isSome) (victims c)

/-- The thief takes the top record of a victim, for its slot `k`. -/
def State.robbed (s : State) (c v : CoreId) (k : SlotId) (r : Continuation) : State :=
  (s.modCore v fun q => { q with deque := removeFirst (fun r : Continuation => s.serves c r.tenant) q.deque }).modSlot c k fun t =>
    t.continued ((s.core c).stackTop k) r

/-- Core `args.core` steals the top record of its first victim that has one, which powers up first if it is gated (R104, R304). -/
def execSteal (s : State) : Host.Outcome State Fault Refusal :=
  let c := s.args.core
  match (s.freeSlots c).head?, s.victim c with
  | some k, some v =>
    match s.stealable c v with
    | some r => .next (s.arriveAt v { kind := .steal, args := s.args } fun s => s.robbed c v k r)
    | none => .next s
  | _, _ => .next s

/-- A steal of a core is under way: it attempts one at a time (R90, R304). -/
def State.stealing (s : State) (c : CoreId) : Bool :=
  let mine (e : Event) : Bool := e.kind = .steal && e.args.core = c
  someOf (fun d : Due => mine d.event) s.agenda || someOf (fun p : Nat × Core => someOf mine p.2.heldAtComb) s.cores

/-! Tasks (R101, R103, R200). -/

/-- A frame's count, for a read-modify-write at its home: its value and place (R101, R341). -/
def frameCount (f : Word) : M (WordLoc × Word) := do
  if !multipleOf 16 f then trap causeAlign f
  let l ← locate f 8 .rmw
  checkGood l f 8
  modify fun s => (s.noteStageTwo l).recall l
  return (l.place, BitVec.ofNat 64 ((← get).readLoc l.place 8))

/-- The hardware's record in word 1 of a frame, at its place `l` (R101, R317). -/
def frameRecord (l : WordLoc) (f : Word) : M Word := do
  match (← get).badWord (l.plus 8) (f + 8) 8 with
  | some w => trap causeUncorrectable w
  | none => return BitVec.ofNat 64 ((← get).readLoc (l.plus 8) 8)

/-- A whole word stored (R318). -/
def writeWord (l : WordLoc) (v : Word) : M Unit := modify fun s => s.storeLoc l 8 v.toNat

/-- Records that the deque holds at most (R102). -/
def dequeLimit : Nat := 256

/-- `spawn` (R103). -/
def execSpawn (x : BitVec 5) (i : BitVec 12) (st : State) :=
  run (.spawn x i) (do
    let f ← readX x
    if !multipleOf 16 f then trap causeAlign f
    let s ← get
    let t := s.me
    let target := t.pc + sext i * 4
    if s.myCore.deque.length < dequeLimit then
      let (l, n) ← frameCount f
      writeWord l (n + 1)
      let r : Continuation :=
        { pc := t.pc + 4, frame := f, mfmt := zext t.mfmt, slot := s.cur.slot, inc := t.inc, tenant := t.tenant, priv := t.priv,
          x3 := t.getX 3, x4 := t.getX 4, h := Vector.ofFn fun n => t.getX (BitVec.ofNat 5 (24 + n)) }
      modMyCore fun q => { q with deque := q.deque ++ [r] }
      writeX 1 f
    else writeX 1 ((t.pc + 4) ||| 1#64)
    return .to target) st

/-- The core where the slot that a frame's word 1 records waits in `sync`: the one recorded, or the one to which its context has been moved,
which keeps its slot number and incarnation (R103, R273; DEDUCED, log 28). -/
def State.joinPlace (s : State) (tenant : BitVec 16) (frame w : Word) : Option CoreId :=
  let k := destSlot w
  let waits (c : CoreId) : Bool :=
    let t := s.tenantSlot tenant c k
    t.state = .joinwait && t.wait = .frame frame && t.inc = destInc w
  firstOf (fun c => waits c && (c = destCore w || (s.tenantSlot tenant c k).tenant = tenant)) (destCore w :: s.coreIds)

/-- The slot that a frame's word 1 records goes on behind its `sync`, once its core is powered (R103, R304). -/
def State.rejoin (s : State) (tenant : BitVec 16) (frame w : Word) : State :=
  let k := destSlot w
  match s.joinPlace tenant frame w with
  | none => s
  | some c =>
    if s.switchedOut tenant c k then s.joined tenant c k frame
    else s.arriveAt c { kind := .resultUsable, args := { core := c, slot := k, word := frame, tenant := tenant, flag := true, num := 4 } } fun s =>
      s.joined tenant c k frame

/-- `sret` (R103, R341). -/
def execSret (st : State) :=
  run .sret (do
    let s ← get
    let t := s.me
    let f := t.getX 1
    if f.getLsbD 0 then
      let target := f &&& ~~~1#64
      if target.getLsbD 1 then trap causeTarget target
      return .to target
    else
      let (l, n) ← frameCount f
      writeWord l (n - 1)
      if n = 1 then
        let w ← frameRecord l f
        writeWord (l.plus 8) 0
        if w ≠ 0 then modify fun s => s.rejoin t.tenant f w
      let mine (r : Continuation) : Bool := r.slot = s.cur.slot && r.inc = t.inc && r.tenant = t.tenant && r.frame = f
      match lastOf mine (← get).myCore.deque with
      | some r =>
        modMyCore fun q => { q with deque := removeLast mine q.deque }
        modMe fun t => { t with mfmt := r.mfmt.setWidth 4 }
        return .to r.pc
      | none =>
        modify fun s => s.endWork s.cur.core s.cur.slot
        return .stay) st

/-- `sync`: the slot's own checked destination word is its record in word 1 (R101, R103; DEDUCED, log 28). -/
def execSync (x : BitVec 5) (st : State) :=
  run (.sync x) (do
    let f ← readX x
    let (l, n) ← frameCount f
    if n = 0 then return .step
    else
      let s ← get
      writeWord (l.plus 8) (s.checkedWord s.cur.core s.cur.slot)
      modMe fun t => t.park .joinwait (.frame f)
      return .stay) st

/-- `yield`: the selector passes the slot over once (R91, R201). -/
def execYield (st : State) :=
  run .yield (do
    modMe fun t => { t with yielded := true }
    return .step) st

/-! Hops (R93, R202). -/

/-- What a hop carries. -/
def Slot.pack (t : Slot) : HopState :=
  { pc := t.pc + 4, priv := t.priv.code, fflags := t.fflags, fewlim := t.fewlim,
    xs := Vector.ofFn fun n => t.getX (BitVec.ofNat 5 (if n.val = 0 then 1 else n.val + 2)),
    lbs := Vector.ofFn fun n => t.getL (BitVec.ofNat 3 n.val) }

/-- The conditions of cause 0x13 that hold for the acting slot, lowest first, `bad` being that of the target (R296). -/
def hopRefused (i : Instr) (bad : Bool) : M Unit := do
  let s ← get
  if !s.me.light then trap causeHop (xvalUnit i 0 1)
  if bad then trap causeHop (xvalUnit i 0 2)
  if s.holdsClass s.cur.core s.cur.slot then trap causeHop (xvalUnit i 0 3)
  if s.me.form.isSome || s.cur.slot = forager then trap causeHop (xvalUnit i 0 4)

/-- The slot's earlier accesses and results must be done (R202). -/
def needDrained : M Unit := do
  if !(← get).me.drained then parkAs .memwait .earlier

/-- The thread leaves for a core, or for its home comb by way of core `c` of it: its message is built, and the slot is idle (R93, R94, R202).
The message takes an entry of the interface as a send's does (DESIGN CHOICE, log 61). -/
def leaveFor (c : CoreId) (home : Option CombId) : M Flow := do
  needDrained
  let s ← get
  if s.myCore.iface.length ≥ 8 then parkAs .memwait .interface
  let t := s.me
  let m : Message :=
    { dest := slotIdWord s.endpoint c 0, sender := s.senderWord s.cur.core s.cur.slot, tenant := t.tenant, cls := 0, origin := .slot,
      payload := #v[t.pc + 4, 0#46 ++ t.priv.code ++ t.tenant, zext t.fflags, t.fewlim], body := .hop t.pack home }
  modMyCore fun q => { q with iface := q.iface ++ [m] }
  modify fun s => (s.route s.cur.core m).endWork s.cur.core s.cur.slot
  return .stay

def execHop (x : BitVec 5) (st : State) :=
  run (.hop x) (do
    let w ← readX x
    let s ← get
    let c : CoreId := w.extractLsb' 0 11
    hopRefused (.hop x) (bits w 63 11 ≠ 0 || !s.inPartition s.cur.core c)
    leaveFor c none) st

end Sys2Proof.Machine
end

