-- ==== Sys2Proof/Machine/Chains.lean ====
section
/-!
DEFINITION. Chains: starting them, their link forms, the end of a stage, and switching a chain's form (R211 to R216, R233, R292, R296,
R301, R341, R343); and `stop`, which also ends a stage (R204).
-/
namespace Sys2Proof.Machine

/-! CHAIN objects (R211). -/

def chainNst (e : BitVec 512) : Nat := field e 127 126
def chainPc (e : BitVec 512) (i : Nat) : Word := e.extractLsb' (448 - 64 * i) 64

/-- nst and pc fields as R211 requires. -/
def chainFormed (e : BitVec 512) : Bool :=
  chainNst e ≠ 0 &&
  allOf (fun i => if i ≤ chainNst e then multipleOf 4 (chainPc e i) else chainPc e i = 0) [0, 1, 2, 3]

/-- Stages on cores first + i stay in first's comb and the issuing partition (R212). -/
def State.spreadFits (s : State) (c first : CoreId) (nst : Nat) : Bool :=
  first.toNat % 8 + nst ≤ 7 && allOf (fun i => s.inPartition c (first + BitVec.ofNat 11 i)) (List.range (nst + 1))

/-- A stage before it starts (R212). -/
def freshStage (pc arg : Word) (i nst : Nat) : Stage :=
  { status := .waiting, place := none, pc := pc,
    x := Vector.ofFn fun n => if n.val = 10 then arg else if n.val = 11 then BitVec.ofNat 64 i else if n.val = 12 then BitVec.ofNat 64 (nst + 1) else 0,
    v := Vector.replicate 4 0, fflags := 0, fewlim := 0, halted := false, need := none, cause := none }

/-- The chain of an object entry; each spread chain has neighbour queues of its own (R212; DESIGN CHOICE, log 92). -/
def chainOf (e : BitVec 512) (ref : ChainRef) (form : ChainForm) (priv : Level) : Chain :=
  { ref := ref, form := form, priv := priv, nst := chainNst e, entry := Vector.ofFn fun i => chainPc e i,
    done := e.extractLsb' 192 64, arg := e.extractLsb' 128 64,
    stages := Vector.ofFn fun i => freshStage (chainPc e i) (e.extractLsb' 128 64) i (chainNst e),
    links := Vector.replicate 3 { words := [], transit := [], closing := false, closed := false },
    folder := none, running := BitVec.ofNat 2 (chainNst e), switching := none }

/-- A stage-start message leaves (R212). -/
def State.sendStart (s : State) (from_ : Place) (h : Chain) (i : Nat) : State :=
  let m : Message :=
    { dest := slotIdWord s.endpoint (h.ref.first + BitVec.ofNat 11 i) 0, sender := s.senderWord from_.core from_.slot, tenant := h.ref.tenant,
      cls := 0, origin := .slot, payload := #v[0, 0, 0, 0], body := .stage h.ref (BitVec.ofNat 2 i) }
  s.route from_.core m

/-- The stage-start messages of a chain in its form: one for each stage that waits, or one for the folded slot (R212). -/
def State.sendStarts (s : State) (from_ : Place) (h : Chain) : State :=
  match h.form with
  | .folded => s.sendStart from_ h 0
  | .spread => (List.range (h.nst + 1)).foldl (fun s i => if (h.stage (BitVec.ofNat 2 i)).status = .waiting then s.sendStart from_ h i else s) s

/-- `chgo` (R212, R296, R341). -/
def execChgo (x y : BitVec 5) (f : ChainForm) (st : State) :=
  run (.chgo x y f) (do
    let i : Instr := .chgo x y f
    let idx := (← readX x).extractLsb' 0 16
    let first : CoreId := (← readX y).extractLsb' 0 11
    let e ← useObject i idx 4
    let s ← get
    let fits := match f with | .spread => s.spreadFits s.cur.core first (chainNst e) | .folded => s.inPartition s.cur.core first
    if !fits then trap causeChain (xvalUnit i 0 5)
    if !chainFormed e then trap causeChain (xvalUnit i 0 6)
    let h := chainOf e { tenant := s.me.tenant, index := idx, first := first } f s.me.priv
    set ({ s with chains := s.chains ++ [h] }.sendStarts s.cur h)
    return .step) st

/-! Stages begin (R88, R212). -/

/-- The slot that a stage or a folded chain starts in. -/
def Slot.beginStage (t : Slot) (h : Chain) (i : BitVec 2) : Slot :=
  { (h.stage i).load i (t.begin (h.stage i).pc h.priv h.ref.tenant false) with form := some h.form, chain := some h.ref }

/-- Stages that wait for the folded slot are live once it has begun. -/
def Chain.enliven (h : Chain) : Chain :=
  { h with stages := h.stages.map fun g => if g.status = .waiting then { g with status := .live } else g }

/-- A stage-start message starts the lowest idle general slot of core `args.core` (R90, R212, R233). -/
def execStageStart (s : State) : Host.Outcome State Fault Refusal :=
  let c := s.args.core
  match (s.freeSlots c).head?, s.oldestWork c with
  | some k, some m =>
    match m.body with
    | .stage ref i =>
      match s.findChain ref with
      | none => .next (s.takeMessage c m)
      | some h =>
        let s := s.takeMessage c m
        match h.form with
        | .spread =>
          let s := s.modSlot c k fun t => t.beginStage h i
          .next (s.putChain (h.setStage i { h.stage i with status := .live, place := some (c, k), need := none, cause := none }))
        | .folded =>
          let h := { h.enliven with folder := some (c, k) }
          let s := s.modCore c fun q => { q with foldBank := some ref }
          let s := s.modSlot c k fun t => t.beginStage h (BitVec.ofNat 2 h.nst)
          .next (s.switchStage h c k none)
    | _ => .next s
  | _, _ => .next s

/-! Link forms (R214, R216, R296). -/

def Chain.setLink (h : Chain) (l : Nat) (k : Link) : Chain := { h with links := h.links.setIfInBounds l k }

/-- The chain of the acting stage, for a form that pops or pushes; steps of cause 0x0F (R296). -/
def linkStage (i : Instr) (pops pushes : Bool) : M Chain := do
  let s ← get
  let t := s.me
  match t.chain, (if t.form.isSome && t.nesting = 0 then t.chain.bind s.findChain else none) with
  | some _, some h =>
    if (pops && t.stage = 0) || (pushes && t.stage.toNat = h.nst) then trap causeChain (xvalUnit i t.stageUnit 2)
    return h
  | _, _ => trap causeChain (xvalUnit i 0 1)

/-- The form waits for its link, or hands the folded slot to another stage (R214, R216). -/
def waitLink (h : Chain) (l : Nat) (pop : Bool) (need : Nat) : M Flow := do
  let s ← get
  let link : BitVec 2 := BitVec.ofNat 2 l
  match h.form with
  | .folded =>
    let other : BitVec 2 := BitVec.ofNat 2 (if pop then l else l + 1)
    set (s.switchStage (s.putAway h s.cur.core s.cur.slot .live (some (link, pop, need))) s.cur.core s.cur.slot (some other))
    return .stay
  | .spread => engineWait (.link h.ref link pop need)

/-- `n` words popped from the upstream link go to `f`; at its end the form branches by `off` (R214). -/
def popBody (i : Instr) (n : Nat) (off : BitVec 12) (f : List Word → M Unit) : M Flow := do
  let h ← linkStage i true false
  let s ← get
  let l := s.me.stage.toNat - 1
  let k := h.link l
  if k.words.length ≥ n then
    set (s.putChain (h.setLink l { k with words := k.words.drop n }))
    f (k.words.take n)
    return .step
  else if k.closed then return .to (s.me.pc + sext off * 4)
  else waitLink h l true n

/-- Words pushed on the downstream link: at once in folded form, through the neighbour queue in spread form (R211, R214). -/
def State.push (s : State) (h : Chain) (l : Nat) (ws : List Word) : State :=
  let k := h.link l
  match h.form with
  | .folded => s.putChain (h.setLink l { k with words := k.words ++ ws })
  | .spread =>
    let s := s.putChain (h.setLink l { k with transit := k.transit ++ ws })
    ws.foldl (fun s _ => s.post .neighbourQueueArrival { chain := h.ref, link := BitVec.ofNat 2 l } 1) s

def pushBody (i : Instr) (ws : List Word) : M Flow := do
  let h ← linkStage i false true
  let s ← get
  let l := s.me.stage.toNat
  if (h.stage (s.me.stage + 1)).status = .ended then return .step
  else if h.linkReady s.me.stage false ws.length then
    set (s.push h l ws)
    return .step
  else waitLink h l false ws.length

def execGet (d : BitVec 5) (i : BitVec 12) (st : State) :=
  run (.get d i) (popBody (.get d i) 1 i fun ws => writeX d (wordAt ws 0)) st

def execPut (x : BitVec 5) (st : State) :=
  run (.put x) (do pushBody (.put x) [← readX x]) st

/-- A vector register of eight 64-bit words, lane 0 first. -/
def vecOfWords (ws : List Word) : VecWord := BitVec.ofNat 512 (ws.reverse.foldl (fun n w => n * 2 ^ 64 + w.toNat) 0)

def execVget (d : BitVec 4) (i : BitVec 12) (st : State) :=
  run (.vget d i) (popBody (.vget d i) 8 i fun ws => modMe fun t => t.setV d (vecOfWords ws)) st

def execVput (a : BitVec 4) (st : State) :=
  run (.vput a) (do pushBody (.vput a) (vecWords ((← get).me.getV a))) st

/-- A word, or the close behind the last one, arrives in the downstream core's neighbour queue (R214). -/
def execNeighbourQueueArrival (s : State) : Host.Outcome State Fault Refusal :=
  match s.findChain s.args.chain with
  | none => .next s
  | some h =>
    let l := s.args.link.toNat
    let k := h.link l
    match k.transit with
    | w :: r => .next (s.putChain (h.setLink l { k with words := k.words ++ [w], transit := r }))
    | [] => if k.closing then .next (s.putChain (h.setLink l { k with closed := true })) else .next s

/-! The end of a stage (R214, R301). -/

/-- The chain has ended or a switch of it is done: slots that wait in `chsw` go on, its issuer behind the form (R233). -/
def State.finishSwitch (s : State) (h : Chain) : State :=
  let s := match h.switching with
    | some (_, c, k, _) =>
      s.modTenantSlot h.ref.tenant c k fun t => if t.wait = Wait.engine (.chainSwitch h.ref) then { t.unpark with pc := t.pc + 4 } else t
    | none => s
  let waits (t : Slot) : Bool := t.wait = Wait.engine (.chainSwitch h.ref)
  let s := (keepIf (fun p : Parked => waits p.kept) s.parked).foldl (fun s p => s.modTenantSlot p.tenant p.core p.slot Slot.unpark) s
  s.coreIds.foldl (fun s c => allSlots.foldl (fun s k => if waits (s.slot c k) then s.modSlot c k Slot.unpark else s) s) s

/-- The done word, checked when the acting stage is the last that has not ended (R214). One in the scratchpad window, which R211 does not have, is
a word of the core where that stage ends (DESIGN CHOICE, log 91). -/
def doneWord (h : Chain) (i : BitVec 2) : M (Option Loc) := do
  if allOf (fun j => j = i || (h.stage j).status = .ended) h.downstreamFirst then return some (← locate h.done 8 .rmw)
  else return none

/-- The acting stage ends: its downstream link closes, its upstream words are discarded, and the last one writes the done word (R214,
R216, R292, R301). -/
def endStage (h : Chain) : M Flow := do
  let s ← get
  let c := s.cur.core
  let k := s.cur.slot
  let i := s.me.stage
  let loc ← doneWord h i
  let folded := h.form = .folded
  let d := h.link i.toNat
  let h := if i.toNat < h.nst then h.setLink i.toNat (if folded then { d with closed := true } else { d with closing := true }) else h
  let h := if i = 0 then h else h.setLink (i.toNat - 1) { h.link (i.toNat - 1) with words := [] }
  let h := h.setStage i { h.stage i with status := .ended, place := none }
  match loc with
  | some l =>
    let s := (s.noteStageTwo l).recall l
    let s := ({ s with chains := removeFirst (fun g => g.ref = h.ref) s.chains } : State).writeWithBit l 1 true
    let s := if folded then s.modCore c fun q => { q with foldBank := none } else s
    set ((s.endWork c k).finishSwitch h)
    return .stay
  | none =>
    if folded then
      let s := if s.me.nesting = 0 then s else s.modMe fun t => { t with priv := h.priv, ie := h.priv = .u, nesting := 0 }
      set (s.switchStage h c k none)
      return .stay
    else
      let s := if i.toNat < h.nst then s.post .neighbourQueueArrival { chain := h.ref, link := i } 1 else s
      set ((s.putChain h).endWork c k)
      return .stay

def execChend (st : State) :=
  run .chend (do
    let h ← linkStage .chend false false
    endStage h) st

/-- The first accumulator that the slot owns with operations queued (R204). -/
def Core.busyAccumulator (q : Core) (k : SlotId) : Option (BitVec 2) :=
  firstOf (fun z : BitVec 2 => (q.zaOwner[z.toNat]'(z.isLt)).map Prod.fst = some k && someOf (fun o : MatrixOp => o.z = z) q.matrix) [0, 1, 2, 3]

/-- The slot's accumulators are free (R165, R204). -/
def Core.dropAccumulators (q : Core) (k : SlotId) : Core :=
  { q with zaOwner := q.zaOwner.map fun o => if o.map Prod.fst = some k then none else o }

/-- `stop` (R204, R301, R341). It waits for its matrix operations in `engwait` (DESIGN CHOICE, log 93). -/
def execStop (st : State) :=
  run .stop (do
    waitEarlier
    let s ← get
    let c := s.cur.core
    let k := s.cur.slot
    match s.myCore.busyAccumulator k with
    | some z => engineWait (.release z)
    | none =>
      match (if s.me.form.isSome then s.me.chain.bind s.findChain else none) with
      | some h => endStage h
      | none =>
        set ((s.modCore c fun q => q.dropAccumulators k).endWork c k)
        return .stay) st

/-! Switching form (R233, R292). -/

/-- The link form at which a slot or a put-away stage stands: what it needs, `none` for `chend` (R215). -/
def pointOf (nst stage : Nat) : Instr → Option (Option (BitVec 2 × Bool × Nat))
  | .get _ _ => some (some (BitVec.ofNat 2 (stage - 1), true, 1))
  | .vget _ _ => some (some (BitVec.ofNat 2 (stage - 1), true, 8))
  | .put _ => some (if stage < nst then some (BitVec.ofNat 2 stage, false, 1) else none)
  | .vput _ => some (if stage < nst then some (BitVec.ofNat 2 stage, false, 8) else none)
  | .chend => some none
  | _ => none

/-- The instruction at a slot's pc, if it can be fetched now. -/
def State.peek (s : State) (c : CoreId) (k : SlotId) : Option Instr :=
  match s.fetch c k with
  | .ok (w, _) => (decode w).toOption
  | .error _ => none

/-- The equivalence point at which stage `i` stands now, if it does: the link form that it waits on, or comes to next; one whose tenant is switched out stands at none (R215, R270, R301). -/
def State.stagePoint (s : State) (h : Chain) (i : BitVec 2) : Option (Option (BitVec 2 × Bool × Nat)) :=
  let g := h.stage i
  match h.form with
  | .spread =>
    match g.place with
    | some (c, k) =>
      if s.switchedOut h.ref.tenant c k then none else
      let t := s.slot c k
      if t.nesting ≠ 0 || t.stopped || t.cause.isSome then none
      else
        match t.wait with
        | .engine (.link _ l pop need) => some (some (l, pop, need))
        | _ => if t.state = .run then (s.peek c k).bind (pointOf h.nst i.toNat) else none
    | none => none
  | .folded =>
    match h.folder with
    | some (c, k) =>
      if s.switchedOut h.ref.tenant c k then none else
      let t := s.slot c k
      let parked := t.state = .fewait && t.wait = .stages h.ref
      if h.running = i && !parked then
        if t.nesting = 0 && t.state = .run && !t.stopped && t.cause.isNone then (s.peek c k).bind (pointOf h.nst i.toNat) else none
      else if g.need.isSome then some g.need else none
    | none => none

/-- The next stage for a stop message: those that have ended are passed. -/
def Chain.nextStop (h : Chain) (n : Nat) : Option (BitVec 2) :=
  firstOf (fun i : BitVec 2 => n ≤ i.toNat && i.toNat ≤ h.nst && (h.stage i).status ≠ .ended) [0, 1, 2, 3]

/-- Stage `i` halts at its point (R233, step 1). -/
def State.haltStage (s : State) (h : Chain) (i : BitVec 2) (need : Option (BitVec 2 × Bool × Nat)) : State :=
  match h.form with
  | .spread =>
    match (h.stage i).place with
    | some (c, k) =>
      (s.putChain (h.setStage i { (h.stage i).save (s.slot c k) with halted := true, need := need })).modSlot c k fun t =>
        t.unpark.stop s.now
    | none => s
  | .folded =>
    match h.folder with
    | some (c, k) =>
      let t := s.slot c k
      if h.running = i && !(t.state = .fewait && t.wait = .stages h.ref) then
        let h := s.putAway h c k .live need
        s.switchStage (h.setStage i { h.stage i with halted := true }) c k none
      else s.putChain (h.setStage i { h.stage i with halted := true })
    | none => s

/-- Words and closes in transit count as in the link (R292). -/
def Link.settle (k : Link) : Link := { words := k.words ++ k.transit, transit := [], closing := false, closed := k.closed || k.closing }

/-- Spread to folded (R233, step 2). -/
def State.fold (s : State) (h : Chain) (issuer : Place) : State :=
  let first := h.ref.first
  let h0 := { h with form := .folded, links := h.links.map Link.settle, switching := none }
  let s := s.modCore first fun q => { q with foldBank := some h.ref }
  let keep := (h.stage 0).status ≠ .ended
  let leave (s : State) (i : BitVec 2) : State :=
    match (h.stage i).place with
    | some (c, k) => if i = 0 && keep then s else s.endWork c k
    | none => s
  let s := ([0, 1, 2, 3] : List (BitVec 2)).foldl leave s
  let stages := h0.stages.map fun g => { g with place := none, halted := false }
  match (if keep then (h.stage 0).place else none) with
  | some (c, k) =>
    let h1 := { h0 with stages := stages, folder := some (c, k) }
    (s.modSlot c k fun t => { t with stopped := false, form := some .folded }).switchStage h1 c k none
  | none =>
    let h1 := { h0 with stages := stages.map fun g => if g.status = .live then { g with status := .waiting } else g, folder := none }
    (s.putChain h1).sendStarts issuer h1

/-- Folded to spread (R233, step 3). -/
def State.unfold (s : State) (h : Chain) (issuer : Place) : State :=
  let h1 : Chain := { h with
    form := .spread, folder := none, switching := none,
    stages := h.stages.map fun g => { g with halted := false, status := if g.status = .ended then .ended else .waiting } }
  let s := s.modCore h.ref.first fun q => { q with foldBank := none }
  let s := match h.folder with | some (c, k) => s.endWork c k | none => s
  (s.putChain h1).sendStarts issuer h1

/-- The slots in which a chain stands. -/
def Chain.places (h : Chain) : List (CoreId × SlotId) :=
  match h.form with
  | .folded => h.folder.toList
  | .spread => h.stages.toList.filterMap (·.place)

/-- The hand-over can be made: the chain's tenant is in its slots, and a fold bank is free for the chain (R233, R270). -/
def State.canHandOver (s : State) (h : Chain) : Bool :=
  allOf (fun p : CoreId × SlotId => !s.switchedOut h.ref.tenant p.1 p.2) h.places && (h.form = .folded || (s.core h.ref.first).foldBank.isNone)

/-- The next stage that a freeze halts: the first that has neither ended nor halted (R346). -/
def Chain.nextHalt (h : Chain) : Option (BitVec 2) :=
  firstOf (fun i : BitVec 2 => i.toNat ≤ h.nst && (h.stage i).status ≠ .ended && !(h.stage i).halted) [0, 1, 2, 3]

/-- The chain's tenant is not served: its stages run no more, and a freeze finds each halted where it stands (R346; DEDUCED, log 62). -/
def State.chainOut (s : State) (h : Chain) : Bool :=
  match s.schedulerOf (s.core h.ref.first).pbase with
  | some d => !d.admitted.isEmpty && d.served ≠ some h.ref.tenant
  | none => false

/-- The stop message of a switch or a freeze can act: its next stage stands at a point, or, for a switch, every stage has halted (R233,
R346). -/
def State.stopReady (s : State) (h : Chain) : Bool :=
  match h.switching with
  | none => s.freezes h.ref.tenant && (match h.nextHalt with | some i => (s.stagePoint h i).isSome | none => false)
  | some (_, _, _, n) =>
    match h.nextStop n with
    | some i => (s.stagePoint h i).isSome
    | none => s.canHandOver h

/-- The stop message of chain `args.chain` visits its next stage; after the last, links and registers are handed over (R233, R292). -/
def execChainStopMessage (s : State) : Host.Outcome State Fault Refusal :=
  match s.findChain s.args.chain with
  | none => .next s
  | some h =>
    match h.switching with
    | none =>
      match s.freezes h.ref.tenant, h.nextHalt with
      | true, some i =>
        match s.stagePoint h i with | some need => .next (s.haltStage h i need) | none => .next s
      | _, _ => .next s
    | some (f, c, k, n) =>
      match h.nextStop n with
      | some i =>
        match s.stagePoint h i with
        | some need => .next (s.haltStage { h with switching := some (f, c, k, i.toNat + 1) } i need)
        | none => .next s
      | none =>
        if !s.canHandOver h then .next s
        else
          let p : Place := { core := c, slot := k }
          let s := match f with | .folded => s.fold h p | .spread => s.unfold h p
          .next (s.finishSwitch h)

/-- `chsw` (R233, R296, R343). -/
def execChsw (x : BitVec 5) (f : ChainForm) (st : State) :=
  run (.chsw x f) (do
    let i : Instr := .chsw x f
    let w ← readX x
    if bits w 63 27 ≠ 0 then trap causeIllegal (xvalSub i 7)
    let idx := w.extractLsb' 0 16
    let first : CoreId := w.extractLsb' 16 11
    let _ ← useObject i idx 4
    let s ← get
    let ref : ChainRef := { tenant := s.me.tenant, index := idx, first := first }
    match s.findChain ref with
    | none => return .step
    | some h =>
      if h.form = f && h.switching.isNone then return .step
      if h.switching.isSome then engineWait (.chainSwitch ref)
      if f = .spread && !s.spreadFits s.cur.core first h.nst then trap causeChain (xvalUnit i 0 5)
      set ((s.putChain { h with switching := some (f, s.cur.core, s.cur.slot, 0) }).modMe fun t => t.park .engwait (.engine (.chainSwitch ref)))
      return .stay) st

end Sys2Proof.Machine
end

