-- ==== Sys2Proof/Machine/KeyPool.lean ====
section
/-!
DEFINITION. Keyed regions in memory: the object entry, the pools and how key engines reach them, the control block, the prefix map,
index nodes, records (R33 to R36, R40, R41, R329). Numbers of 104 and 128 bits are natural numbers here.
-/
namespace Sys2Proof.Machine

/-- Bits [hi:lo] of a number. -/
def part (v hi lo : Nat) : Nat := v / 2 ^ lo % 2 ^ (hi - lo + 1)

/-- A keyed region as a form uses it: its object entry, and the slot in whose address space its pools lie (R33). -/
structure Region where
  form : Instr
  index : BitVec 12
  agent : Slot
  entry : BitVec 512
  /-- The combs c_0, c_1 and on of the region (R34). -/
  combs : List CombId
  /-- Which of the regions that its index has had: how many were retired before it (R328). -/
  era : Nat := 0
  deriving DecidableEq, Repr

def Region.rpbase (r : Region) : Nat := field r.entry 511 448
def Region.rplim (r : Region) : Nat := field r.entry 447 384
def Region.ixbase (r : Region) : Nat := field r.entry 383 320
def Region.ixlim (r : Region) : Nat := field r.entry 319 256
def Region.shape (r : Region) : Nat := field r.entry 255 240
def Region.hmode (r : Region) : Nat := field r.entry 227 226
def Region.gap (r : Region) : Nat := field r.entry 225 224
def Region.norelabel (r : Region) : Bool := r.entry.getLsbD 223
def Region.sparse (r : Region) : Bool := r.entry.getLsbD 222
def Region.rsize (r : Region) : Nat := field r.entry 221 217
def Region.efmt (r : Region) : Nat := field r.entry 216 214
/-- Bytes of a record (R33). -/
def Region.recordBytes (r : Region) : Nat := 8 * (r.rsize + 1)
/-- The primary comb (R34). -/
def Region.primary (r : Region) : CombId := r.combs.headD 0

/-- Regions of a tenant retired at an index so far (R328). -/
def State.eraOf (s : State) (tenant : BitVec 16) (index : BitVec 12) : Nat := (keepIf (fun r => r = (tenant, index)) s.retired).length

/-- The region is the one that its index names now: an operation in progress outlives its region (R328). -/
def State.current (s : State) (r : Region) : Bool := r.era = s.eraOf r.agent.tenant r.index

/-- The combs that the home fields of a KREGION name, none when they name no comb, or what stops the read of the mask table (R34). -/
def State.regionCombs (s : State) (t : Slot) (e : BitVec 512) : Except Granted (List CombId) :=
  match field e 227 226 with
  | 1 => .ok (if field e 239 236 = 0 then [e.extractLsb' 228 8] else [])
  | 2 => s.maskCombs t (field e 239 228)
  | _ => .ok []

/-! Reaching the pools (R329). -/

/-- A place in a pool. -/
def poolLoc (home : CombId) (tenant : BitVec 16) (a gpa : Nat) : Loc :=
  { place := .mem a, tag := { tenant := tenant, line := BitVec.ofNat 33 (gpa / 128) }, home := home }

/-- What the second stage makes of a pool access that it refuses: a keyed form traps 0x14, a transfer ends as one without the right (R313,
R329). -/
def Region.refusal (r : Region) : BitVec 8 := match r.form with | .sdense _ _ _ _ | .ssparse _ _ _ _ => causeDenied | _ => causeConverted

/-- The place of a pool address that the walk of the region's address space leads to; its line's home is the leaf's (R69). The leaf's U bit is not
tested: R15 has the two pools flat without saying at which level a key engine reaches them (DESIGN CHOICE, log 86). -/
def poolWalk (r : Region) (va : Nat) (acc : Access) : M Loc := do
  let w := BitVec.ofNat 64 va
  let t := r.agent
  let s ← get
  match s.walk t w acc with
  | .wait _ => trap causeConverted w
  | .bad => trap causeUncorrectable w
  | .leaf pte level at_ entry =>
    if pteF pte || (if writesTo acc then !pteW pte || pteCow pte else !pteR pte) then trap causeConverted w
    let gpa := field pte 39 14 * 2 ^ 14 + va % 2 ^ levelBits level
    match s.homeOf s.cur.core t pte (BitVec.ofNat 33 (gpa / 128)), s.second t.tenant gpa acc with
    | .error g, _ => throw (stopGuest (t.maskAddr (field pte 63 52)) r.refusal w g)
    | .ok home, .granted a =>
      let used := pte ||| (if writesTo acc then 0xC0#64 else 0x40#64)
      if used ≠ pte then modify fun s => (s.recall (s.tableLoc s.cur.core t.tenant at_ entry)).memWrite at_ 8 used.toNat
      modify fun s => s.copyStageTwo t.tenant gpa
      return poolLoc home t.tenant a gpa
    | .ok _, g => throw (stopGuest gpa r.refusal w g)

/-- The place of a pool address: an address without translation or right traps 0x14; an access held at the second stage is held; at H the
address is machine-physical and its line homed at the comb that owns its column (R74, R313). -/
def poolPlace (r : Region) (va : Nat) (acc : Access) : M Loc := do
  let w := BitVec.ofNat 64 va
  if r.agent.priv = .h then
    if w.toNat ≥ 2 ^ 40 then trap causeConverted w
    match (← get).second hvTenant w.toNat acc with
    | .granted a => return poolLoc (w.extractLsb' 29 8) hvTenant a a
    | g => throw (stopGuest w.toNat causeConverted w g)
  else if bits w 63 57 ≠ (if w.getLsbD 56 then BitVec.allOnes 7 else 0#7) then trap causeConverted w
  else poolWalk r va acc

/-- The first uncorrectable word among `n` words. -/
def State.firstBad (s : State) (l : WordLoc) (i : Nat) : Nat → Option Nat
  | 0 => none
  | n + 1 => if s.isBad (l.plus (8 * i)) then some i else s.firstBad l (i + 1) n

/-- A pool's word, guest-physical `gpa`, is uncorrectable: the form traps, and the shard that holds it has failed, if its region is not
retired (R329, R330). -/
def failAt {α : Type} (r : Region) (shard : Nat) (home : CombId) (va gpa : Nat) : M α := do
  let w := BitVec.ofNat 64 va
  if (← get).current r then throw (.shard r.index shard home w gpa) else throw (.badTable gpa w)

/-- A block of `n` words of the index pool, charged to a shard; an uncorrectable word fails the shard (R329). -/
def readBlock (r : Region) (shard : Nat) (home : CombId) (va n : Nat) : M Nat := do
  let l ← poolPlace r va .load
  let s ← get
  match s.firstBad l.place 0 n with
  | some i => failAt r shard home (va + 8 * i) (l.guest + 8 * i)
  | none => return s.readLoc l.place (8 * n)

/-- `n` words stored from a place on. -/
def State.putWords (s : State) (l : WordLoc) (i v : Nat) : Nat → State
  | 0 => s
  | n + 1 => (s.storeLoc (l.plus (8 * i)) 8 (v % 2 ^ 64)).putWords l (i + 1) (v / 2 ^ 64) n

/-- The lines of a block from `va` on, `n` of them after the first, each at a home of its own (R69). -/
def linesOf (r : Region) (va : Nat) : Nat → M (List Loc)
  | 0 => return []
  | n + 1 => do
    let ls ← linesOf r va n
    return ls ++ [← poolPlace r (va + 128 * (n + 1)) .store]

/-- A block of `n` words written, its lines recalled from the cores that hold them; it does not pass the end of its page. -/
def writeBlock (r : Region) (va n v : Nat) : M Unit := do
  let l ← poolPlace r va .store
  let ls ← linesOf r va ((va % 128 + 8 * n - 1) / 128)
  modify fun s => (ls.foldl State.recall (s.recall l)).putWords l.place 0 v n

/-! The control block (R35). -/

structure ControlBlock where
  gen : Nat
  nodefree : Nat
  nodebump : Nat
  recfree : Nat
  recbump : Nat
  records : Nat
  pmcount : Nat
  deriving DecidableEq, Repr

def ControlBlock.ofNat (v : Nat) : ControlBlock :=
  { gen := part v 511 480, nodefree := part v 479 448, nodebump := part v 447 416, recfree := part v 415 352,
    recbump := part v 351 288, records := part v 287 248, pmcount := part v 247 237 }

def ControlBlock.toNat (c : ControlBlock) : Nat :=
  c.gen * 2 ^ 480 + c.nodefree * 2 ^ 448 + c.nodebump * 2 ^ 416 + c.recfree * 2 ^ 352 + c.recbump * 2 ^ 288 + c.records * 2 ^ 248 +
    c.pmcount * 2 ^ 237

def readControl (r : Region) : M ControlBlock := do return .ofNat (← readBlock r 0 r.primary r.ixbase 8)
def writeControl (r : Region) (c : ControlBlock) : M Unit := writeBlock r r.ixbase 8 c.toNat

/-! Prefix map entries (R40). -/

/-- A valid entry with its index: the shard's path prefix, its home, root, count and number of its latest event. -/
structure Shard where
  index : Nat
  stem : Nat
  plen : Nat
  valid : Bool
  home : CombId
  root : Nat
  count : Nat
  seq : Nat
  deriving DecidableEq, Repr

def Shard.ofNat (i v : Nat) : Shard :=
  { index := i, stem := part v 255 152, plen := part v 151 145, valid := v.testBit 144, home := BitVec.ofNat 8 (part v 143 136),
    root := part v 135 104, count := part v 103 64, seq := part v 63 0 }

def Shard.toNat (e : Shard) : Nat :=
  e.stem * 2 ^ 152 + e.plen * 2 ^ 145 + e.valid.toNat * 2 ^ 144 + e.home.toNat * 2 ^ 136 + e.root * 2 ^ 104 + e.count * 2 ^ 64 + e.seq

/-- The number that stands for no node. -/
def noNode : Nat := 0xFFFFFFFF

/-- Prefix map entries of a region (R35). -/
def shardLimit : Nat := 1024

def Region.shardAddr (r : Region) (i : Nat) : Nat := r.ixbase + 1024 + 32 * i

/-- The job is that of an entry that has been made and is not yet valid (R45). -/
def PrefixJob.makes (j : PrefixJob) (r : Region) (i : Nat) : Bool :=
  j.tenant = r.agent.tenant && j.region = r.index && j.era = r.era && j.entry = i

def State.isPending (s : State) (r : Region) (i : Nat) : Bool := someOf (fun j : PrefixJob => j.makes r i) s.prefixJobs

/-- Entry `i` as the key engines use it: one that waits for acknowledgements stands for the shard it makes, to whose home requests that
reach the older map's shard are forwarded (R45; DEDUCED, log 30). An uncorrectable word of an entry that a search of the map reads fails the
entry's shard (R329). -/
def readShard (r : Region) (i : Nat) : M Shard := do
  let l ← poolPlace r (r.shardAddr i) .load
  let s ← get
  let e := Shard.ofNat i (s.readLoc l.place 32)
  match s.firstBad l.place 0 4 with
  | some n => failAt r i (if s.isBad (l.place.plus 16) then r.primary else e.home) (r.shardAddr i + 8 * n) (l.guest + 8 * n)
  | none => pure ()
  return { e with valid := e.valid || s.isPending r i }

/-- The entry is written; its valid bit stays 0 in memory while it waits for acknowledgements, and for good once it is gone (R45, R49). -/
def writeShard (r : Region) (e : Shard) : M Unit := do
  let s ← get
  if s.isPending r e.index then
    writeBlock r (r.shardAddr e.index) 4 { e with valid := false }.toNat
    if !e.valid then
      set { ← get with prefixJobs := s.prefixJobs.map fun (j : PrefixJob) => if j.makes r e.index then { j with entry := shardLimit } else j }
  else writeBlock r (r.shardAddr e.index) 4 e.toNat

/-- The shard as an event that changes it leaves it numbered (R41). -/
def Shard.changed (e : Shard) : Shard := { e with seq := (e.seq + 1) % 2 ^ 64 }

/-- The valid entries from `i` on, `n` of them. -/
def shardsFrom (r : Region) (i n : Nat) : Nat → M (List Shard)
  | 0 => return []
  | fuel + 1 =>
    if n = 0 then return []
    else do
      let e ← readShard r i
      if e.valid then return e :: (← shardsFrom r (i + 1) (n - 1) fuel) else shardsFrom r (i + 1) n fuel

/-- The shards of a region, as many as its control block counts. -/
def shardsOf (r : Region) (c : ControlBlock) : M (List Shard) := shardsFrom r 0 c.pmcount shardLimit

/-- The lowest entry that is not valid (R48, R54). -/
def freeShard (r : Region) (i : Nat) : Nat → M (Option Nat)
  | 0 => return none
  | fuel + 1 => do
    if (← readShard r i).valid then freeShard r (i + 1) fuel else return some i

/-- A shard is reached: one that has failed answers as it did when it failed, and an uncorrectable word of its entry fails it (R329). -/
def visit (r : Region) (e : Shard) : M Unit := do
  if !(← get).current r then return ()
  match firstOf (fun f => f.1 = r.agent.tenant && f.2.1 = r.index && f.2.2.1 = e.index) (← get).failedShards with
  | some f => trap causeUncorrectable f.2.2.2
  | none =>
    let _ ← readBlock r e.index e.home (r.shardAddr e.index) 4

/-! Places in key order: the path, or the sparse key, as 128 bits from the top (R43, R53). -/

/-- The place of a path. -/
def placeOf (path : Nat) : Nat := path * 2 ^ 24

def Shard.first (e : Shard) : Nat := placeOf e.stem
def Shard.last (e : Shard) : Nat := e.first + 2 ^ (128 - e.plen) - 1
def Shard.holds (e : Shard) (place : Nat) : Bool := e.first ≤ place && place ≤ e.last

/-- The key of a place in a shard (R43). -/
def Region.keyOf (r : Region) (e : Shard) (place : Nat) : Nat :=
  if r.sparse then place else place % 2 ^ (128 - e.plen) * 2 ^ e.plen

/-- The place of a shard's key. -/
def Region.placeAt (r : Region) (e : Shard) (key : Nat) : Nat := if r.sparse then key else e.first + key / 2 ^ e.plen

/-- The entry with the longest matching prefix (R43). -/
def selectShard (place : Nat) : List Shard → Option Shard
  | [] => none
  | e :: l =>
    match selectShard place l with
    | some f => if e.holds place && f.plen < e.plen then some e else some f
    | none => if e.holds place then some e else none

/-- The smallest shard start above a place. -/
def nextStart (place : Nat) : List Shard → Option Nat
  | [] => none
  | e :: l =>
    match nextStart place l with
    | some q => if place < e.first && e.first < q then some e.first else some q
    | none => if place < e.first then some e.first else none

/-! Index nodes (R36, R41). -/

structure Node where
  next : Nat
  owner : Nat
  seq : Nat
  level : Nat
  /-- Keys with their values, rising. -/
  entries : List (Nat × Nat)
  deriving DecidableEq, Repr

/-- A full node (R41). -/
def nodeFull : Nat := 20

def Region.nodeAddr (r : Region) (n : Nat) : Nat := r.ixbase + 33792 + 512 * n
/-- The node at an address of the index pool. -/
def Region.nodeAt (r : Region) (va : Nat) : Nat := (va - r.ixbase - 33792) / 512

/-- The entries in a number of 24 bytes each. -/
def nodeEntries (v : Nat) : Nat → List (Nat × Nat)
  | 0 => []
  | n + 1 => (v % 2 ^ 128, v / 2 ^ 128 % 2 ^ 64) :: nodeEntries (v / 2 ^ 192) n

def entriesNat : List (Nat × Nat) → Nat
  | [] => 0
  | (k, v) :: l => k + v * 2 ^ 128 + entriesNat l * 2 ^ 192

def readNode (r : Region) (e : Shard) (n : Nat) : M Node := do
  let h ← readBlock r e.index e.home (r.nodeAddr n) 4
  let count := Nat.min (part h 4 0) nodeFull
  let b ← readBlock r e.index e.home (r.nodeAddr n + 32) (3 * count)
  return { next := part h 255 224, owner := part h 223 214, seq := part h 191 128, level := part h 15 12, entries := nodeEntries b count }

/-- A node written by the shard's present event (R41). -/
def writeNode (r : Region) (e : Shard) (n : Nat) (d : Node) : M Unit := do
  let h := d.next * 2 ^ 224 + e.index * 2 ^ 214 + e.seq * 2 ^ 128 + d.level * 2 ^ 12 + d.entries.length
  writeBlock r (r.nodeAddr n) (4 + 3 * d.entries.length) (h + entriesNat d.entries * 2 ^ 256)

/-- Nodes never yet used that lie below `ixlim`. -/
def Region.nodeRoom (r : Region) (c : ControlBlock) : Nat := (r.ixlim - r.nodeAddr c.nodebump) / 512

/-- Nodes on the free list from `n` on. -/
def freeNodes (r : Region) (n : Nat) : Nat → M Nat
  | 0 => return 0
  | fuel + 1 =>
    if n = noNode then return 0
    else do
      let v ← readBlock r 0 r.primary (r.nodeAddr n) 1
      return 1 + (← freeNodes r (v % 2 ^ 32) fuel)

/-- A pool is exhausted (R324). -/
def exhausted {α : Type} (r : Region) (op : BitVec 4) (sub : BitVec 8) : M α := trap causePool (xvalKeyed r.form r.index op sub)

/-- A node from the bump end (R36, R47). -/
def bumpNode (r : Region) : M Nat := do
  let c ← readControl r
  if r.nodeRoom c = 0 then exhausted r 15 1
  writeControl r { c with nodebump := c.nodebump + 1 }
  return c.nodebump

/-- A node from the free list, else from the bump end (R36). -/
def allocNode (r : Region) : M Nat := do
  let c ← readControl r
  if c.nodefree = noNode then bumpNode r
  else
    let v ← readBlock r 0 r.primary (r.nodeAddr c.nodefree) 1
    writeControl r { c with nodefree := v % 2 ^ 32 }
    return c.nodefree

/-- A node goes to the head of the free list (R36). -/
def freeNode (r : Region) (n : Nat) : M Unit := do
  let c ← readControl r
  let l ← poolPlace r (r.nodeAddr n) .store
  modify fun s => (s.recall l).storeLoc l.place 4 c.nodefree
  writeControl r { c with nodefree := n }

/-! Records (R36). -/

/-- Zeros with every word full. -/
def zeroRecord (r : Region) (va : Nat) : Nat → M Unit
  | 0 => return ()
  | n + 1 => do
    let l ← poolPlace r va .store
    modify fun s => (s.recall l).writeWithBit l 0 true
    zeroRecord r (va + 8) n

/-- A record is available. -/
def Region.recordRoom (r : Region) (c : ControlBlock) : Bool := c.recfree ≠ 0 || c.recbump + r.recordBytes ≤ r.rplim

/-- A record, of zeros (R36). The link of a free record is read as it is stored (DESIGN CHOICE, log 29); an uncorrectable one traps
(R317). -/
def allocRecord (r : Region) : M Nat := do
  let c ← readControl r
  if c.recfree ≠ 0 then
    let l ← poolPlace r c.recfree .load
    if (← get).isBad l.place then throw (.badTable l.guest (BitVec.ofNat 64 c.recfree))
    writeControl r { c with recfree := (← get).readLoc l.place 8, records := c.records + 1 }
    zeroRecord r c.recfree (r.rsize + 1)
    return c.recfree
  else
    if !r.recordRoom c then exhausted r 15 2
    writeControl r { c with recbump := c.recbump + r.recordBytes, records := c.records + 1 }
    zeroRecord r c.recbump (r.rsize + 1)
    return c.recbump

/-- A record goes to the head of the free list (R36). -/
def freeRecord (r : Region) (va : Nat) : M Unit := do
  let c ← readControl r
  let l ← poolPlace r va .store
  modify fun s => (s.recall l).storeLoc l.place 8 c.recfree
  writeControl r { c with recfree := va, records := c.records - 1 }

/-- The items that an event can need are reserved before it: nodes of a relabel record from the bump end alone, other nodes, a record, a
prefix map entry (R327). -/
def reserve (r : Region) (op : BitVec 4) (bump nodes : Nat) (record shard : Bool) : M Unit := do
  let c ← readControl r
  let room := r.nodeRoom c
  if room < bump then exhausted r op 1
  if nodes ≠ 0 then
    let free ← freeNodes r c.nodefree c.nodebump
    if free + (room - bump) < nodes then exhausted r op 1
  if record && !r.recordRoom c then exhausted r op 2
  if shard && c.pmcount ≥ shardLimit then exhausted r op 3

end Sys2Proof.Machine
end

