-- ==== Sys2Proof/Machine/KeyTree.lean ====
section
/-!
DEFINITION. A shard's index tree: search, insertion, removal, the packed tree of a detach, and search over the shards in key order
(R41, R42, R57, R59, R289).
-/
namespace Sys2Proof.Machine

/-! Search. -/

/-- A node on the way down, with the child taken there. -/
structure WayStep where
  num : Nat
  node : Node
  child : Nat
  deriving DecidableEq, Repr

/-- The child that may hold a key: the last entry at or below it, else the first. -/
def Node.childFor (d : Node) (key : Nat) : Nat := (keepIf (fun e => e.1 ≤ key) d.entries).length - 1

/-- The way from node `n` down to a leaf, the leaf first. -/
def descend (r : Region) (e : Shard) (key n : Nat) (way : List WayStep) : Nat → M (List WayStep)
  | 0 => return way
  | fuel + 1 => do
    let d ← readNode r e n
    let i := d.childFor key
    let way := { num := n, node := d, child := i } :: way
    if d.level = 0 then return way
    else
      match d.entries[i]? with
      | some c => descend r e key c.2 way fuel
      | none => return way

/-- Levels that a header can name (R41). -/
def levels : Nat := 16

def wayTo (r : Region) (e : Shard) (key : Nat) : M (List WayStep) :=
  if e.root = noNode then return [] else descend r e key e.root [] levels

/-- The value at a key of a shard, as one lookup. -/
def lookupKey (r : Region) (e : Shard) (key : Nat) : M (Option Nat) := do
  match ← wayTo r e key with
  | [] => return none
  | s :: _ => return (firstOf (fun p => p.1 = key) s.node.entries).map (·.2)

/-- The smallest key at or above one, with its value. -/
def successor (r : Region) (e : Shard) (key : Nat) : M (Option (Nat × Nat)) := do
  match ← wayTo r e key with
  | [] => return none
  | s :: _ =>
    match firstOf (fun p => key ≤ p.1) s.node.entries with
    | some p => return some p
    | none =>
      if s.node.next = noNode then return none
      else return (← readNode r e s.node.next).entries.head?

/-! Insertion (R42). -/

/-- Set a key's value, in order. -/
def putEntry (key val : Nat) : List (Nat × Nat) → List (Nat × Nat)
  | [] => [(key, val)]
  | (k, v) :: l => if key < k then (key, val) :: (k, v) :: l else if key = k then (key, val) :: l else (k, v) :: putEntry key val l

/-- Insert after the `i`-th entry. -/
def insertAfter {α : Type} (a : α) : Nat → List α → List α
  | _, [] => [a]
  | 0, b :: l => b :: a :: l
  | i + 1, b :: l => b :: insertAfter a i l

def minKey (d : Node) : Nat := match d.entries with | [] => 0 | p :: _ => p.1

/-- Node `n` takes its new entries; of 21 the highest 10 go to a new node. The new node, if there is one. -/
def writeSplitting (r : Region) (e : Shard) (n : Nat) (d : Node) : M (Option (Nat × Nat)) := do
  if d.entries.length ≤ nodeFull then
    writeNode r e n d
    return none
  else
    let m ← allocNode r
    let right : Node := { d with entries := d.entries.drop 11 }
    writeNode r e n { d with entries := d.entries.take 11, next := m }
    writeNode r e m right
    return some (minKey right, m)

/-- An insertion works its way up; parents that do not change are not written. -/
def putUp (r : Region) (e : Shard) : List WayStep → Nat → Node → M Shard
  | [], n, d => do
    match ← writeSplitting r e n d with
    | none => return e
    | some right =>
      let m ← allocNode r
      writeNode r e m { next := noNode, owner := e.index, seq := 0, level := d.level + 1, entries := [(minKey d, n), right] }
      return { e with root := m }
  | s :: up, n, d => do
    let extra ← writeSplitting r e n d
    let l := s.node.entries.set s.child (minKey d, n)
    let l := match extra with | some right => insertAfter right s.child l | none => l
    if l = s.node.entries then return e else putUp r e up s.num { s.node with entries := l }

/-- A sparse region's control block counts the elements present (R291). -/
def countElement (r : Region) (f : Nat → Nat) : M Unit := do
  if r.sparse then
    let c ← readControl r
    writeControl r { c with records := f c.records }

/-- A key set in the shard's tree (R42). -/
def insertKey (r : Region) (e : Shard) (key val : Nat) : M Shard := do
  match ← wayTo r e key with
  | [] =>
    let n ← allocNode r
    writeNode r e n { next := noNode, owner := e.index, seq := 0, level := 0, entries := [(key, val)] }
    countElement r (· + 1)
    return { e with root := n, count := e.count + 1 }
  | s :: up =>
    let old := someOf (fun p => p.1 = key) s.node.entries
    let e' ← putUp r e up s.num { s.node with entries := putEntry key val s.node.entries }
    if old then return e'
    else
      countElement r (· + 1)
      return { e' with count := e.count + 1 }

/-- Nodes that an insertion into a shard can need, which are reserved before it: one for a split at every level, and a new root (R327). -/
def splitNeed (way : List WayStep) : Nat := way.length + 1

/-! Removal (R42). -/

/-- Fewest entries of a node other than the root (R42). -/
def nodeLow : Nat := 7

/-- A node and its partner become one, or share their entries, the left one taking the larger half. The parent's new entries. -/
def joinPair (r : Region) (e : Shard) (p : Node) (i : Nat) (left right : Nat × Node) : M (List (Nat × Nat)) := do
  let all := left.2.entries ++ right.2.entries
  if all.length ≤ nodeFull then
    let d : Node := { left.2 with entries := all, next := right.2.next }
    writeNode r e left.1 d
    freeNode r right.1
    return (p.entries.set i (minKey d, left.1)).eraseIdx (i + 1)
  else
    let h := (all.length + 1) / 2
    let a : Node := { left.2 with entries := all.take h }
    let b : Node := { right.2 with entries := all.drop h }
    writeNode r e left.1 a
    writeNode r e right.1 b
    return (p.entries.set i (minKey a, left.1)).set (i + 1) (minKey b, right.1)

/-- A removal works its way up. -/
def dropUp (r : Region) (e : Shard) : List WayStep → Nat → Node → M Shard
  | [], n, d => do
    match d.entries, d.level with
    | [], _ =>
      freeNode r n
      return { e with root := noNode }
    | [(_, c)], _ + 1 =>
      freeNode r n
      return { e with root := c }
    | _, _ =>
      writeNode r e n d
      return e
  | s :: up, n, d => do
    if nodeLow ≤ d.entries.length then
      writeNode r e n d
      let l := s.node.entries.set s.child (minKey d, n)
      if l = s.node.entries then return e else dropUp r e up s.num { s.node with entries := l }
    else
      let i := if s.child + 1 < s.node.entries.length then s.child else s.child - 1
      let other := if s.child + 1 < s.node.entries.length then s.child + 1 else s.child - 1
      let m := ((s.node.entries[other]?).getD (0, n)).2
      let o ← readNode r e m
      let l ← if i = s.child then joinPair r e s.node i (n, d) (m, o) else joinPair r e s.node i (m, o) (n, d)
      dropUp r e up s.num { s.node with entries := l }

/-- A key taken out of the shard's tree, if it is there (R42). -/
def removeKey (r : Region) (e : Shard) (key : Nat) : M Shard := do
  match ← wayTo r e key with
  | [] => return e
  | s :: up =>
    if !someOf (fun p => p.1 = key) s.node.entries then return e
    else
      let e' ← dropUp r e up s.num { s.node with entries := keepIf (fun p => p.1 ≠ key) s.node.entries }
      countElement r (· - 1)
      return { e' with count := e.count - 1 }

/-! The packed tree (R289). -/

/-- Groups of 20; a last one below 7 shares with the one before it. -/
def packGroups {α : Type} : Nat → List α → List (List α)
  | 0, l => [l]
  | fuel + 1, l =>
    if l.length ≤ nodeFull then [l]
    else if l.length < nodeFull + nodeLow then [l.take ((l.length + 1) / 2), l.drop ((l.length + 1) / 2)]
    else l.take nodeFull :: packGroups fuel (l.drop nodeFull)

/-- Nodes of the packed tree of `k` keys. -/
def packedNodes (k : Nat) : Nat → Nat
  | 0 => 0
  | fuel + 1 => let m := (k + nodeFull - 1) / nodeFull; if m ≤ 1 then m else m + packedNodes m fuel

/-- Nodes are taken left to right. -/
def takeNodes (r : Region) : Nat → M (List Nat)
  | 0 => return []
  | n + 1 => do
    let m ← allocNode r
    return m :: (← takeNodes r n)

/-- One level's nodes written, each naming the next; their entries for the level above. -/
def writeLevel (r : Region) (e : Shard) (level : Nat) : List (Nat × List (Nat × Nat)) → M (List (Nat × Nat))
  | [] => return []
  | (n, g) :: l => do
    let next := match l with | [] => noNode | (m, _) :: _ => m
    let d : Node := { next := next, owner := e.index, seq := 0, level := level, entries := g }
    writeNode r e n d
    return (minKey d, n) :: (← writeLevel r e level l)

/-- The tree of a list of keys with their values, rising. -/
def packTree (r : Region) (e : Shard) (level : Nat) (l : List (Nat × Nat)) : Nat → M Shard
  | 0 => return e
  | fuel + 1 => do
    let g := packGroups l.length l
    let ns ← takeNodes r g.length
    match ← writeLevel r e level (ns.zip g) with
    | [(_, n)] => return { e with root := n }
    | up => packTree r e (level + 1) up fuel

/-! Key order over the shards (R57, R59). -/

/-- The smallest present place from `lo` to `hi`, with its shard and value; shards are visited in key order. -/
def nextPlace (r : Region) (l : List Shard) (lo hi : Nat) : Nat → M (Option (Shard × Nat × Nat))
  | 0 => return none
  | fuel + 1 =>
    if hi < lo then return none
    else do
      let start := nextStart lo l
      match selectShard lo l with
      | none =>
        match start with
        | some q => nextPlace r l q hi fuel
        | none => return none
      | some e =>
        visit r e
        let past := match start with | some q => Nat.min q (e.last + 1) | none => e.last + 1
        match ← successor r e (r.keyOf e lo) with
        | some (k, v) =>
          let p := r.placeAt e k
          if p < past then return (if p ≤ hi then some (e, p, v) else none) else nextPlace r l past hi fuel
        | none => nextPlace r l past hi fuel

/-- The search with room for every shard to be met twice. -/
def nextIn (r : Region) (l : List Shard) (lo hi : Nat) : M (Option (Shard × Nat × Nat)) := nextPlace r l lo hi (2 * l.length + 2)

/-- Every present place from `lo` to `hi`, rising, at most `fuel` of them. -/
def allIn (r : Region) (l : List Shard) (lo hi : Nat) : Nat → M (List (Shard × Nat × Nat))
  | 0 => return []
  | fuel + 1 => do
    match ← nextIn r l lo hi with
    | none => return []
    | some f => return f :: (← allIn r l (f.2.1 + 1) hi fuel)

/-- Keys in all shards of a region. -/
def keysOf : List Shard → Nat
  | [] => 0
  | e :: l => e.count + keysOf l

end Sys2Proof.Machine
end

