-- ==== Sys2Proof/Machine/KeyPath.lean ====
section
/-!
DEFINITION. Labels and level codes, forwarding and its log, the checks on a keyed form, the choice of a child's code, and the region
events: relabel, detach, move and delete (R37 to R39, R44 to R51, R323 to R327).
-/
namespace Sys2Proof.Machine

/-! Labels (R37). -/

/-- Bits of a path (R38). -/
def pathBits : Nat := 104

def labelTree (l : LabelWord) : BitVec 12 := l.extractLsb' 116 12
def labelGen (l : LabelWord) : Nat := field l 115 108
def labelZero (l : LabelWord) : Bool := field l 107 104 = 0
def labelPath (l : LabelWord) : Nat := field l 103 0

/-- A label of a region at a generation. -/
def labelOf (region : BitVec 12) (gen path : Nat) : LabelWord := region ++ BitVec.ofNat 8 gen ++ 0#4 ++ BitVec.ofNat 104 path

/-! Level codes (R38). -/

/-- A level code: class and ordinal. -/
structure Code where
  cls : Nat
  ord : Nat
  deriving DecidableEq, Repr

/-- Ordinal width of a class (R38). -/
def ordWidth : Nat → Nat
  | 0 => 2 | 1 => 4 | 2 => 8 | _ => 16
def capacity (cls : Nat) : Nat := 2 ^ ordWidth cls
/-- Append step and first ordinal of a class (R38). -/
def appendStep : Nat → Nat
  | 0 => 1 | 1 => 2 | 2 => 16 | _ => 4096
def firstOrd : Nat → Nat
  | 0 => 0 | 1 => 1 | 2 => 8 | _ => 2048

def Code.length (c : Code) : Nat := 3 + ordWidth c.cls
def Code.bits (c : Code) : Nat := 4 * capacity c.cls + c.cls * capacity c.cls + c.ord

/-- The code that begins after `n` bits of a path, if one does. -/
def codeAt (path n : Nat) : Option Code :=
  if n + 3 > pathBits then none
  else
    let top := part path (pathBits - 1 - n) (pathBits - 3 - n)
    let cls := top % 4
    let w := ordWidth cls
    if top < 4 || n + 3 + w > pathBits then none
    else some { cls := cls, ord := path / 2 ^ (pathBits - n - 3 - w) % 2 ^ w }

/-- The codes of a path from bit `n` on; `none` where it ends in a partial code (R38). -/
def codesFrom (path n : Nat) : Nat → Option (List Code)
  | 0 => if path % 2 ^ (pathBits - n) = 0 then some [] else none
  | fuel + 1 =>
    if path % 2 ^ (pathBits - n) = 0 then some []
    else
      match codeAt path n with
      | none => none
      | some c => (codesFrom path (n + c.length) fuel).map (c :: ·)

/-- Greatest depth (R39). -/
def maxDepth : Nat := 20

def codesOf (path : Nat) : Option (List Code) := codesFrom path 0 maxDepth

def codesLength : List Code → Nat
  | [] => 0
  | c :: l => c.length + codesLength l

/-- Bits that a path's codes fill (R39). -/
def filled (path : Nat) : Nat := match codesOf path with | some l => codesLength l | none => pathBits
def depth (path : Nat) : Nat := match codesOf path with | some l => l.length | none => maxDepth

/-- The path of a child: the parent's `n` bits, then the code; `none` past 104 bits (R38). -/
def childPath (path n : Nat) (c : Code) : Option Nat :=
  if n + c.length > pathBits then none else some (path + c.bits * 2 ^ (pathBits - n - c.length))

/-- The path without its last code; the root's is its own. -/
def parentPath (path : Nat) : Nat :=
  match codesOf path with
  | some l => let n := codesLength l.dropLast; path / 2 ^ (pathBits - n) * 2 ^ (pathBits - n)
  | none => 0

/-- The top `n` bits of two paths are equal (R50). -/
def starts (p a n : Nat) : Bool := p / 2 ^ (pathBits - n) = a / 2 ^ (pathBits - n)
/-- The path shifted left by `n` bits (R50). -/
def tail (p n : Nat) : Nat := p * 2 ^ n % 2 ^ pathBits
/-- The top `n` bits of `a`, then `t` (R50). -/
def joinPath (a n t : Nat) : Nat := a / 2 ^ (pathBits - n) * 2 ^ (pathBits - n) + t / 2 ^ n

/-- The last place of the subtree of a path that fills `n` bits (R39). -/
def subtreeEnd (path n : Nat) : Nat := placeOf (path + 2 ^ (pathBits - n)) - 1

/-! The log (R50). -/

structure RegionEvent where
  kind : Nat
  gen : Nat
  a : Nat
  alen : Nat
  b : Nat
  blen : Nat
  deriving DecidableEq, Repr

def RegionEvent.ofNat (v : Nat) : RegionEvent :=
  { kind := part v 255 254, gen := part v 253 222, a := part v 221 118, alen := part v 117 111, b := part v 110 7, blen := part v 6 0 }

def RegionEvent.toNat (e : RegionEvent) : Nat :=
  e.kind * 2 ^ 254 + e.gen * 2 ^ 222 + e.a * 2 ^ 118 + e.alen * 2 ^ 111 + e.b * 2 ^ 7 + e.blen

def Region.eventAddr (r : Region) (gen : Nat) : Nat := r.ixbase + 64 + 32 * (gen % 16)
def readEvent (r : Region) (gen : Nat) : M RegionEvent := do return .ofNat (← readBlock r 0 r.primary (r.eventAddr gen) 4)

/-! Relabel records (R47). -/

/-- A code in a relabel record. -/
def Code.word (c : Code) : Nat := c.cls * 2 ^ 16 + c.ord
def Code.ofWord (w : Nat) : Code := { cls := w / 2 ^ 16 % 4, ord := w % 2 ^ 16 }

/-- Nodes of a record of `n` pairs. -/
def recordNodes (n : Nat) : Nat := (16 + 8 * n + 511) / 512

/-- The pairs of a record, read from `va` on. -/
def readPairs (r : Region) (va : Nat) : Nat → M (List (Code × Code))
  | 0 => return []
  | n + 1 => do
    let w ← readBlock r 0 r.primary va 1
    return (.ofWord (w % 2 ^ 32), .ofWord (w / 2 ^ 32)) :: (← readPairs r (va + 8) n)

def recordCount (r : Region) (va : Nat) : M Nat := do return (← readBlock r 0 r.primary va 1) % 2 ^ 32

def readRecord (r : Region) (va : Nat) : M (List (Code × Code)) := do readPairs r (va + 16) (Nat.min (← recordCount r va) 16384)

def writePairs (r : Region) (va : Nat) : List (Code × Code) → M Unit
  | [] => return ()
  | p :: l => do
    writeBlock r va 1 (p.1.word + p.2.word * 2 ^ 32)
    writePairs r (va + 8) l

/-! Forwarding (R50). -/

/-- A path of no stated value: the record has no pair for its code (DESIGN CHOICE, log 29). -/
def freePath : M Nat := do
  let (v, s) := (← get).takeFresh
  let (w, s) := s.takeFresh
  set s
  return (v.toNat * 2 ^ 64 + w.toNat) % 2 ^ pathBits

/-- A path past one event; `none` once it is dead. -/
def pastEvent (r : Region) (e : RegionEvent) (p : Nat) : M (Option Nat) := do
  if !starts p e.a e.alen then return some p
  match e.kind with
  | 1 => return some (joinPath e.b e.blen (tail p e.alen))
  | 2 =>
    if p = e.a then return some p
    match codeAt p e.alen with
    | none => return some (← freePath)
    | some c =>
      match firstOf (fun q : Code × Code => q.1 = c) (← readRecord r (e.b % 2 ^ 64)) with
      | none => return some (← freePath)
      | some q =>
        let c2 := q.2
        return some (joinPath (joinPath e.a e.alen (c2.bits * 2 ^ (pathBits - c2.length))) (e.alen + c2.length) (tail p (e.alen + c.length)))
  | 3 => return none
  | _ => return some p

/-- A path past the last `n` events before generation `gen`. -/
def forward (r : Region) (gen : Nat) (p : Nat) : Nat → M (Option Nat)
  | 0 => return some p
  | n + 1 => do
    match ← pastEvent r (← readEvent r (gen + 16 - n)) p with
    | none => return none
    | some q => forward r gen q n

/-- A label's distance from a generation (R50). -/
def distance (gen : Nat) (l : LabelWord) : Nat := (gen % 256 + 256 - labelGen l) % 256

/-! The checks of R323. -/

/-- A label register as a failing operand (R324). -/
def opNo (b : BitVec 3) : BitVec 4 := 0#1 ++ b

/-- The classes that a form accepts. -/
inductive Suits where
  | labelled | sparse | either
  deriving DecidableEq, Repr

def bad {α : Type} (i : Instr) (region : BitVec 12) (op : BitVec 4) (sub : BitVec 8) : M α := trap causeObject (xvalKeyed i region op sub)

/-- An entry is the SHAPE of an element format, as SHAPE and KREGION code them (R52). -/
def isShape (idx efmt : Nat) (e : BitVec 512) : Bool := idx ≠ 0 && objKind e = 1 && field e 373 371 = efmt

/-- The SHAPE that a sparse region names, where it can be read. -/
def State.shapeOf (s : State) (t : Slot) (idx efmt : Nat) : Option (BitVec 512) :=
  match s.object t idx with
  | .ok (some e) => if isShape idx efmt e then some e else none
  | _ => none

/-- The combs of a KREGION; a read of the mask table that is held takes in the end the cause of one that names no comb (R313; DEDUCED,
log 54). -/
def readCombs (t : Slot) (e : BitVec 512) (cause : BitVec 8) (xval : Word) : M (List CombId) := do
  match (← get).regionCombs t e with
  | .ok l => return l
  | .error .bad => throw (.badTable (t.maskAddr (field e 239 228)) (BitVec.ofNat 64 (t.maskAddr (field e 239 228))))
  | .error g => throw (stopGuest (t.maskAddr (field e 239 228)) cause xval g)

/-- A keyed form of a slot is held while an earlier `lbmov` of it still waits to move its subtree: each takes effect after the one before it
(R182). The two commands of the copy engine are no such forms. -/
def waitMove (i : Instr) : M Unit := do
  let s ← get
  match i with
  | .sdense _ _ _ _ | .ssparse _ _ _ _ => pure ()
  | _ =>
    match firstOf (fun j : PrefixJob => j.move.isSome && j.core = s.cur.core && j.slot = s.cur.slot) s.prefixJobs with
    | some j => parkAs .memwait (.region j.region)
    | none => pure ()

/-- Check 1: the entry is a KREGION, and nothing it names fails at use. -/
def openRegion (i : Instr) (op : BitVec 4) (index : Nat) : M Region := do
  waitMove i
  let t ← myself
  let n := BitVec.ofNat 12 index
  if index = 0 || index > 4095 then bad i n op 1
  match ← readObject t index causeObject (xvalKeyed i n op 1) with
  | none => bad i n op 1
  | some e =>
    if objKind e ≠ 2 then bad i n op 1
    let combs ← readCombs t e causeObject (xvalKeyed i n op 7)
    if combs.isEmpty then bad i n op 7
    if e.getLsbD 222 then
      match ← readObject t (field e 255 240) causeObject (xvalKeyed i n op 7) with
      | some h => if !isShape (field e 255 240) (field e 216 214) h then bad i n op 7
      | none => bad i n op 7
    return { form := i, index := n, agent := t, entry := e, combs := combs, era := (← get).eraOf t.tenant n }

/-- Check 2: the right that the form needs. -/
def checkRight (r : Region) (op : BitVec 4) (changes : Bool) : M Unit := do
  if !(if changes then objModify r.entry else objUse r.entry) then bad r.form r.index op 2

/-- Check 3: the class. -/
def checkClass (r : Region) (op : BitVec 4) (c : Suits) : M Unit := do
  let ok := match c with | .labelled => !r.sparse | .sparse => r.sparse | .either => true
  if !ok then bad r.form r.index op 3

/-- Check 4 on one label. -/
def checkLabel (r : Region) (op : BitVec 4) (l : LabelWord) : M Unit := do
  if labelTree l ≠ r.index || !labelZero l || (codesOf (labelPath l)).isNone then bad r.form r.index op 4

/-- A label operand with its register and region. -/
structure Operand where
  op : BitVec 4
  label : LabelWord
  region : Region
  deriving DecidableEq, Repr

/-- Checks 1 to 4 on the label operands of a LABEL form, whose regions their tree fields name; each check on all of them first. -/
def labelOperands (i : Instr) (changes : Bool) (bs : List (BitVec 3)) : M (List Operand) := do
  let t ← myself
  let os ← bs.mapM fun b => do
    let l := t.getL b
    return ({ op := opNo b, label := l, region := ← openRegion i (opNo b) (labelTree l).toNat } : Operand)
  os.forM fun o => checkRight o.region o.op changes
  os.forM fun o => checkClass o.region o.op .labelled
  os.forM fun o => checkLabel o.region o.op o.label
  return os

/-- Check 6: every label is within reach of the present generation. -/
def checkAge (os : List Operand) : M Unit :=
  os.forM fun o => do
    let d := distance (← readControl o.region).gen o.label
    if d ≥ 16 then trap causeExpired (xvalKeyed o.region.form o.region.index o.op (BitVec.ofNat 8 d))

/-- The path of a label at the present generation; check 7 on one that a delete has reached. -/
def forwardOne (o : Operand) : M Nat := do
  let g := (← readControl o.region).gen
  match ← forward o.region g (labelPath o.label) (distance g o.label) with
  | none => trap causeDead (xvalKeyed o.region.form o.region.index o.op 1)
  | some p => return p

/-- Checks 6 and 7 on labels that are used as paths or positions (R325): every one within reach, then none dead. Their paths at the present
generation. -/
def forwardAll (os : List Operand) : M (List Nat) := do
  checkAge os
  os.mapM forwardOne

/-! Resolution (R43). -/

/-- The core keeps a copy of the entry it used; of 64 the oldest gives way (R10, R44; DESIGN CHOICE, log 50). -/
def cacheShard (r : Region) (gen : Nat) (e : Shard) : M Unit :=
  modMyCore fun q =>
    let p : PrefixLine := { tenant := r.agent.tenant, region := r.index, gen := BitVec.ofNat 32 gen, entry := e.index }
    if someOf (fun k => k = p) q.prefixes then q
    else { q with prefixes := (if q.prefixes.length < 64 then q.prefixes else q.prefixes.tail) ++ [p] }

/-- The shard of a place, reached. -/
def reach (r : Region) (place : Nat) : M (Option Shard) := do
  let c ← readControl r
  match selectShard place (← shardsOf r c) with
  | none => return none
  | some e =>
    cacheShard r c.gen e
    visit r e
    return some e

/-- The shard and record address of the node at a path, if there is one: a lookup event. -/
def resolvePath (r : Region) (path : Nat) : M (Option (Shard × Nat)) := do
  match ← reach r (placeOf path) with
  | none => return none
  | some e => return (← lookupKey r e (r.keyOf e (placeOf path))).map fun v => (e, v)

/-- Check 7 on a node that must be present. -/
def resolve (o : Operand) (path : Nat) : M (Shard × Nat) := do
  match ← resolvePath o.region path with
  | some f => return f
  | none => trap causeDead (xvalKeyed o.region.form o.region.index o.op 2)

/-- Checks 6 and 7 on labels whose nodes a form reaches, operand by operand (R323): their paths and shards. -/
def resolveAll (os : List Operand) : M (List (Nat × Shard)) := do
  checkAge os
  os.mapM fun o => do
    let p ← forwardOne o
    return (p, (← resolve o p).1)

/-! Children (R46). -/

/-- Greatest number of children (R38). -/
def maxChildren : Nat := 16384

/-- The codes of the children from a place on, in sibling order. -/
def childrenFrom (r : Region) (l : List Shard) (path n lo : Nat) : Nat → M (List Code)
  | 0 => return []
  | fuel + 1 => do
    match ← nextIn r l lo (subtreeEnd path n) with
    | none => return []
    | some (_, p, _) =>
      match codeAt (p / 2 ^ 24) n with
      | none => return []
      | some c => return c :: (← childrenFrom r l path n (subtreeEnd (path + c.bits * 2 ^ (pathBits - n - c.length)) (n + c.length) + 1) fuel)

def children (r : Region) (path n : Nat) : M (List Code) := do
  let l ← shardsOf r (← readControl r)
  childrenFrom r l path n (placeOf path + 1) (maxChildren + 1)

/-- One class of the insertion rule, whose bounds are L + 1 and U. -/
def fitIn (c : Nat) (a b : Option Code) : Option Code :=
  let lo := match a with | some x => if c = x.cls then x.ord + 1 else 0 | none => 0
  let hi := match b with | some y => if c = y.cls then y.ord else capacity c | none => capacity c
  let below := match a with | some x => c < x.cls | none => false
  let above := match b with | some y => y.cls < c | none => false
  if below || above || hi < lo + 1 then none else some { cls := c, ord := (lo + hi - 1) / 2 }

/-- The insertion rule (R46). -/
def insertCode (a b : Option Code) : Option Code :=
  match fitIn 0 a b with
  | some c => some c
  | none =>
    match fitIn 1 a b with
    | some c => some c
    | none => match fitIn 2 a b with | some c => some c | none => fitIn 3 a b

/-- An appended child's code (R46). -/
def appendCode (gap : Nat) (last : Option Code) : Option Code :=
  match last with
  | none => some { cls := gap, ord := firstOrd gap }
  | some a => if a.ord + appendStep a.cls < capacity a.cls then some { a with ord := a.ord + appendStep a.cls } else insertCode (some a) none

/-! Relabels (R47). -/

/-- The class for `n` children: class 3 where no class has a capacity of 4n (R47 names none then; DESIGN CHOICE, log 87). -/
def relabelClass (n : Nat) : Nat := if 4 * n ≤ capacity 0 then 0 else if 4 * n ≤ capacity 1 then 1 else if 4 * n ≤ capacity 2 then 2 else 3

/-- The code of child `i` of `n`. -/
def relabelCode (n i : Nat) : Code := let c := relabelClass n; { cls := c, ord := (2 * i + 1) * capacity c / (2 * n) }

/-- Old and new codes: `n` children in all, of which the one at `at_` is new. -/
def relabelPairs (n at_ i : Nat) : List Code → List (Code × Code)
  | [] => []
  | c :: l => (c, relabelCode n (if i < at_ then i else i + 1)) :: relabelPairs n at_ (i + 1) l

/-- A path after a relabel of the children of `path`. -/
def relabelled (path n : Nat) (l : List (Code × Code)) (p : Nat) : Nat :=
  if !starts p path n || p = path then p
  else
    match codeAt p n with
    | none => p
    | some c =>
      match firstOf (fun q : Code × Code => q.1 = c) l with
      | none => p
      | some q => joinPath (joinPath path n (q.2.bits * 2 ^ (pathBits - q.2.length))) (n + q.2.length) (tail p (n + c.length))

/-- The length of a path of `len` bits after its code changes. -/
def lengthAfter (n : Nat) (l : List (Code × Code)) (p len : Nat) : Nat :=
  match codeAt p n with
  | none => len
  | some c => match firstOf (fun q : Code × Code => q.1 = c) l with | none => len | some q => len + q.2.length - c.length

/-- Every path of a subtree fits in 104 bits after its code changes (R185). -/
def relabelFits (r : Region) (l : List Shard) (path n : Nat) (pairs : List (Code × Code)) : M Bool := do
  let ps ← allIn r l (placeOf path + 1) (subtreeEnd path n) (keysOf l)
  return allOf (fun f : Shard × Nat × Nat => let p := f.2.1 / 2 ^ 24; lengthAfter n pairs p (filled p) ≤ pathBits) ps

/-- Keys of a list of entries renamed. -/
def renameEntries (f : Nat → Nat) : List (Nat × Nat) → List (Nat × Nat)
  | [] => []
  | (k, v) :: l => (f k, v) :: renameEntries f l

/-- The nodes of a level from `n` on, with their keys renamed in place; whether any changed. -/
def renameLevel (r : Region) (e : Shard) (f : Nat → Nat) (n : Nat) : Nat → M Bool
  | 0 => return false
  | fuel + 1 =>
    if n = noNode then return false
    else do
      let d ← readNode r e n
      let l := renameEntries f d.entries
      if l ≠ d.entries then writeNode r e n { d with entries := l }
      let more ← renameLevel r e f d.next fuel
      return l ≠ d.entries || more

/-- Every level, from the one whose first node is `n` down. -/
def renameTree (r : Region) (e : Shard) (f : Nat → Nat) (nodes n : Nat) : Nat → M Bool
  | 0 => return false
  | fuel + 1 => do
    let d ← readNode r e n
    let here ← renameLevel r e f n nodes
    if d.level = 0 then return here
    else
      match d.entries with
      | [] => return here
      | c :: _ => return here || (← renameTree r e f nodes c.2 fuel)

/-- The position, after the children of `e.a` are relabelled, of one that lies in no child's subtree: behind those that it lay behind. -/
def besideChildren (e : RegionEvent) (pairs : List (Code × Code)) (p : Nat) : Nat :=
  match (keepIf (fun q : Code × Code => (childPath e.a e.alen q.1).getD 0 < p) pairs).getLast? with
  | some q => joinPath e.a e.alen (q.2.bits * 2 ^ (pathBits - q.2.length)) + 2 ^ (pathBits - e.alen - q.2.length) - 1
  | none => e.a + 1

/-- A position in key order past one region event: one whose node is deleted stays where it is, and keeps its place among the children when
they are relabelled later (R59). -/
def shiftPosition (r : Region) (e : RegionEvent) (p : Nat) : M Nat := do
  if e.kind = 2 && starts p e.a e.alen && p ≠ e.a then
    let pairs ← readRecord r (e.b % 2 ^ 64)
    if !someOf (fun q : Code × Code => some q.1 = codeAt p e.alen) pairs then return besideChildren e pairs p
  return (← pastEvent r e p).getD p

/-- The range of a `kred` under way, and the last record it has summed, past one region event: the engine goes on where a scan that
forwards its cursor and its bounds would (R59, R60, R180; DEDUCED, log 31). -/
def shiftReduction (r : Region) (e : RegionEvent) (d : Reduction) : M Reduction := do
  if !(d.agent.tenant = r.agent.tenant && d.region = r.index && d.era = r.era) then return d
  let lo ← shiftPosition r e d.lo
  let hi ← shiftPosition r e d.hi
  let last ← d.last.mapM fun p => shiftPosition r e p
  return { d with lo := lo, hi := hi, last := last }

def shiftReductions (r : Region) (e : RegionEvent) : M Unit := do
  let l ← (← get).reductions.mapM fun d => shiftReduction r e d
  modify fun s => { s with reductions := l }

/-- A region event is logged; the record of the entry it overwrites is freed, its nodes in ascending order (the order among them is a
DESIGN CHOICE, log 20), and the generation advances (R47, R49, R50). -/
def logRegion (r : Region) (e : RegionEvent) : M Unit := do
  let c ← readControl r
  let g := (c.gen + 1) % 2 ^ 32
  let old ← readEvent r g
  writeBlock r (r.eventAddr g) 4 { e with gen := g }.toNat
  shiftReductions r e
  writeControl r { c with gen := g }
  if old.kind = 2 then
    let va := old.b % 2 ^ 64
    let m := recordNodes (Nat.min (← recordCount r va) maxChildren)
    (upFrom (r.nodeAt va) m).forM fun n => freeNode r n

/-- Nodes from the bump end, `n` of them; the first. -/
def bumpNodes (r : Region) : Nat → M Nat
  | 0 => return (← readControl r).nodebump
  | n + 1 => do
    let m ← bumpNode r
    let _ ← bumpNodes r n
    return m

/-- The children of `path` take new codes, as one region event (R47). -/
def relabelEvent (r : Region) (path n : Nat) (pairs : List (Code × Code)) : M Unit := do
  let c ← readControl r
  let l ← shardsOf r c
  let f := relabelled path n pairs
  let m ← bumpNodes r (recordNodes pairs.length)
  let va := r.nodeAddr m
  writeBlock r va 2 pairs.length
  writePairs r (va + 16) pairs
  match selectShard (placeOf path) l with
  | none => pure ()
  | some e =>
    visit r e
    if e.root ≠ noNode then
      let e' := e.changed
      if ← renameTree r e' (fun k => r.keyOf e (placeOf (f (r.placeAt e k / 2 ^ 24)))) (c.nodebump + 1) e.root levels then writeShard r e'
  l.forM fun e =>
    if starts e.stem path n && e.plen > n then do
      visit r e
      writeShard r { e.changed with stem := f e.stem, plen := lengthAfter n pairs e.stem e.plen }
    else pure ()
  logRegion r { kind := 2, gen := 0, a := path, alen := n, b := va, blen := 0 }

/-! Prefix map entries that are created (R44, R45). -/

/-- The home of entry `k` that a detach makes (R44). -/
def Region.homeOf (r : Region) (k : Nat) : CombId := if r.hmode = 2 then (r.combs[k % r.combs.length]?).getD 0 else r.primary

/-- The cores whose message engines acknowledge that a prefix map entry is made: every live core of the tenant's partition (R45). -/
def State.prefixCores (s : State) : List CoreId := keepIf (fun c => !(s.core c).dead) (s.partition s.myCore.pbase)

/-- The byte of a prefix map entry that holds its valid bit (R40). -/
def validByte : Nat := 18

/-- Entry `k` is being made: its valid bit stays 0 until every core of the partition has acknowledged an invalidation. The job that waits
for them, if there is any core (R45). -/
def startEntry (r : Region) (k : Nat) : M (Option Nat) := do
  let place ← poolPlace r (r.shardAddr k + validByte) .store
  let s ← get
  let owed := s.prefixCores
  if owed.isEmpty then return none
  else
    let id := s.fresh
    let j : PrefixJob :=
      { id := id, tenant := r.agent.tenant, region := r.index, entry := k, object := r.entry, agent := r.agent, combs := r.combs, era := r.era,
        move := none, owed := owed, core := s.cur.core, slot := s.cur.slot, pc := s.me.pc, at_ := place, answer := none, ch := none,
        heldSince := none, heldAt := 0 }
    let s' : State := { s with fresh := id + 1, prefixJobs := s.prefixJobs ++ [j] }
    set (owed.foldl (fun s c => s.post .prefixInvalidate { core := c, num := id } 1) s')
    return some id

/-- The move that follows the entry which a job makes (R48). -/
def State.moveAfter (s : State) (id a new : Nat) : State :=
  { s with prefixJobs := s.prefixJobs.map fun (j : PrefixJob) => if j.id = id then { j with move := some (a, new) } else j }

/-- A move of the region is under way: its subtree has been detached and has not yet moved (R48, R49). -/
def State.moveUnderWay (s : State) (tenant : BitVec 16) (index : BitVec 12) : Bool :=
  someOf (fun j : PrefixJob => j.move.isSome && j.tenant = tenant && j.region = index && j.era = s.eraOf tenant index) s.prefixJobs

/-- A form that changes the tree of a region is held while a move of it is under way, which may touch what the form does (R49; DEDUCED,
log 30). -/
def needStill (r : Region) : M Unit := do
  if (← get).moveUnderWay r.agent.tenant r.index then parkAs .memwait (.region r.index)

/-- Who waits for a job: a result of the acting slot, or a copy channel (R45, R181, R290). -/
def State.claimJob (s : State) (id : Nat) (answer : Option RegName) (ch : Option (BitVec 2)) : State :=
  { s with prefixJobs := s.prefixJobs.map fun (j : PrefixJob) => if j.id = id then { j with answer := answer, ch := ch } else j }

/-! Detach, move and delete (R48, R49, R289). -/

/-- Keys leave a shard one at a time, ascending. -/
def removeKeys (r : Region) (e : Shard) : List (Nat × Nat) → M Shard
  | [] => return e
  | (k, _) :: l => do removeKeys r (← removeKey r e k) l

/-- The keys of a place range that one shard holds, each with its value. -/
def keysIn (r : Region) (l : List Shard) (e : Shard) (lo hi : Nat) : M (List (Nat × Nat)) := do
  let fs ← allIn r l lo hi (keysOf l)
  return (keepIf (fun f : Shard × Nat × Nat => f.1.index = e.index) fs).map fun f => (f.2.1, f.2.2)

/-- The subtree at `path` moves into a new entry's packed tree; the job that waits for the entry's acknowledgements (R45, R48, R289). -/
def detach (r : Region) (path n : Nat) : M (Option Nat) := do
  let c ← readControl r
  let l ← shardsOf r c
  match selectShard (placeOf path) l, ← freeShard r 0 shardLimit with
  | some e, some k =>
    visit r e
    let ks ← keysIn r l e (placeOf path) (subtreeEnd path n)
    let d : Shard := { index := k, stem := path, plen := n, valid := true, home := r.homeOf k, root := noNode, count := ks.length, seq := 1 }
    writeControl r { c with pmcount := c.pmcount + 1 }
    let job ← startEntry r k
    let d ← packTree r d 0 (ks.map fun p => (r.keyOf d p.1, p.2)) levels
    writeShard r d
    let e ← removeKeys r e.changed (ks.map fun p => (r.keyOf e p.1, p.2))
    writeShard r e
    return job
  | _, _ => exhausted r 15 3

/-- The entries at and below `path` take their new prefixes, as one region event (R48). -/
def moveEvent (r : Region) (path n new m : Nat) : M Unit := do
  let l ← shardsOf r (← readControl r)
  l.forM fun e =>
    if starts e.stem path n && n ≤ e.plen then do
      visit r e
      writeShard r { e.changed with stem := joinPath new m (tail e.stem n), plen := e.plen + m - n }
    else pure ()
  logRegion r { kind := 1, gen := 0, a := path, alen := n, b := new, blen := m }

/-- Records freed in ascending key order. -/
def freeRecords (r : Region) : List (Shard × Nat × Nat) → M Unit
  | [] => return ()
  | (_, _, v) :: l => do
    freeRecord r v
    freeRecords r l

/-- The subtree at `path` goes, as one region event: its records, its keys, and the entries nested in it (R49; DESIGN CHOICE, log 20). -/
def deleteEvent (r : Region) (path n : Nat) : M Unit := do
  let l ← shardsOf r (← readControl r)
  let fs ← allIn r l (placeOf path) (subtreeEnd path n) (keysOf l)
  freeRecords r fs
  l.forM fun e => do
    let mine := (keepIf (fun f : Shard × Nat × Nat => f.1.index = e.index) fs).map fun f => (r.keyOf e f.2.1, f.2.2)
    let nested := starts e.stem path n && n ≤ e.plen
    if !mine.isEmpty || nested then
      let e' ← removeKeys r e.changed mine
      writeShard r { e' with valid := !nested }
      if nested then
        let c ← readControl r
        writeControl r { c with pmcount := c.pmcount - 1 }
  logRegion r { kind := 3, gen := 0, a := path, alen := n, b := 0, blen := 0 }

end Sys2Proof.Machine
end

