-- ==== Sys2Proof/Machine/KeyForms.lean ====
section
/-!
DEFINITION. The LABEL forms, and the events by which key engines answer them (R181, R183 to R189, R290).
-/
namespace Sys2Proof.Machine

/-! Answers (R181, R290). -/

/-- A result, or the completion of a form with none, waits for the key engine's answer (R181), and for the acknowledgements of a prefix
map entry that the form makes (R45, R290); the second result of a form is no access of its own. -/
def keyAnswer (reg : RegName) (access : Bool := true) (job : Option Nat := none) : M Unit := do
  modMe fun t => t.launchFlight reg access none
  match job with
  | some id => modify fun s => s.claimJob id (some reg) none
  | none =>
    let s ← get
    postEvent .keyEngineAnswer { core := s.cur.core, slot := s.cur.slot, reg := reg } 1

/-- The key engine's answer makes the destination usable, or ends the access (R181, R290). -/
def execKeyEngineAnswer (s : State) : Host.Outcome State Fault Refusal :=
  .next (s.modSlot s.args.core s.args.slot fun t => t.land s.args.reg)

/-- A keyed form held while a move goes on is served once it is complete: it is issued again. Every other event of this model is complete in
the step that makes it (R49; DEDUCED, log 30). -/
def execHeldKeyedRequest (s : State) : Host.Outcome State Fault Refusal :=
  let c := s.args.core
  let k := s.args.slot
  match (s.slot c k).wait with
  | .region r => .next (if s.moveUnderWay (s.slot c k).tenant r then s else s.modSlot c k Slot.unpark)
  | _ => .next s

/-- A core's message engine drops its entries of a region and acknowledges (R45). -/
def execPrefixInvalidate (s : State) : Host.Outcome State Fault Refusal :=
  let c := s.args.core
  match firstOf (fun j : PrefixJob => j.id = s.args.num) s.prefixJobs with
  | none => .next s
  | some j =>
    let s := s.modCore c fun q => { q with prefixes := keepIf (fun p => !(p.tenant = j.tenant && p.region = j.region)) q.prefixes }
    let j' := { j with owed := keepIf (fun d => d ≠ c) j.owed }
    let s := { s with prefixJobs := replaceFirst (fun k : PrefixJob => k.id = j.id) j' s.prefixJobs }
    .next (if j'.owed.isEmpty then s.post .prefixEntryActivate { core := j.core, slot := j.slot, num := j.id } else s)

/-- The region of a job, as its entry's words are reached. -/
def PrefixJob.reachedAs (j : PrefixJob) : Region :=
  { form := .prefixEntryActivate, index := j.region, agent := j.agent, entry := j.object, combs := j.combs, era := j.era }

/-- The valid bit of the entry that a job makes is set in memory, unless the entry is gone again. The write was translated when the form
issued; the second stage is applied to it now (R45, R313, R329; DESIGN CHOICE, log 67). -/
def setValid (j : PrefixJob) : M Unit := do
  if j.entry < shardLimit then
    let r := j.reachedAs
    let va := r.shardAddr j.entry + validByte
    let s ← get
    match s.second j.at_.tag.tenant j.at_.guest .store with
    | .granted a =>
      let l := { j.at_ with place := .mem a }
      if s.isBad l.place then failAt r j.entry r.primary (va / 8 * 8) (j.at_.guest / 8 * 8)
      modify fun s => (s.recall l).writeLoc l.place 1 (s.readLoc l.place 1 / 2 * 2 + 1)
    | g => throw (stopGuest j.at_.guest causeConverted (BitVec.ofNat 64 va) g)

/-- A label of a region at its present generation. -/
def nowLabel (r : Region) (path : Nat) : M LabelWord := do return labelOf r.index (← readControl r).gen path

/-- The move that waited for its subtree's entry: the region event, then the label register of the form that made it (R48, R187, R290). -/
def finishMove (j : PrefixJob) (a new : Nat) : M Unit := do
  let r := j.reachedAs
  moveEvent r a (filled a) new (filled new)
  let l ← nowLabel r new
  modify fun s => s.modSlot j.core j.slot fun t =>
    match j.answer with
    | some (.lb d) => if t.isPending (.lb d) then (t.setL d l).land (.lb d) else t
    | _ => t

/-- The form that made a job is answered: its result is usable, or its access counts no more (R181, R290). -/
def State.landJob (s : State) (j : PrefixJob) : State := match j.answer with | some r => s.modSlot j.core j.slot fun t => t.land r | none => s

/-- The write or move of a job fails: its form, issued before, reports the fault, for an uncorrectable word with its address `gpa`; or its
transfer ends, with code 2 for such a word and as without the right for any other (R293, R315, R329; DEDUCED, log 30). -/
def State.failJob (s : State) (j : PrefixJob) (gpa : Option Nat) (cause : BitVec 8) (xval : Word) : State :=
  match j.ch with
  | some ch =>
    let s := match gpa with | some a => s.logBadAt j.core a | none => s
    s.modChannel j.core ch fun h => h.modHead fun t => { t with bad := some (if cause = causeUncorrectable then 2 else 4) }
  | none =>
    (s.landJob j).modSlot j.core j.slot fun t =>
      { t.report { no := j.id, pc := j.pc, cause := cause, xval := xval } with badTable := match gpa with | some a => some (xval, a) | none => t.badTable }

/-- What becomes of a job whose write or move stopped: a hold that it waits out, and then goes on, or an end (R313, R329). A hold of another
access is a hold of its own. -/
def State.stopJob (s : State) (j : PrefixJob) (again : EventArgs) : Stop → Host.Outcome State Fault Refusal
  | .held gpa cause xval =>
    let same := j.heldSince.isSome && j.heldAt = gpa
    let j' := if same then j else { j with heldSince := some s.now, heldAt := gpa }
    let s := { s.copyStageTwo j.tenant gpa with prefixJobs := s.prefixJobs ++ [j'] }.post .prefixEntryActivate again 1
    if same then .next s
    else .next (s.post .secondStageHoldTimeout
      { core := j.core, slot := j.slot, reg := .x 3, after := some j.id, word := xval, num := s.now, code := cause.setWidth 16 } holdLimit)
  | .shard region entry home va gpa => .next ((s.failShard j.tenant region entry home va).failJob j (some gpa) causeUncorrectable va)
  | .badTable gpa xval => .next (s.failJob j (some gpa) causeUncorrectable xval)
  | .trap cause xval => .next (s.failJob j none cause xval)
  | .fault f => .fault f
  | .park _ _ | .translation _ => .next ({ s with prefixJobs := s.prefixJobs ++ [j] }.post .prefixEntryActivate again 1)

/-- A job's hold of 2^22 cycles ends as a missing right (R313). -/
def State.jobHoldEnds (s : State) : State :=
  let a := s.args
  let due (j : PrefixJob) : Bool := a.after = some j.id && j.heldSince = some a.num
  match firstOf due s.prefixJobs with
  | some j => { s with prefixJobs := removeFirst due s.prefixJobs }.failJob j none (a.code.setWidth 8) a.word
  | none => s

/-- Every acknowledgement has arrived: the entry becomes valid, and the form that made it is answered, or its move follows (R45, R48, R290). -/
def execPrefixEntryActivate (s : State) : Host.Outcome State Fault Refusal :=
  match firstOf (fun j : PrefixJob => j.id = s.args.num) s.prefixJobs with
  | none => .next s
  | some j =>
    let s := { s with prefixJobs := removeFirst (fun k : PrefixJob => k.id = j.id) s.prefixJobs, cur := { core := j.core, slot := j.slot } }
    match j.move with
    | some (a, new) =>
      if j.entry < shardLimit then
        match (setValid j).run s with
        | .ok _ s' => .next ({ s' with prefixJobs := s'.prefixJobs ++ [{ j with entry := shardLimit }] }.post .prefixEntryActivate s'.args 1)
        | .error e _ => s.stopJob j s.args e
      else
        match (finishMove j a new).run s with
        | .ok _ s' => .next s'
        | .error e _ => s.stopJob j s.args e
    | none =>
      match (setValid j).run s with
      | .ok _ s' => .next (s'.landJob j)
      | .error e _ => s.stopJob j s.args e

/-! Shared bodies. -/

/-- One label operand, checked and forwarded; `offset` is check 5 of `lbld` and `lbst`. -/
def oneLabel (i : Instr) (changes : Bool) (b : BitVec 3) (offset : Option (BitVec 12) := none) : M (Operand × Nat) := do
  let os ← labelOperands i changes [b]
  match os with
  | [o] =>
    match offset with
    | some n => if n.toNat % 8 ≠ 0 || n.toNat > 8 * o.region.rsize then bad i o.region.index o.op 5
    | none => pure ()
    match ← forwardAll os with
    | [p] => return (o, p)
    | _ => bad i o.region.index o.op 4
  | _ => bad i 0 15 1

/-- Two label operands that are used as paths (R325). -/
def twoLabels (i : Instr) (a b : BitVec 3) : M ((Operand × Nat) × (Operand × Nat)) := do
  let os ← labelOperands i false [a, b]
  match os with
  | [o, q] =>
    match ← forwardAll os with
    | [x, y] => return ((o, x), (q, y))
    | _ => bad i o.region.index o.op 4
  | _ => bad i 0 15 1

/-- The label operands of `lbmov`, of one region, each with its path and shard (R187, R323). -/
def moveLabels (i : Instr) (a b : BitVec 3) : M ((Operand × Nat × Shard) × (Operand × Nat × Shard)) := do
  let os ← labelOperands i true [a, b]
  match os with
  | [o, q] =>
    if o.region.index ≠ q.region.index then bad i q.region.index q.op 4
    match ← resolveAll os with
    | [x, y] => return ((o, x), (q, y))
    | _ => bad i o.region.index o.op 4
  | _ => bad i 0 15 1

/-- The operation is refused (R324). -/
def refused {α : Type} (o : Operand) (sub : BitVec 8) : M α := trap causeRefused (xvalKeyed o.region.form o.region.index o.op sub)

/-- The record address of the node that a label names (R188). -/
def recordOf (i : Instr) (changes : Bool) (b : BitVec 3) (offset : Option (BitVec 12)) : M Nat := do
  let (o, p) ← oneLabel i changes b offset
  return (← resolve o p).2

/-! Navigation (R184). -/

/-- The root is made where it is absent, at entry 0 with key 0 and a new record (R184). -/
def makeRoot (r : Region) : M Unit := do
  let s ← get
  if (s.aheadOf s.cur.core s.cur.slot).isSome then engineWait .join
  let e ← readShard r 0
  visit r e
  reserve r 15 0 (splitNeed (← wayTo r e 0)) true false
  let a ← allocRecord r
  writeShard r (← insertKey r e.changed 0 a)

/-- The form makes the root; with no right that lets it look, it does not (R179; the right that it needs follows: DEDUCED, log 16). -/
def rootAbsent (r : Region) : M Bool := do
  if objUse r.entry || objModify r.entry then return (← resolvePath r 0).isNone else return false

/-- `lbroot` needs the use right where it finds the root and the modify right, alone, where it makes it (R179, R184; DEDUCED, log 16). -/
def execLbroot (d : BitVec 3) (x : BitVec 5) (st : State) :=
  run (.lbroot d x) (do
    needRoom 1
    let r ← openRegion (.lbroot d x) 15 (field (← readX x) 15 0)
    let absent ← if r.sparse then pure false else rootAbsent r
    checkRight r 15 absent
    checkClass r 15 .labelled
    if absent then makeRoot r
    let l ← nowLabel r 0
    modMe fun t => t.setL d l
    keyAnswer (.lb d)
    return .step) st

def execLbkid (d a : BitVec 3) (x : BitVec 5) (st : State) :=
  run (.lbkid d a x) (do
    needRoom 1
    let (o, p) ← oneLabel (.lbkid d a x) false a
    let _ ← resolve o p
    let n := filled p
    match (← children o.region p n)[(← readX x).toNat]? with
    | none => refused o 5
    | some c =>
      let l ← nowLabel o.region ((childPath p n c).getD p)
      modMe fun t => t.setL d l
      keyAnswer (.lb d)
      return .step) st

def execLbpar (d a : BitVec 3) (st : State) :=
  run (.lbpar d a) (do
    let (o, p) ← oneLabel (.lbpar d a) false a
    let l ← nowLabel o.region (parentPath p)
    modMe fun t => t.setL d l
    return .step) st

def execLbdep (d : BitVec 5) (a : BitVec 3) (st : State) :=
  run (.lbdep d a) (do
    let (_, p) ← oneLabel (.lbdep d a) false a
    writeX d (BitVec.ofNat 64 (depth p))
    return .step) st

def execLbanc (d : BitVec 5) (a b : BitVec 3) (st : State) :=
  run (.lbanc d a b) (do
    let ((o, p), (q, y)) ← twoLabels (.lbanc d a b) a b
    writeX d (flag (o.region.index = q.region.index && starts y p (filled p)))
    return .step) st

def execLbcmp (d : BitVec 5) (a b : BitVec 3) (st : State) :=
  run (.lbcmp d a b) (do
    let ((o, p), (q, y)) ← twoLabels (.lbcmp d a b) a b
    let u := o.region.index.toNat * 2 ^ pathBits + p
    let w := q.region.index.toNat * 2 ^ pathBits + y
    writeX d (if u < w then BitVec.allOnes 64 else if u = w then 0 else 1)
    return .step) st

def execLbfix (d : BitVec 3) (st : State) :=
  run (.lbfix d) (do
    let (o, p) ← oneLabel (.lbfix d) false d
    let l ← nowLabel o.region p
    modMe fun t => t.setL d l
    return .step) st

/-! Changing the tree (R185 to R187, R290). -/

/-- A record, and its key at `path`, as one event of the shard (R36, R185). -/
def insertRecord (r : Region) (path : Nat) : M Unit := do
  match ← reach r (placeOf path) with
  | none => exhausted r 15 1
  | some e =>
    let a ← allocRecord r
    writeShard r (← insertKey r e.changed (r.keyOf e (placeOf path)) a)

/-- Nodes that an insertion into the shard of `path` can need (R327). -/
def needAt (r : Region) (path : Nat) : M Nat := do
  match ← reach r (placeOf path) with
  | none => return 0
  | some e => return splitNeed (← wayTo r e (r.keyOf e (placeOf path)))

/-- A new node at position `at_` among the children of `path`, the children relabelled first where no code is free (R46, R47, R185).
The new node's path. Of several refusals of check 8 that hold, the one tested first is taken: too many children, then a missing right to
relabel or a path too long, then storage (R323 gives no order; DESIGN CHOICE, log 66). -/
def insertChild (o : Operand) (path : Nat) (kids : List Code) (at_ : Nat) (append : Bool) : M Nat := do
  let r := o.region
  let n := filled path
  let left := if at_ = 0 then none else kids[at_ - 1]?
  if kids.length + 1 > maxChildren then refused o 6
  match (if append then appendCode r.gap left else insertCode left kids[at_]?) with
  | some c =>
    match childPath path n c with
    | none => refused o 4
    | some q =>
      reserve r o.op 0 (← needAt r path) true false
      insertRecord r q
      return q
  | none =>
    if r.norelabel then refused o 1
    let m := kids.length + 1
    let pairs := relabelPairs m at_ 0 kids
    match childPath path n (relabelCode m at_) with
    | none => refused o 4
    | some q =>
      if !(← relabelFits r (← shardsOf r (← readControl r)) path n pairs) then refused o 4
      reserve r o.op (recordNodes pairs.length) (← needAt r path) true false
      relabelEvent r path n pairs
      insertRecord r q
      return q

/-- The new node's label, once every event of the form is complete (R290). -/
def newLabel (d : BitVec 3) (r : Region) (path : Nat) : M Flow := do
  let l ← nowLabel r path
  modMe fun t => t.setL d l
  keyAnswer (.lb d)
  return .step

def execLbapp (d a : BitVec 3) (st : State) :=
  run (.lbapp d a) (do
    needRoom 1
    let (o, p) ← oneLabel (.lbapp d a) true a
    needStill o.region
    let _ ← resolve o p
    let kids ← children o.region p (filled p)
    newLabel d o.region (← insertChild o p kids kids.length true)) st

/-- The position of a code in a list. -/
def positionOf (c : Code) : List Code → Nat
  | [] => 0
  | b :: l => if b = c then 0 else 1 + positionOf c l

def execLbins (d a : BitVec 3) (st : State) :=
  run (.lbins d a) (do
    needRoom 1
    let (o, p) ← oneLabel (.lbins d a) true a
    needStill o.region
    let _ ← resolve o p
    if p = 0 then refused o 3
    let q := parentPath p
    let kids ← children o.region q (filled q)
    let i := match codeAt p (filled q) with | some c => positionOf c kids + 1 | none => kids.length
    newLabel d o.region (← insertChild o q kids i false)) st

def execLbdel (a : BitVec 3) (st : State) :=
  run (.lbdel a) (do
    needRoom 1
    let (o, p) ← oneLabel (.lbdel a) true a
    needStill o.region
    let _ ← resolve o p
    if p = 0 then refused o 3
    deleteEvent o.region p (filled p)
    keyAnswer (.x 0)
    return .step) st

/-- The events of a move, in order: a relabel, a detach, the move. Where the detach makes an entry that cores must acknowledge, the move
follows once the entry is valid (R45, R48, R187); what would stop it now stops the form, with nothing of it done (R293). -/
def moveSteps (d : BitVec 3) (r : Region) (a p new : Nat) (pairs : Option (List (Code × Code))) (detaches : Bool) : M Flow := do
  let n := filled p
  let a' := match pairs with | some l => relabelled p n l a | none => a
  match pairs with
  | some l => relabelEvent r p n l
  | none => pure ()
  let job ← if detaches then detach r a' (filled a') else pure none
  match job with
  | some id =>
    let s ← get
    moveEvent r a' (filled a') new (filled new)
    set (s.moveAfter id a' new)
    keyAnswer (.lb d) true job
    return .step
  | none =>
    moveEvent r a' (filled a') new (filled new)
    newLabel d r new

/-- Every path of the moved subtree fits at its new place (R187). -/
def moveFits (r : Region) (l : List Shard) (a m : Nat) : M Bool := do
  let n := filled a
  let ps ← allIn r l (placeOf a) (subtreeEnd a n) (keysOf l)
  return allOf (fun f : Shard × Nat × Nat => filled (f.2.1 / 2 ^ 24) - n + m ≤ pathBits) ps

/-- Of several refusals of check 8 that hold, `lbmov` takes the one tested first: the root, the node's own subtree, too many children, a
missing right to relabel, a path too long, then storage (R323 gives no order; DESIGN CHOICE, log 66). -/
def execLbmov (d a b : BitVec 3) (st : State) :=
  run (.lbmov d a b) (do
    needRoom 1
    let ((o, x, e), (q, y, _)) ← moveLabels (.lbmov d a b) a b
    let r := o.region
    needStill r
    if x = 0 then refused o 3
    if starts y x (filled x) then refused q 2
    let n := filled y
    let kids ← children r y n
    let others := if parentPath x = y then keepIf (fun c => some c ≠ codeAt x n) kids else kids
    if others.length + 1 > maxChildren then refused q 6
    let l ← shardsOf r (← readControl r)
    let m := kids.length + 1
    let fresh := appendCode r.gap others.getLast?
    if fresh.isNone && r.norelabel then refused o 1
    let pairs := if fresh.isNone then some (relabelPairs m kids.length 0 kids) else none
    match childPath y n (fresh.getD (relabelCode m kids.length)) with
    | none => refused o 4
    | some new =>
      let grows ← match pairs with | some ps => relabelFits r l y n ps | none => pure true
      if !grows || !(← moveFits r l x (filled new)) then refused o 4
      let detaches := !someOf (fun s : Shard => s.stem = x && s.plen = filled x) l
      let keys ← if detaches then keysIn r l e (placeOf x) (subtreeEnd x (filled x)) else pure []
      reserve r o.op (match pairs with | some ps => recordNodes ps.length | none => 0) (packedNodes keys.length levels) false detaches
      moveSteps d r x y new pairs detaches) st

/-! Records (R188). -/

def execLbres (d : BitVec 5) (a : BitVec 3) (st : State) :=
  run (.lbres d a) (do
    needRoom 1
    let v ← recordOf (.lbres d a) false a none
    writeX d (BitVec.ofNat 64 v)
    keyAnswer (.x d)
    return .step) st

def execLbld (d : BitVec 5) (a : BitVec 3) (i : BitVec 12) (st : State) :=
  run (.lbld d a i) (do
    needRoom 1
    let base ← recordOf (.lbld d a i) false a (some i)
    let (v, line) ← loadVA (BitVec.ofNat 64 (base + i.toNat)) 8
    writeX d (BitVec.ofNat 64 v)
    match line with
    | some tag => modMe fun t => t.launchFlight (.x d) true (some tag)
    | none => keyAnswer (.x d)
    return .step) st

def execLbst (i : BitVec 12) (a : BitVec 3) (x : BitVec 5) (st : State) :=
  run (.lbst i a x) (do
    needRoom 1
    let v ← readX x
    let base ← recordOf (.lbst i a x) true a (some i)
    let l ← locate (BitVec.ofNat 64 (base + i.toNat)) 8 .store
    match ← performStore l (BitVec.ofNat 64 (base + i.toNat)) 8 v.toNat with
    | some tag => modMe fun t => t.launchFlight (.x 0) true (some tag)
    | none => keyAnswer (.x 0)
    return .step) st

/-! Label registers (R189). -/

def execLbcp (d a : BitVec 3) (st : State) :=
  run (.lbcp d a) (do
    modMe fun t => t.setL d (t.getL a)
    return .step) st

def execLblm (d : BitVec 3) (x : BitVec 5) (st : State) :=
  run (.lblm d x) (do
    needRoom 1
    let (v, line) ← loadVA (← readX x) 16
    modMe fun t => t.setL d (BitVec.ofNat 128 v)
    pendResult (.lb d) true line
    return .step) st

def execLbsm (x : BitVec 5) (b : BitVec 3) (st : State) :=
  run (.lbsm x b) (do
    needRoom 1
    let l := (← myself).getL b
    storeVA (← readX x) 16 l.toNat
    return .step) st

def execLbxg (d : BitVec 5) (a : BitVec 3) (h : BitVec 1) (st : State) :=
  run (.lbxg d a h) (do
    let l := (← myself).getL a
    let x ← readX d
    let lo : Word := l.extractLsb' 0 64
    let hi : Word := l.extractLsb' 64 64
    modMe fun t => t.setL a (if h = 0#1 then hi ++ x else x ++ lo)
    writeX d (if h = 0#1 then lo else hi)
    return .step) st

end Sys2Proof.Machine
end

