-- ==== Sys2Proof/Machine/KeySparse.lean ====
section
/-!
DEFINITION. Sparse regions and key scans: packed keys, elements, the KEYSCAN and SPARSE forms, and `kred` (R52 to R56, R59, R60, R190
to R194, R330).
-/
namespace Sys2Proof.Machine

/-! Shapes and packed keys (R52, R53). -/

/-- Number of dimensions of a SHAPE. -/
def dimCount (e : BitVec 512) : Nat := field e 375 374 + 1
/-- The extent of a dimension. -/
def dimExtent (e : BitVec 512) (d : Nat) : Nat := field e (415 + 32 * d) (384 + 32 * d) + 1
/-- The dimensions, most significant first. -/
def dimOrder (e : BitVec 512) : List Nat := (List.range (dimCount e)).map fun i => field e (377 + 2 * i) (376 + 2 * i)

/-- The least `w`, from `k` on, with e ≤ 2^w. -/
def widthFrom (e k : Nat) : Nat → Nat
  | 0 => k
  | fuel + 1 => if e ≤ 2 ^ k then k else widthFrom e (k + 1) fuel

/-- Width of a dimension: ceil(log2 of its extent) (R53). -/
def dimWidth (e : BitVec 512) (d : Nat) : Nat := widthFrom (dimExtent e d) 0 32

/-- Total key width (R53). -/
def keyWidth (e : BitVec 512) : Nat := (dimOrder e).foldl (fun n d => n + dimWidth e d) 0

/-- The packed key of coordinates, given by dimension (R53). -/
def packKey (e : BitVec 512) (coord : Nat → Nat) : Nat :=
  (dimOrder e).foldl (fun k d => k * 2 ^ dimWidth e d + coord d) 0 * 2 ^ (128 - keyWidth e)

/-- The coordinate of a dimension in a key, from the dimensions placed first on. -/
def coordIn (e : BitVec 512) (key d left : Nat) : List Nat → Nat
  | [] => 0
  | b :: l => let w := dimWidth e b; if b = d then key / 2 ^ (left - w) % 2 ^ w else coordIn e key d (left - w) l

def coordOf (e : BitVec 512) (key d : Nat) : Nat := coordIn e key d 128 (dimOrder e)

/-- A key valid for a shape (R194). -/
def keyValid (e : BitVec 512) (key : Nat) : Bool :=
  key % 2 ^ (128 - keyWidth e) = 0 && allOf (fun d => coordOf e key d < dimExtent e d) (dimOrder e)

/-- Leading key bits that choose the shard (R52). -/
def shardBits (e : BitVec 512) : Nat := field e 370 367

/-- Bytes of an element by efmt (R55). -/
def elemBytes (efmt : Nat) : Nat :=
  match efmt with
  | 0 | 5 => 8
  | 1 | 4 => 4
  | 2 => 2
  | _ => 1

/-! Elements (R55, R56). -/

/-- A value equals zero (R55). -/
def elemZero (efmt v : Nat) : Bool :=
  match efmt with
  | 0 => v % 2 ^ 63 = 0
  | 1 => v % 2 ^ 31 = 0
  | 2 => v % 2 ^ 15 = 0
  | _ => v = 0

/-- The sum of R56. -/
def elemAdd (efmt a b : Nat) : Nat :=
  match efmt with
  | 0 => (f64.add a b).1
  | 1 => (f32.add a b).1
  | 2 => (bf16.add a b).1
  | 3 => (f32.toMk8 (f32.add (mk8Decode a) (mk8Decode b)).1).1
  | _ => (a + b) % 2 ^ (8 * elemBytes efmt)

/-- The shape of a sparse region; check 1 has found it. -/
def shapeFor (r : Region) : M (BitVec 512) := do return ((← get).shapeOf r.agent r.shape r.efmt).getD 0

/-- The home of shard `j` (R54). -/
def Region.sparseHome (r : Region) (e : BitVec 512) (j : Nat) : CombId :=
  if r.hmode = 2 then (r.combs[j * r.combs.length / 2 ^ shardBits e]?).getD 0 else r.primary

/-- The shard index of a key (R54). -/
def shardIndex (e : BitVec 512) (key : Nat) : Nat := key / 2 ^ (128 - shardBits e)

/-- An element stored at a key whose shard exists: deleted if it equals zero, else inserted or replaced (R55, R327). -/
def storeIn (r : Region) (op : BitVec 4) (s : Shard) (key v : Nat) : M Unit := do
  if elemZero r.efmt v then
    if (← lookupKey r s key).isSome then writeShard r (← removeKey r s.changed key)
  else
    if (← lookupKey r s key).isNone then reserve r op 0 (splitNeed (← wayTo r s key)) false false
    writeShard r (← insertKey r s.changed key v)

/-- The first insertion into a shard makes its entry; the job that waits for the entry's acknowledgements (R45, R54). -/
def storeFirst (r : Region) (e : BitVec 512) (key v : Nat) : M (Option Nat) := do
  match ← freeShard r 0 shardLimit with
  | none => exhausted r 15 3
  | some k =>
    let c ← readControl r
    writeControl r { c with pmcount := c.pmcount + 1 }
    let job ← startEntry r k
    let j := shardIndex e key
    let s : Shard := { index := k, stem := j * 2 ^ (pathBits - shardBits e), plen := shardBits e, valid := true, home := r.sparseHome e j,
                       root := noNode, count := 0, seq := 1 }
    writeShard r (← insertKey r s key v)
    return job

/-- The element at a key (R55). -/
def loadElem (r : Region) (key : Nat) : M (Option Nat) := do
  match ← reach r key with
  | none => return none
  | some s => lookupKey r s key

/-- An element stored at a key as one event of its shard; the job of the entry that it makes, if any (R45, R54, R55). -/
def storeElem (r : Region) (op : BitVec 4) (key v : Nat) : M (Option Nat) := do
  match ← reach r key with
  | some s =>
    storeIn r op s key v
    return none
  | none =>
    if elemZero r.efmt v then return none
    else
      reserve r op 0 1 false true
      storeFirst r (← shapeFor r) key v

/-! SPARSE forms (R193, R194). -/

/-- Checks 1 to 3 of a form that names its region by `kr`. -/
def namedRegion (i : Instr) (k : BitVec 12) (changes : Bool) (c : Suits) : M Region := do
  let r ← openRegion i 15 k.toNat
  checkRight r 15 changes
  checkClass r 15 c
  return r

/-- Coordinates in a register pair (R53). -/
def coordField (a b : Word) (d : Nat) : Nat :=
  match d with
  | 0 => field a 31 0
  | 1 => field a 63 32
  | 2 => field b 31 0
  | _ => field b 63 32

def execSkey (d : BitVec 3) (a : BitVec 5) (k : BitVec 12) (st : State) :=
  run (.skey d a k) (do
    let x ← readX a
    let y ← readX (a + 1)
    let r ← namedRegion (.skey d a k) k false .sparse
    let e ← shapeFor r
    if !allOf (fun i => coordField x y i < dimExtent e i) (dimOrder e) then bad (.skey d a k) r.index 15 5
    modMe fun t => t.setL d (BitVec.ofNat 128 (packKey e (coordField x y)))
    return .step) st

/-- The key operand of a form, valid for the shape (R194). -/
def keyOperand (r : Region) (b : BitVec 3) : M (BitVec 512 × Nat) := do
  let key := ((← myself).getL b).toNat
  let e ← shapeFor r
  if !keyValid e key then bad r.form r.index (opNo b) 5
  return (e, key)

def execScoord (d : BitVec 5) (a : BitVec 3) (k : BitVec 12) (st : State) :=
  run (.scoord d a k) (do
    let r ← namedRegion (.scoord d a k) k false .sparse
    let (e, key) ← keyOperand r a
    let c (i : Nat) : BitVec 32 := if i < dimCount e then BitVec.ofNat 32 (coordOf e key i) else 0
    writeX d (c 1 ++ c 0)
    writeX (d + 1) (c 3 ++ c 2)
    return .step) st

def execSld (d : BitVec 5) (a : BitVec 3) (k : BitVec 12) (st : State) :=
  run (.sld d a k) (do
    needRoom 1
    let r ← namedRegion (.sld d a k) k false .sparse
    let (_, key) ← keyOperand r a
    let v := (← loadElem r key).getD 0
    writeX d (if r.efmt = 4 then sext (BitVec.ofNat 32 v) else BitVec.ofNat 64 v)
    keyAnswer (.x d)
    return .step) st

/-- The low bits of a register that are an element (R194). -/
def elemOf (efmt : Nat) (w : Word) : Nat := w.toNat % 2 ^ (8 * elemBytes efmt)

def execSst (x : BitVec 5) (a : BitVec 3) (k : BitVec 12) (st : State) :=
  run (.sst x a k) (do
    needRoom 1
    let r ← namedRegion (.sst x a k) k true .sparse
    let (_, key) ← keyOperand r a
    let job ← storeElem r (opNo a) key (elemOf r.efmt (← readX x))
    keyAnswer (.x 0) true job
    return .step) st

def execSadd (x : BitVec 5) (a : BitVec 3) (k : BitVec 12) (st : State) :=
  run (.sadd x a k) (do
    needRoom 1
    let r ← namedRegion (.sadd x a k) k true .sparse
    let (_, key) ← keyOperand r a
    let old := (← loadElem r key).getD 0
    let job ← storeElem r (opNo a) key (elemAdd r.efmt old (elemOf r.efmt (← readX x)))
    keyAnswer (.x 0) true job
    return .step) st

/-! KEYSCAN ranges (R190). -/

/-- Checks 1 to 4 of a KEYSCAN form. -/
def scanRegion (i : Instr) (a : BitVec 3) (k : BitVec 12) : M Region := do
  let r ← namedRegion i k false .either
  if !r.sparse then
    let t ← myself
    checkLabel r (opNo a) (t.getL a)
    checkLabel r (opNo (a + 1)) (t.getL (a + 1))
  return r

/-- Checks 6 and 7, and the bounds of a range: paths, or keys (R190). -/
def scanBounds (r : Region) (a : BitVec 3) : M (Nat × Nat) := do
  let t ← myself
  let x := t.getL a
  let y := t.getL (a + 1)
  if r.sparse then return (x.toNat, y.toNat)
  else
    match ← forwardAll [{ op := opNo a, label := x, region := r }, { op := opNo (a + 1), label := y, region := r }] with
    | [p, q] => return (p, q)
    | _ => return (1, 0)

/-- The first place of a range, from its lower bound (R190). -/
def Region.firstOf (r : Region) (lo : Nat) : Nat := if r.sparse then lo else placeOf lo

/-- The last place of a range, from its upper bound: through the subtree of a label (R190). -/
def Region.lastOf (r : Region) (hi : Nat) : Nat := if r.sparse then hi else subtreeEnd hi (filled hi)

/-- What a scan returns for a place: a label, or the key (R190). -/
def scanWord (r : Region) (place : Nat) : M LabelWord := do
  if r.sparse then return BitVec.ofNat 128 place else nowLabel r (place / 2 ^ 24)

/-- One scan step; the cursor register and the result wait for the answer alike, whatever it is (R181, R191). -/
def scanBody (i : Instr) (next : Bool) (d : BitVec 5) (a : BitVec 3) (k : BitVec 12) : M Flow := do
  needRoom 1
  let r ← scanRegion i a k
  let (lo, hi) ← scanBounds r a
  let l ← shardsOf r (← readControl r)
  match ← nextIn r l (if next then r.firstOf lo + 1 else r.firstOf lo) (r.lastOf hi) with
  | some (_, p, _) =>
    let w ← scanWord r p
    modMe fun t => t.setL a w
    writeX d 1
  | none => writeX d 0
  keyAnswer (.lb a) false
  keyAnswer (.x d)
  return .step

def execKfirst (d : BitVec 5) (a : BitVec 3) (k : BitVec 12) (st : State) := run (.kfirst d a k) (scanBody (.kfirst d a k) false d a k) st
def execKnext (d : BitVec 5) (a : BitVec 3) (k : BitVec 12) (st : State) := run (.knext d a k) (scanBody (.knext d a k) true d a k) st

/-! `kred` (R60, R192, R330). -/

/-- A reduction makes its checks at issue, and is forked with its bounds, once the slot's earlier results are there (DEDUCED, log 31); the slot waits
for its join (R60, R62, R330). -/
def kredBody (i : Instr) (efmt : Nat) (d : BitVec 5) (c : BitVec 3) (k : BitVec 12) : M Flow := do
  let r ← scanRegion i c k
  let off := (← readX d).toNat
  let size := elemBytes efmt
  let ok := if r.sparse then off = 0 && r.efmt = efmt else off % size = 0 && off + size ≤ r.recordBytes
  if !ok then bad i r.index 15 6
  let (lo, hi) ← scanBounds r c
  needDrained
  let s ← get
  let f : Reduction :=
    { core := s.cur.core, slot := s.cur.slot, insn := wordOf i, region := k, entry := r.entry, agent := s.me, era := r.era, off := off, lo := lo, hi := hi,
      last := none, sum := 0, count := 0, heldSince := none, heldAt := 0 }
  set { s with reductions := s.reductions ++ [f] }
  postEvent .kredComplete { core := s.cur.core, slot := s.cur.slot } 1
  modMe fun t => t.park .engwait (.engine .kred)
  return .stay

def execKredI32 (d : BitVec 5) (c : BitVec 3) (k : BitVec 12) (st : State) := run (.kredI32 d c k) (kredBody (.kredI32 d c k) 4 d c k) st
def execKredI64 (d : BitVec 5) (c : BitVec 3) (k : BitVec 12) (st : State) := run (.kredI64 d c k) (kredBody (.kredI64 d c k) 5 d c k) st
def execKredF32 (d : BitVec 5) (c : BitVec 3) (k : BitVec 12) (st : State) := run (.kredF32 d c k) (kredBody (.kredF32 d c k) 1 d c k) st
def execKredF64 (d : BitVec 5) (c : BitVec 3) (k : BitVec 12) (st : State) := run (.kredF64 d c k) (kredBody (.kredF64 d c k) 0 d c k) st

/-- The field of one record, read once through the record pool; or the element itself (R60). -/
def kredField (r : Region) (efmt off v : Nat) : M Nat := do
  if r.sparse then return v
  else
    let n := elemBytes efmt
    let l ← poolPlace r (v + off) .load
    let s ← get
    if s.isBad l.place then throw (.badTable (l.guest / 8 * 8) (BitVec.ofNat 64 ((v + off) / 8 * 8))) else return s.readLoc l.place n

/-- The form, its pair and its format. -/
def kredParts : Instr → Option (Instr × BitVec 5 × Nat)
  | .kredI32 d c k => some (.kredI32 d c k, d, 4)
  | .kredI64 d c k => some (.kredI64 d c k, d, 5)
  | .kredF32 d c k => some (.kredF32 d c k, d, 1)
  | .kredF64 d c k => some (.kredF64 d c k, d, 0)
  | _ => none

def Reduction.place (f : Reduction) (c : CoreId) (k : SlotId) : Bool := f.core = c && f.slot = k

/-- The sum that a reduction writes to its register: i32 sign-extended, every other format as it is (R192). -/
def kredValue (efmt sum : Nat) : Word := if efmt = 4 then sext (BitVec.ofNat 32 sum) else BitVec.ofNat 64 sum

/-- A reduction has summed its last record: its slot has the sum and the count, and leaves `engwait` (R60, R192). -/
def kredJoin (d : BitVec 5) (efmt : Nat) (f : Reduction) : M Unit :=
  modMe fun t => { ((t.setX d (kredValue efmt f.sum)).setX (d + 1) (BitVec.ofNat 64 f.count)).unpark with pc := t.pc + 4 }

/-- One step of a reduction: the next record of its range in key order is read once and added to the sum, or there is none (R60, R62). -/
def kredStep (i : Instr) (d : BitVec 5) (efmt : Nat) (f : Reduction) : M Bool := do
  let combs ← readCombs f.agent f.entry causeConverted 0
  let r : Region := { form := i, index := f.region, agent := f.agent, entry := f.entry, combs := combs, era := f.era }
  let l ← shardsOf r (← readControl r)
  let lo := match f.last with | some p => r.firstOf p + 1 | none => r.firstOf f.lo
  match ← nextIn r l lo (r.lastOf f.hi) with
  | none =>
    kredJoin d efmt f
    return true
  | some (_, p, v) =>
    let x ← kredField r efmt f.off v
    let f' := { f with last := some (if r.sparse then p else p / 2 ^ 24), sum := elemAdd efmt f.sum x, count := f.count + 1, heldSince := none }
    modify fun s => { s with reductions := replaceFirst (fun g : Reduction => g.place f.core f.slot) f' s.reductions }
    return false

/-- The reduction of a slot ends. -/
def State.dropReduction (s : State) (c : CoreId) (k : SlotId) : State := { s with reductions := keepIf (fun f : Reduction => !f.place c k) s.reductions }

/-- The reduction of slot `args.slot` takes its next record, and with none left it completes; it stops only for a pool that fails, and is
held at the second stage as an access is (R60, R313, R329, R330). -/
def execKredComplete (s : State) : Host.Outcome State Fault Refusal :=
  let a := s.args
  let s := { s with cur := { core := a.core, slot := a.slot } }
  match firstOf (fun f : Reduction => f.place a.core a.slot) s.reductions with
  | none => .next s
  | some f =>
    if s.me.wait ≠ .engine .kred then .next (s.dropReduction a.core a.slot)
    else
      match (decode f.insn).toOption.bind kredParts with
      | none => .next (s.dropReduction a.core a.slot)
      | some (i, d, efmt) =>
        match (kredStep i d efmt f).run s with
        | .ok true s' => .next (s'.dropReduction a.core a.slot)
        | .ok false s' => .next (s'.post .kredComplete a 1)
        | .error (.held gpa cause xval) _ =>
          let s := (s.copyStageTwo f.agent.tenant gpa).post .kredComplete a 1
          if f.heldSince.isSome && f.heldAt = gpa then .next s
          else
            let f' := { f with heldSince := some s.now, heldAt := gpa }
            .next ({ s with reductions := replaceFirst (fun g : Reduction => g.place a.core a.slot) f' s.reductions }.post .secondStageHoldTimeout
              { core := a.core, slot := a.slot, reg := .x 2, word := xval, num := s.now, code := cause.setWidth 16 } holdLimit)
        | .error e _ => (s.dropReduction a.core a.slot).settle a.core a.slot f.insn e

/-- A reduction's hold of 2^22 cycles ends as a missing right: its form traps (R313, R329). -/
def State.kredHoldEnds (s : State) : Host.Outcome State Fault Refusal :=
  let a := s.args
  match firstOf (fun f : Reduction => f.place a.core a.slot && f.heldSince = some a.num) s.reductions with
  | some f => (s.dropReduction a.core a.slot).settle a.core a.slot f.insn (.trap (a.code.setWidth 8) a.word)
  | none => .next s

/-! `hopk` (R94, R203). -/

/-- The home comb of a label, or of a key of a shape (R94). -/
def homeComb (r : Region) (a : BitVec 3) : M CombId := do
  let w := (← myself).getL a
  if r.sparse then
    let e ← shapeFor r
    return r.sparseHome e (shardIndex e w.toNat)
  else
    let p ← forwardAll [{ op := opNo a, label := w, region := r }]
    let c ← readControl r
    match selectShard (placeOf (p.headD 0)) (← shardsOf r c) with
    | some e =>
      cacheShard r c.gen e
      return e.home
    | none => return r.primary

/-- Checks 4 and 5 on the label or key of `hopk` (R203, R323). -/
def checkPlace (r : Region) (a : BitVec 3) : M Unit := do
  if r.sparse then
    let _ ← keyOperand r a
  else checkLabel r (opNo a) ((← myself).getL a)

/-- The thread stays where it is when its home comb is its own, or holds no core of its partition; else it leaves for that comb, whose
router names the core (R94, R203). -/
def execHopk (a : BitVec 3) (k : BitVec 12) (st : State) :=
  run (.hopk a k) (do
    let r ← namedRegion (.hopk a k) k false .either
    checkPlace r a
    hopRefused (.hopk a k) false
    let b ← homeComb r a
    let s ← get
    if b = combOf s.cur.core then return .step
    else
      match firstOf (s.inPartition s.cur.core) (coresOfComb b) with
      | none => return .step
      | some c => leaveFor c (some b)) st

end Sys2Proof.Machine
end

