-- ==== Sys2Proof/Machine/Messages.lean ====
section
/-!
DEFINITION. Message forms, mailboxes, binding, waiting and waking (R96, R207 to R210, R228, R229, R296, R333, R341, R343).
-/
namespace Sys2Proof.Machine

/-! Sends (R207, R208). -/

/-- The reach mask of a tenant lets it send to an endpoint; its own package is always reached (R276). H reaches all. -/
def State.reaches (s : State) (c : CoreId) (tenant : BitVec 16) (endpoint : BitVec 10) : Bool :=
  endpoint = s.endpoint || tenant = hvTenant ||
  (let p := (s.core c).pbase
   match s.entryOf p tenant with
   | some e => (s.readWord (controlPage p + 2048 + 128 * e + endpoint.toNat / 64 * 8)).getLsbD (endpoint.toNat % 64)
   | none => false)

/-- The message that a send names. -/
def State.composed (s : State) (dest : Word) (cls : BitVec 3) (p : BitVec 5) : Message :=
  let t := s.me
  { dest := dest, sender := s.senderWord s.cur.core s.cur.slot, tenant := t.tenant, cls := cls, origin := .slot,
    payload := #v[t.getX p, t.getX (p + 1), t.getX (p + 2), t.getX (p + 3)], body := .plain }

/-- A send's checks in order; `blocking` for `msend` (R296, R331, R333, R341). -/
def sendChecks (i : Instr) (m : Message) (blocking : Bool) : M Unit := do
  let s ← get
  let t := s.me
  let cls : BitVec 8 := zext8 m.cls
  if !destZero m.dest then trap causeIllegal (xvalSub i 7)
  if blocking && s.holdsClass s.cur.core s.cur.slot then trap causeMessage (xvalUnit i cls 1)
  if destPackage m.dest = s.endpoint && t.tenant ≠ hvTenant && !s.inPartition s.cur.core (destCore m.dest) then
    trap causeMessage (xvalUnit i cls 7)
  if m.cls = 0 && (bits m.payload[3] 63 2 ≠ 0 || (m.payload[3].extractLsb' 0 2).toNat > t.priv.code.toNat) then
    trap causeMessage (xvalUnit i 0 8)
  if !s.reaches s.cur.core t.tenant (destPackage m.dest) then trap causeEndpoint m.dest
where
  zext8 (c : BitVec 3) : BitVec 8 := c.setWidth 8

/-- Messages that a network interface holds (R208). -/
def interfaceSize : Nat := 8

/-- The message is assembled and leaves; one for another endpoint passes to the fabric at once (R208, R275). -/
def State.transmit (s : State) (m : Message) : State :=
  let s := if destPackage m.dest = s.endpoint then s.setMyCore { s.myCore with iface := s.myCore.iface ++ [m] } else s
  s.route s.cur.core m

def execMsend (x p : BitVec 5) (c : BitVec 3) (st : State) :=
  run (.msend x p c) (do
    let m := (← get).composed (← readX x) c p
    sendChecks (.msend x p c) m true
    if (← get).myCore.iface.length ≥ interfaceSize then parkAs .memwait .interface
    modify fun s => s.transmit m
    return .step) st

def execMsendnb (d x p : BitVec 5) (c : BitVec 3) (st : State) :=
  run (.msendnb d x p c) (do
    let m := (← get).composed (← readX x) c p
    sendChecks (.msendnb d x p c) m false
    if (← get).myCore.iface.length ≥ interfaceSize then writeX d 1
    else
      modify fun s => s.transmit m
      writeX d 0
    return .step) st

/-! Handlers (R96, R209, R228). -/

/-- `mdone` ends the handler (R209). -/
def execMdone (st : State) :=
  run .mdone (do
    if (← get).me.handler.isNone then trap causeMessage (xvalUnit .mdone 0 2)
    modMe fun t => { t.park .msgwait .none with handler := none }
    return .stay) st

/-- `wfm` (R228). -/
def execWfm (st : State) :=
  run .wfm (do
    let s ← get
    if s.me.handler.isSome || !s.holdsClass s.cur.core s.cur.slot then trap causeMessage (xvalUnit .wfm 0 4)
    modMe fun t => t.park .msgwait .none
    return .stay) st

/-- `mbind` (R228, R296, R333). -/
def execMbind (x : BitVec 5) (c : BitVec 3) (st : State) :=
  run (.mbind x c) (do
    let i : Instr := .mbind x c
    let w ← readX x
    let s ← get
    let k := s.cur.slot
    let unit : BitVec 8 := c.setWidth 8
    let holder := (s.myCore.bindings[c.toNat]'(c.isLt)).map Prod.fst
    let unbinds := bits w 63 2 = 0
    let taken := match holder with | some j => j ≠ k | none => unbinds
    if taken && (c ≠ 0 || unbinds) then trap causeMessage (xvalUnit i unit 3)
    if s.me.priv = .u && c ≠ 0 && c ≠ 7 then trap causeMessage (xvalUnit i unit 5)
    if c = 0 then trap causeMessage (xvalUnit i 0 9)
    if unbinds then
      set (s.unbind s.cur.core c)
      return .step
    else
      set (s.setMyCore { s.myCore with bindings := s.myCore.bindings.set c.toNat (some (k, w &&& ~~~3#64)) c.isLt })
      if w.getLsbD 0 then return .step
      else
        modMe fun t => { t.park .msgwait .none with handler := none }
        return .stay) st

/-! Mailboxes (R133, R210, R322). -/

/-- What stands for a mailbox word's address in xval (R322). -/
def mailName (i : Instr) (b : BitVec 3) (w : BitVec 2) : Word := xvalUnit i (b.setWidth 8) (w.setWidth 8)

/-- The place of a mailbox word (R210). -/
def mailLoc (c : CoreId) (b : BitVec 3) (w : BitVec 2) : Loc := { place := .mail c b w, tag := { tenant := 0, line := 0 }, home := combOf c }

def execMbput (b : BitVec 3) (x : BitVec 5) (w : BitVec 2) (st : State) :=
  run (.mbput b x w) (do
    needRoom 1
    let v ← readX x
    sdefWord (mailLoc (← get).cur.core b w) (mailName (.mbput b x w) b w) v) st

def execMbget (d : BitVec 5) (b : BitVec 3) (w : BitVec 2) (st : State) :=
  run (.mbget d b w) (do
    let s ← get
    if s.cur.slot ≠ forager then trap causeMessage (xvalUnit (.mbget d b w) (b.setWidth 8) 6)
    needRoom 1
    ldfeWord (mailLoc s.cur.core b w) (mailName (.mbget d b w) b w) d) st

/-! Waking (R229, R297, R310). -/

/-- `wake`: an operation or a convert beside one is H's, and from S such a word is discarded (R297, R343). A wake for an endpoint that the
tenant does not reach is not sent (R276; DESIGN CHOICE, log 63). -/
def execWake (x : BitVec 5) (st : State) :=
  run (.wake x) (do
    let w ← readX x
    let t := (← get).me
    let op := field w 45 44
    if t.priv = .h && w.getLsbD 46 && op ≠ 0 then trap causeIllegal (xvalSub (.wake x) 7)
    if (t.priv = .h || op = 0) && (← get).reaches (← get).cur.core t.tenant (destPackage w) then modify fun s => s.sendWake w t.tenant
    return .step) st

end Sys2Proof.Machine
end

