-- ==== Sys2Proof/Machine/Move.lean ====
section
/-!
DEFINITION. The copy engine: commands, transfers, watermarks and the error latch (R61, R217 to R224, R315, R330, R342).
-/
namespace Sys2Proof.Machine

/-! Channels. -/

def State.channel (s : State) (c : CoreId) (ch : BitVec 2) : Channel := (s.core c).channels[ch.toNat]'(ch.isLt)

/-- The transfer at the head of a channel ends; of failures not yet reported the oldest is kept (R315). -/
def Channel.finish (h : Channel) (code : Nat) : Channel :=
  match h.queue with
  | [] => h
  | t :: r => { h with queue := r, latch := if code ≠ 0 && h.latch.isNone then some (t.id, code) else h.latch }

/-! What a transfer's accesses meet (R217, R224, R306, R315). -/

/-- The core's scratchpad and rings are a tenant's other than the agent's: its accesses to them wait until it is served (R269; DESIGN CHOICE,
log 12). -/
def needCore (agent : Slot) : M Unit := do
  let s ← get
  if !s.coreHolds s.cur.core agent.tenant then parkAs .memwait .none

/-- A place that has been found is used. -/
def useLoc (agent : Slot) : Except Stop Loc → M Loc
  | .error e => throw e
  | .ok l => do
    match l.place with
    | .spad _ _ => needCore agent
    | _ => pure ()
    modify fun s => s.noteStageTwo l
    return l

/-- A place that a transfer reaches in the forager's address space (R217). -/
def reachFor (agent : Slot) (va : Word) (n : Nat) (acc : Access) : M Loc := do
  let s ← get
  useLoc agent (s.locate s.cur.core agent va n acc)

/-- An address that no access of the transfer has (R315). -/
def outOfRange (spad : Nat) (priv : Level) (va : Word) : Bool :=
  if priv ≠ .h && bits va 63 57 ≠ (if va.getLsbD 56 then BitVec.allOnes 7 else 0#7) then true
  else if inWindow va then spad ≤ windowOffset va
  else priv = .h && va.toNat ≥ 2 ^ 40

/-- The error code of a cause met by a transfer (R315, R329, R330). -/
def transferCode (spad : Nat) (priv : Level) (cause : BitVec 8) (va : Word) : Nat :=
  if cause = causeConverted then 1
  else if cause = causeUncorrectable then 2
  else if cause = causeDenied then (if outOfRange spad priv va then 5 else 4)
  else if cause = causeAlign then 5
  else 6

/-! One unit of a transfer (R220 to R223). -/

/-- The word at an address, with its bit. -/
def fetchWord (agent : Slot) (src : Word) : M (Word × Bool) := do
  let l ← reachFor agent src 8 .load
  checkGood l src 8
  let s ← get
  return (BitVec.ofNat 64 (s.readLoc l.place 8), s.isFull l.place)

/-- A word stored together with its bit (R147, R220). -/
def depositWord (agent : Slot) (dst : Word) (v : Word) (full : Bool) : M Unit := do
  let l ← reachFor agent dst 8 .store
  modify fun s => (s.recall l).writeWithBit l v full

def copyWord (agent : Slot) (src dst : Word) : M Unit := do
  let (v, full) ← fetchWord agent src
  depositWord agent dst v full

/-- A byte offset as a word. -/
def offset (n : Nat) : Word := BitVec.ofNat 64 n

/-- Bytes of an element of `mvgth` and `mvsct` (R221). -/
def elementBytes (arg : Word) : Nat := 2 ^ field arg 34 32

/-- A word of an element of `mvgth` or `mvsct`; its index is read before its first word (R220, R221). -/
def listedUnit (t : Transfer) (gather : Bool) : M Transfer := do
  let e := elementBytes t.arg
  let i := 8 * t.done / e
  match t.index with
  | none =>
    let va := t.desc[2] + offset (4 * i)
    let l ← reachFor t.agent va 4 .load
    checkGood l va 4
    return { t with index := some ((← get).readLoc l.place 4) }
  | some idx =>
    let near := offset (8 * t.done)
    let far := offset (e * idx + 8 * t.done % e)
    if gather then copyWord t.agent (t.desc[1] + far) (t.desc[0] + near)
    else copyWord t.agent (t.desc[1] + near) (t.desc[0] + far)
    return { t with done := t.done + 1, index := if 8 * (t.done + 1) % e = 0 then none else some idx }

/-- Length in bytes of the forms that name one. -/
def Transfer.bytes (t : Transfer) : Nat := field t.arg 31 0

/-- A word of a core's scratchpad. -/
def spadLoc (c : CoreId) (o : Nat) : Loc := { place := .spad c o, tag := { tenant := 0, line := 0 }, home := combOf c }

/-- A step of `mvring` once it has its slot: a word, then `rgtl`, then the handle with the effect of `sdef` (R168, R223). -/
def slotUnit (ch : BitVec 2) (t : Transfer) (slot : Nat) : M Transfer := do
  let g : BitVec 3 := t.desc[0].extractLsb' 0 3
  needCore t.agent
  let s ← get
  match s.myCore.ring g with
  | none => return t
  | some r =>
    let words := t.bytes / 8
    if t.done < words then
      let (v, full) ← fetchWord t.agent (t.desc[1] + offset (8 * t.done))
      modify fun s => s.writeWithBit (spadLoc s.cur.core (r.base + slot * r.size + 8 * t.done)) v full
      return { t with done := t.done + 1 }
    else if t.done = words then
      modMyCore fun q => q.setRing g r.push
      return { t with done := t.done + 1 }
    else
      let va := t.desc[2]
      let l ← reachFor t.agent va 8 .rmw
      checkGood l va 8
      modify fun s => s.recall l
      let handle : Word := 0#49 ++ BitVec.ofNat 7 slot ++ 0#5 ++ g
      let s ← get
      if s.isFull l.place then
        modify fun s => { s with waiters := s.waiters ++
          [{ loc := l.point, agent := .channel s.cur.core ch, tenant := t.agent.tenant, kind := .sdef, dest := 0, value := handle, va := va, since := s.now }] }
        return t
      else
        modify fun s => s.fillWord l handle
        return { t with done := t.done + 1 }

/-! Boxes of a sparse region (R61). -/

/-- Corner and extent of a dimension, as the descriptor gives them (R221). -/
def boxCorner (w : Vector Word 6) (d : Nat) : Nat := coordField w[1] w[2] d
def boxExtent (w : Vector Word 6) (d : Nat) : Nat := coordField w[3] w[4] d

/-- Elements of a box. -/
def boxSize (e : BitVec 512) (w : Vector Word 6) : Nat := (dimOrder e).foldl (fun n d => n * boxExtent w d) 1

/-- The box is not empty and lies within the shape. -/
def boxOk (e : BitVec 512) (w : Vector Word 6) : Bool :=
  allOf (fun d => 1 ≤ boxExtent w d && boxCorner w d + boxExtent w d ≤ dimExtent e d) (dimOrder e)

/-- The place of element `i` in dimension `d`, the dimensions given least significant first. -/
def boxDigit (w : Vector Word 6) (d i : Nat) : List Nat → Nat
  | [] => 0
  | b :: l => if b = d then i % boxExtent w b else boxDigit w d (i / boxExtent w b) l

/-- The key of element `i` of a box in row-major order. -/
def boxKey (e : BitVec 512) (w : Vector Word 6) (i : Nat) : Nat :=
  packKey e fun d => boxCorner w d + boxDigit w d i (dimOrder e).reverse

/-- The region of a transfer, by the entry that its issue read, and its shape (R328, R330). -/
def boxRegion (form : Instr) (t : Transfer) : M (Region × BitVec 512) := do
  let combs ← readCombs t.agent t.entry causePool 0
  let index := BitVec.ofNat 12 (field t.arg 11 0)
  let era := (← get).eraOf t.agent.tenant index
  let r : Region := { form := form, index := index, agent := t.agent, entry := t.entry, combs := combs, era := era }
  match ← readObject t.agent r.shape causePool 0 with
  | some sh =>
    if !isShape r.shape r.efmt sh || !boxOk sh t.desc then trap causePool 0
    return (r, sh)
  | none => trap causePool 0

/-- The word that holds an address. -/
def Loc.word (l : Loc) (va : Word) : Loc :=
  let i := va.toNat % 8
  { l with place := match l.place with | .mem a => .mem (a - i) | .spad c o => .spad c (o - i) | p => p }

/-- An element written to the flat side; its word is left full, and one that it fills serves its waiters (R61, R147). -/
def depositElem (agent : Slot) (va : Word) (n v : Nat) : M Unit := do
  let l ← reachFor agent va n .store
  storeCheck l va n
  modify fun s =>
    let s := s.recall l
    let w := l.word va
    if s.isFull w.place then s.storeLoc l.place n v
    else
      let s := (s.writeLoc l.place n v).setBad w.place (n < 8 && s.isBad w.place)
      s.fillWord w (BitVec.ofNat 64 (s.readLoc w.place 8))

/-- One element of a box, in ascending row-major order (R62 gives none; DESIGN CHOICE, log 75). A shard's first element makes its prefix map entry, for whose acknowledgements the channel then waits (R45). -/
def boxUnit (form : Instr) (ch : BitVec 2) (t : Transfer) (dense : Bool) : M Transfer := do
  let (r, sh) ← boxRegion form t
  let n := elemBytes r.efmt
  let va := t.desc[0] + offset (n * t.done)
  let key := boxKey sh t.desc t.done
  if dense then
    let v := (← loadElem r key).getD 0
    depositElem t.agent va n v
  else
    let l ← reachFor t.agent va n .load
    checkGood l va n
    let v := (← get).readLoc l.place n
    if !elemZero r.efmt v then
      match ← storeElem r 15 key v with
      | some id => modify fun s => s.claimJob id none (some ch)
      | none => pure ()
  return { t with done := t.done + 1 }

/-! Remote forms (R222, R275, R350). -/

/-- Bytes that one packet carries at most (R275). -/
def packetBytes : Nat := 4096

/-- A one-sided packet of a transfer. -/
def movePacket (cls : PacketClass) (c : CoreId) (ch : BitVec 2) (t : Transfer) (addr : Word) : KeptPacket :=
  { barePacket (t.desc[2].extractLsb' 0 10) cls t.agent.tenant with transfer := some (c, ch, t.id), addr := addr }

/-- A one-sided packet as its destination receives it. -/
def KeptPacket.packet (p : KeptPacket) (source : BitVec 10) : Packet :=
  { source := source, tenant := p.tenant, seq := p.seq, addr := p.addr, len := BitVec.ofNat 13 p.len, data := p.data, full := p.full, op := p.op,
    operand := p.operand, expected := p.expected }

/-- The event that a one-sided packet is at its destination. -/
def PacketClass.event : PacketClass → Instr
  | .write => .oneSidedWrite
  | .atomic => .remoteAtomic
  | _ => .oneSidedRead

/-- A packet of a transfer leaves; one for this package arrives here (R276). -/
def sendMove (p : KeptPacket) (t : Transfer) : M Transfer := do
  let s ← get
  let seq := s.fresh
  set (s.sendPacket p)
  if p.dest = s.endpoint then
    postEvent p.cls.event { core := s.cur.core, slot := forager, pkt := some (({ p with seq := seq } : KeptPacket).packet s.endpoint), num := seq } 1
  return { t with owed := [seq] }

/-- Words that the next packet of a transfer carries. -/
def Transfer.chunk (t : Transfer) : Nat := Nat.min (packetBytes / 8) (t.total - t.done)

def remoteGetUnit (ch : BitVec 2) (t : Transfer) : M Transfer := do
  match t.got with
  | (v, full) :: r =>
    depositWord t.agent (t.desc[0] + offset (8 * t.done)) v full
    return { t with done := t.done + 1, got := r }
  | [] =>
    let p := movePacket .read (← get).cur.core ch t (t.desc[1] + offset (8 * t.done))
    sendMove { p with len := 8 * t.chunk } t

def remotePutUnit (ch : BitVec 2) (t : Transfer) : M Transfer := do
  if t.got.length < t.chunk then
    let w ← fetchWord t.agent (t.desc[1] + offset (8 * (t.done + t.got.length)))
    return { t with got := t.got ++ [w] }
  else
    let p := movePacket .write (← get).cur.core ch t (t.desc[0] + offset (8 * t.done))
    sendMove { p with len := 8 * t.chunk, data := t.got.flatMap fun w => bytesOfNat w.1.toNat 8, full := t.got.map Prod.snd } t

def remoteAmoUnit (ch : BitVec 2) (t : Transfer) : M Transfer := do
  match t.got with
  | (v, _) :: _ =>
    depositWord t.agent t.desc[0] v true
    return { t with done := t.done + 1, got := [] }
  | [] =>
    let p := movePacket .atomic (← get).cur.core ch t t.desc[1]
    sendMove { p with len := 8, op := (AmoOp.ofCode (t.desc[2].extractLsb' 16 4)).getD .swap, operand := t.arg, expected := t.desc[3] } t

/-! A channel moves on. -/

/-- One unit of a transfer; the last of `ssparse` comes behind its elements, once each is performed, so that a prefix map entry which the
last of them makes is valid before the transfer completes (R45, R62, R218). -/
def transferUnit (ch : BitVec 2) (t : Transfer) : M Transfer := do
  let at_ : Word := offset (8 * t.done)
  match t.op with
  | .cp =>
    copyWord t.agent (t.desc[1] + at_) (t.desc[0] + at_)
    return { t with done := t.done + 1 }
  | .twoD =>
    let n := t.bytes / 8
    let row : Word := offset (t.done / n)
    let col : Word := offset (8 * (t.done % n))
    copyWord t.agent (t.desc[1] + row * t.desc[3] + col) (t.desc[0] + row * t.desc[2] + col)
    return { t with done := t.done + 1 }
  | .gather => listedUnit t true
  | .scatter => listedUnit t false
  | .fill =>
    depositWord t.agent (t.desc[0] + at_) t.desc[1] (t.desc[2].getLsbD 0)
    return { t with done := t.done + 1 }
  | .remoteGet => remoteGetUnit ch t
  | .remotePut => remotePutUnit ch t
  | .remoteAmo => remoteAmoUnit ch t
  | .ring => match t.index with | some k => slotUnit ch t k | none => return t
  | .dense => boxUnit (.sdense 0 ch 0 0) ch t true
  | .sparse => if t.done + 1 < t.total then boxUnit (.ssparse 0 ch 0 0) ch t false else return { t with done := t.done + 1 }

/-- The transfer uses the core's scratchpad or rings. -/
def Transfer.onCore (t : Transfer) : Bool := t.op = .ring || someOf inWindow t.desc.toList

/-- What becomes of a transfer whose access stopped: a stall, a hold, or an end with an error (R224, R313, R315). -/
def State.stopTransfer (s : State) (c : CoreId) (ch : BitVec 2) (t : Transfer) : Stop → Host.Outcome State Fault Refusal
  | .fault f => .fault f
  | .translation f =>
    .next ((s.faultRecord c (s.senderWord c forager) t.agent.tenant (channelWord s.endpoint c ch) 0 true f).modChannel c ch fun h =>
      h.modHead fun t => { t with stalled := some (f.va, f.acc), heldSince := none })
  | .held gpa _ _ =>
    if t.heldSince.isSome && t.heldAt = gpa then .next s
    else
      .next (((s.copyStageTwo t.agent.tenant gpa).modChannel c ch fun h => h.modHead fun t => { t with heldSince := some s.now, heldAt := gpa }).post
        .secondStageHoldTimeout { core := c, slot := forager, reg := .x 1, ch := ch, num := s.now, code := 4 } holdLimit)
  | .shard region entry home va gpa => .next (((s.failShard t.agent.tenant region entry home va).logBadAt c gpa).modChannel c ch fun h => h.finish 2)
  | .badTable gpa _ => .next ((s.logBadAt c gpa).modChannel c ch fun h => h.finish 2)
  | .trap cause va =>
    let s := if cause = causeUncorrectable then s.logBadData c t.agent va else s
    .next (s.modChannel c ch fun h => h.finish (transferCode (spadSize (s.core c).split) t.agent.priv cause va))
  | .park .memwait (.walk va acc) =>
    .next ((s.modChannel c ch fun h => h.modHead fun t => { t with walking := some (va, acc), heldSince := none }).post
      .pageWalk { core := c, slot := forager, reg := .x 1, ch := ch, word := va, acc := acc })
  | .park _ _ => .next (s.modChannel c ch fun h => h.modHead fun t => { t with heldSince := none })

/-- The walk for the access of channel `args.ch` of core `args.core` is done (R66, R67, R224, R317). -/
def State.walkTransfer (s : State) : Host.Outcome State Fault Refusal :=
  let a := s.args
  let c := a.core
  match (s.channel c a.ch).queue with
  | [] => .next s
  | t :: _ =>
    if t.walking ≠ some (a.word, a.acc) then .next s
    else
      let found := s.walk t.agent a.word a.acc
      let s := s.readTables c t.agent.tenant (s.walkReads t.agent a.word (field t.agent.xlroot 39 14 * 2 ^ 14) 0 4)
      let s := s.modChannel c a.ch fun h => h.modHead fun t => { t with walking := none }
      let s := { s with cur := { core := c, slot := forager } }
      match found with
      | .leaf pte level at_ gpa => .next (s.fillFrom c t.agent a.word a.acc pte level at_ gpa)
      | .wait f => s.stopTransfer c a.ch t (.translation f)
      | .bad => s.stopTransfer c a.ch t (.trap causeUncorrectable a.word)

/-- Bytes that a transfer has moved. -/
def Transfer.moved (t : Transfer) : Nat :=
  (match t.op with | .dense | .sparse => elemBytes (field t.entry 216 214) | _ => 8) * t.done

/-- The transfer stands at a 4,096-byte boundary under a freeze of its tenant whose slots are not yet out. Once those hand over, a channel
with a transfer that uses the core's own state runs on, since that state passes after it (R269, R298, R346; DEDUCED, log 35). -/
def State.pausedByFreeze (s : State) (c : CoreId) (ch : BitVec 2) (t : Transfer) : Bool :=
  let leaves (u : Transfer) : Bool := u.agent.tenant = t.agent.tenant && u.onCore
  t.moved % 4096 = 0 && s.freezes t.agent.tenant &&
  (match s.schedulerOf (s.core c).pbase with
   | some d => d.engineOps.isNone && (s.serves c t.agent.tenant || !someOf leaves (s.channel c ch).queue)
   | none => false)

/-- The head transfer of a channel can move on: it is not stalled or paused, awaits no walk, no answer, no acknowledgements, no ring slot and
no place for its handle. -/
def State.channelReady (s : State) (c : CoreId) (ch : BitVec 2) : Bool :=
  match (s.channel c ch).queue with
  | [] => false
  | t :: _ =>
    t.bad.isSome ||
    (t.stalled.isNone && t.walking.isNone && t.owed.isEmpty && !s.pausedByFreeze c ch t &&
      !someOf (fun w : Waiter => w.agent = .channel c ch && w.tenant = t.agent.tenant) s.waiters &&
      !someOf (fun j : PrefixJob => j.core = c && j.ch = some ch) s.prefixJobs &&
      (t.op ≠ .ring ||
        (t.index.isSome && (t.done ≠ t.bytes / 8 || (s.core c).ringIs (t.desc[0].extractLsb' 0 3) fun r => r.free ≥ 1))))

/-- The transfer at the head of channel `args.ch` of core `args.core` performs its next unit, and with its last it completes (R218). -/
def execTransferComplete (s : State) : Host.Outcome State Fault Refusal :=
  let c := s.args.core
  let ch := s.args.ch
  let s := { s with cur := { core := c, slot := forager } }
  if !s.channelReady c ch then .next s
  else
    match (s.channel c ch).queue with
    | [] => .next s
    | t :: _ =>
      match t.bad with
      | some code => .next (s.modChannel c ch fun h => h.finish code)
      | none =>
        if t.total ≤ t.done then .next (s.modChannel c ch fun h => h.finish 0)
        else
          match (transferUnit ch t).run s with
          | .ok t' s' =>
            .next (s'.modChannel c ch fun h =>
              if t'.total ≤ t'.done then h.finish 0 else h.modHead fun _ => { t' with heldSince := none })
          | .error e _ => s.stopTransfer c ch t e

/-- The head transfer of a channel is an `mvring` that waits for a ring slot, and the ring has one. -/
def State.ringSlotFree (s : State) (c : CoreId) (ch : BitVec 2) : Bool :=
  match (s.channel c ch).queue with
  | [] => false
  | t :: _ => t.op = .ring && t.bad.isNone && t.index.isNone && (s.core c).ringIs (t.desc[0].extractLsb' 0 3) fun r => r.free ≥ 1

/-- The same, of a transfer whose tenant has the rings of the core: one of a tenant switched out waits until it is served (R269). -/
def State.ringSlotWanted (s : State) (c : CoreId) (ch : BitVec 2) : Bool :=
  s.ringSlotFree c ch && (match (s.channel c ch).queue with | [] => false | t :: _ => s.coreHolds c t.agent.tenant)

/-- The head transfer of a channel moves on by itself: it can, or what it awaits comes. -/
def State.channelRuns (s : State) (c : CoreId) (ch : BitVec 2) (t : Transfer) : Bool :=
  t.heldSince.isNone &&
  (s.channelReady c ch || s.ringSlotWanted c ch || t.walking.isSome || !t.owed.isEmpty || someOf (fun j : PrefixJob => j.core = c && j.ch = some ch) s.prefixJobs)

/-- A transfer of a tenant uses the core's own state, in a channel that runs on up to it: a hand-over of that state waits for it (R269;
DESIGN CHOICE, log 12). -/
def State.moverBusy (s : State) (c : CoreId) (tenant : BitVec 16) : Bool :=
  let uses (t : Transfer) : Bool := t.agent.tenant = tenant && t.onCore
  someOf (fun ch =>
    match (s.channel c ch).queue with
    | [] => false
    | t :: r => someOf uses (t :: r) && (uses t || !t.onCore) && s.channelRuns c ch t)
    ([0, 1, 2, 3] : List (BitVec 2))

/-- An `mvring` transfer takes the tail slot of its ring (R223). -/
def execMvringSlotFree (s : State) : Host.Outcome State Fault Refusal :=
  let c := s.args.core
  let ch := s.args.ch
  if !s.ringSlotFree c ch then .next s
  else .next (s.modChannel c ch fun h => h.modHead fun t => { t with index := ((s.core c).ring (t.desc[0].extractLsb' 0 3)).map (·.tail) })

/-! Commands (R217, R218, R221, R342). -/

/-- Words of the descriptor that hold something but should be 0. -/
def anySet (w : Vector Word 6) (l : List (Fin 6)) : Bool := someOf (fun i => w[i] ≠ 0) l

/-- Words and a length that should be multiples of 8. -/
def misaligned (n : Nat) (l : List Word) : Bool := n % 8 ≠ 0 || someOf (fun w => !multipleOf 8 w) l

/-- The descriptor or argument breaks the layout of its form (R221, R342). -/
def State.commandBad (s : State) (c : CoreId) (op : MoveOp) (w : Vector Word 6) (arg : Word) : Bool :=
  let n := field arg 31 0
  match op with
  | .cp => misaligned n [w[0], w[1]] || anySet w [2, 3, 4, 5] || field arg 63 32 ≠ 0
  | .twoD => misaligned n [w[0], w[1], w[2], w[3]] || anySet w [4, 5]
  | .gather | .scatter =>
    misaligned 0 [w[0], w[1]] || !multipleOf 4 w[2] || anySet w [3, 4, 5] || field arg 63 35 ≠ 0 || field arg 34 32 < 3
  | .fill => misaligned n [w[0]] || field w[2] 63 1 ≠ 0 || anySet w [3, 4, 5] || field arg 63 32 ≠ 0
  | .remoteGet | .remotePut => misaligned n [w[0], w[1]] || field w[2] 63 10 ≠ 0 || anySet w [3, 4, 5] || field arg 63 32 ≠ 0
  | .remoteAmo =>
    misaligned 0 [w[0], w[1]] || field w[2] 15 10 ≠ 0 || field w[2] 63 20 ≠ 0 || (AmoOp.ofCode (w[2].extractLsb' 16 4)).isNone || anySet w [4, 5]
  | .ring =>
    misaligned n [w[1], w[2]] || field w[0] 63 3 ≠ 0 || anySet w [3, 4, 5] || field arg 63 32 ≠ 0 ||
    (match (s.core c).ring (w[0].extractLsb' 0 3) with | some r => n > r.size | none => true)
  | .dense | .sparse => misaligned 0 [w[0]] || anySet w [5] || field arg 63 12 ≠ 0

/-- The endpoint of a remote form lies outside the reach mask (R342). -/
def State.commandUnreached (s : State) (c : CoreId) (op : MoveOp) (w : Vector Word 6) (tenant : BitVec 16) : Bool :=
  match op with
  | .remoteGet | .remotePut | .remoteAmo => !s.reaches c tenant (w[2].extractLsb' 0 10)
  | _ => false

/-- Units of a transfer. -/
def commandTotal (op : MoveOp) (shape : BitVec 512) (w : Vector Word 6) (arg : Word) : Nat :=
  let n := field arg 31 0
  match op with
  | .cp | .fill | .remoteGet | .remotePut => n / 8
  | .twoD => n / 8 * field arg 63 32
  | .gather | .scatter => n * (elementBytes arg / 8)
  | .remoteAmo => 1
  | .ring => n / 8 + (if w[2] = 0 then 1 else 2)
  | .dense => boxSize shape w
  | .sparse => boxSize shape w + 1

/-- Checks 1 to 3 on the region of a box form: its entry and its shape (R330). -/
def boxShape (i : Instr) (op : MoveOp) (arg : Word) : M (BitVec 512 × BitVec 512) := do
  if op = .dense || op = .sparse then
    let r ← namedRegion i (arg.extractLsb' 0 12) (op = .sparse) .sparse
    return (r.entry, ← shapeFor r)
  else return (0, 0)

/-- The six words of a descriptor, and the lines that its loads wait for. -/
def readDescriptor (va : Word) : M (Vector Word 6 × List LineTag) := do
  if !multipleOf 16 va then trap causeAlign va
  let (a, p) ← loadVA va 16
  let (b, q) ← loadVA (va + 16) 16
  let (c, r) ← loadVA (va + 32) 16
  let w (n i : Nat) : Word := BitVec.ofNat 64 (n / 2 ^ (64 * i))
  return (#v[w a 0, w a 1, w b 0, w b 1, w c 0, w c 1], [p, q, r].filterMap id)

/-- A command takes an id; whatever its contents come to, its transfer reports (R217, R342). -/
def commandBody (i : Instr) (op : MoveOp) (d : BitVec 5) (ch : BitVec 2) (x y : BitVec 5) : M Flow := do
  needRoom 3
  let arg ← readX y
  let (entry, shape) ← boxShape i op arg
  let (w, lines) ← readDescriptor (← readX x)
  let s ← get
  let c := s.cur.core
  if (op = .dense || op = .sparse) && !boxOk shape w then bad i (arg.extractLsb' 0 12) 15 5
  if (s.channel c ch).queue.length ≥ 16 then engineWait (.channelRoom ch)
  let id := (s.channel c ch).next
  let t : Transfer :=
    { op := op, id := id, desc := w, arg := arg, agent := s.me, total := commandTotal op shape w arg, done := 0, index := none, got := [], owed := [],
      stalled := none, walking := none, heldSince := none, heldAt := 0, entry := entry,
      bad := if s.commandBad c op w arg then some 5 else if s.commandUnreached c op w s.me.tenant then some 3 else none }
  modify fun s => s.modChannel c ch fun h => { h with next := h.next + 1, queue := h.queue ++ [t] }
  lines.forM fun tag => modMe fun t => t.launchFlight (.x 0) true (some tag)
  writeX d (zext id)
  return .step

def execMvcp (d : BitVec 5) (c : BitVec 2) (s t : BitVec 5) (st : State) := run (.mvcp d c s t) (commandBody (.mvcp d c s t) .cp d c s t) st
def execMv2d (d : BitVec 5) (c : BitVec 2) (s t : BitVec 5) (st : State) := run (.mv2d d c s t) (commandBody (.mv2d d c s t) .twoD d c s t) st
def execMvgth (d : BitVec 5) (c : BitVec 2) (s t : BitVec 5) (st : State) := run (.mvgth d c s t) (commandBody (.mvgth d c s t) .gather d c s t) st
def execMvsct (d : BitVec 5) (c : BitVec 2) (s t : BitVec 5) (st : State) := run (.mvsct d c s t) (commandBody (.mvsct d c s t) .scatter d c s t) st
def execMvfill (d : BitVec 5) (c : BitVec 2) (s t : BitVec 5) (st : State) := run (.mvfill d c s t) (commandBody (.mvfill d c s t) .fill d c s t) st
def execMvget (d : BitVec 5) (c : BitVec 2) (s t : BitVec 5) (st : State) := run (.mvget d c s t) (commandBody (.mvget d c s t) .remoteGet d c s t) st
def execMvput (d : BitVec 5) (c : BitVec 2) (s t : BitVec 5) (st : State) := run (.mvput d c s t) (commandBody (.mvput d c s t) .remotePut d c s t) st
def execMvamo (d : BitVec 5) (c : BitVec 2) (s t : BitVec 5) (st : State) := run (.mvamo d c s t) (commandBody (.mvamo d c s t) .remoteAmo d c s t) st
def execMvring (d : BitVec 5) (c : BitVec 2) (s t : BitVec 5) (st : State) := run (.mvring d c s t) (commandBody (.mvring d c s t) .ring d c s t) st
def execSdense (d : BitVec 5) (c : BitVec 2) (s t : BitVec 5) (st : State) := run (.sdense d c s t) (commandBody (.sdense d c s t) .dense d c s t) st
def execSsparse (d : BitVec 5) (c : BitVec 2) (s t : BitVec 5) (st : State) := run (.ssparse d c s t) (commandBody (.ssparse d c s t) .sparse d c s t) st

/-! Watermarks (R219, R315). -/

/-- The latch reports to a wait for `id` (R315). -/
def Channel.reports (h : Channel) (id : BitVec 32) : Option (BitVec 32 × Nat) :=
  match h.latch with
  | some (i, code) => if (id - i).toNat < 2 ^ 31 then some (i, code) else none
  | none => none

/-- xval of cause 0x18 (R315). -/
def copyError (i : BitVec 32) (code : Nat) (ch : BitVec 2) : Word := i ++ 0#8 ++ BitVec.ofNat 8 code ++ 0#14 ++ ch

def execMvwait (ch : BitVec 2) (x : BitVec 5) (st : State) :=
  run (.mvwait ch x) (do
    let id : BitVec 32 := (← readX x).extractLsb' 0 32
    let s ← get
    let h := s.channel s.cur.core ch
    if !h.reached id then engineWait (.transfer ch id)
    match h.reports id with
    | none => return .step
    | some (i, code) =>
      if !s.me.drained then parkAs .memwait .earlier
      set ((s.modChannel s.cur.core ch fun h => { h with latch := none }).takeTrap s.cur.core s.cur.slot causeCopy (copyError i code ch))
      return .stay) st

def execMvid (d : BitVec 5) (ch : BitVec 2) (st : State) :=
  run (.mvid d ch) (do
    let s ← get
    writeX d (zext (s.channel s.cur.core ch).watermark)
    return .step) st

end Sys2Proof.Machine
end

