-- ==== Sys2Proof/Machine/Fabric.lean ====
section
/-!
DEFINITION. One-sided packets served for a peer, and what comes back to a packet's source: replies, acknowledgements, resends (R222, R275,
R276, R348 to R350).
-/
namespace Sys2Proof.Machine

/-! Serving a peer (R222, R276). -/

/-- The slot in whose address space a packet's address lies: the local tenant's, which the import table names, as slot `args.slot` of core
`args.core` has it for that tenant. The spec has the runtime register an address space for a peer's tenant and gives no register for it
(R222, R276; DEDUCED, log 33). -/
def State.servant (s : State) (p : Packet) : Option Slot :=
  let c := s.args.core
  if (s.core c).plen = 0 then none
  else
    (s.importOf (s.core c).pbase p.source p.tenant).map fun t =>
      let k := s.slot c s.args.slot
      { (if k.tenant = t then k else k.standing t) with priv := .u }

/-- `n` words from an address, each with its bit. -/
def fetchWords (agent : Slot) (va : Word) : Nat → M (List (Word × Bool))
  | 0 => return []
  | n + 1 => do
    let w ← fetchWord agent va
    return w :: (← fetchWords agent (va + 8) n)

/-- Words stored one after another, each with its bit. -/
def depositWords (agent : Slot) (va : Word) : List (Word × Bool) → M Unit
  | [] => return ()
  | w :: r => do
    depositWord agent va w.1 w.2
    depositWords agent (va + 8) r

/-- Bytes stored one after another. -/
def depositBytes (agent : Slot) (va : Word) : List Byte → M Unit
  | [] => return ()
  | b :: r => do
    let l ← reachFor agent va 1 .store
    storeCheck l va 1
    modify fun s => (s.recall l).storeLoc l.place 1 b.toNat
    depositBytes agent (va + 1) r

/-- Whole words of a list of bytes, each with its bit. -/
def wordsOf (data : List Byte) (full : List Bool) (n : Nat) : List (Word × Bool) :=
  (List.range n).map fun i => (BitVec.ofNat 64 (natOfBytes ((data.drop (8 * i)).take 8)), (full[i]?).getD true)

/-- The answer to a packet leaves, in a packet of its class that is kept as any other; one for this package's own transfer comes about here
(R275, R348). -/
def State.sendAnswer (s : State) (p : Packet) (cls : PacketClass) (w : Answer) : State :=
  if p.source = s.endpoint then s.post .fabricReply { num := w.seq, flag := w.ok, word := w.word, data := w.data, full := w.full } 1
  else s.sendPacket { barePacket p.source cls p.tenant with answer := some w }

def PacketClass.code : PacketClass → Nat
  | .message => 0 | .read => 1 | .write => 2 | .atomic => 3 | .management => 4

/-- The class with a code (R275). -/
def PacketClass.ofCode : Nat → PacketClass
  | 1 => .read | 2 => .write | 3 => .atomic | 4 => .management | _ => .message

/-- A packet is answered: performed, with what it read, or refused (R348 to R350). -/
def State.answerPacket (s : State) (p : Packet) (cls : PacketClass) (ok : Bool) (w : Word) (l : List (Word × Bool)) : State :=
  (s.noteReceived p.source cls p.seq ok).sendAnswer p cls
    { seq := p.seq, ok := ok, word := w, data := (l.flatMap fun w => bytesOfNat w.1.toNat 8).take p.len.toNat, full := l.map Prod.snd }

/-- The event of a packet that stands in the agenda. -/
def Due.isPacket (p : Packet) (cls : PacketClass) (d : Due) : Bool := d.event.kind = cls.event && d.event.args.pkt = some p

/-- A packet that waits is refused, with nothing of it performed. -/
def State.refusePacket (s : State) (p : Packet) (cls : PacketClass) : State :=
  { s with agenda := keepIf (fun d => !d.isPacket p cls) s.agenda }.answerPacket p cls false 0 []

/-- The packet of the event that comes about waits, first in its channel, and is then served with operands `a`. -/
def State.packetWaits (s : State) (cls : PacketClass) (delay : Nat) (a : EventArgs) : State :=
  { s with agenda := { after := s.now + delay, event := { kind := cls.event, args := a } } :: s.agenda }

/-- A packet is served once and as a whole; a repeated one is acknowledged again. One that the second stage holds is tried again, first in
its channel, until it has been held too long: `args.word` is then one more than the cycle since when, and `args.num` the address. Any other
stop refuses the packet with nothing of it performed; one whose access has to be walked for comes to this only after the walk (R66, R313,
R348 to R350). -/
def State.servePacket (s : State) (cls : PacketClass) (body : Slot → Packet → M (Word × List (Word × Bool))) : Host.Outcome State Fault Refusal :=
  match s.args.pkt with
  | none => .next s
  | some p =>
    if s.repeated p.source cls p.seq then .next (s.sendAck p.source cls p.seq true)
    else if s.overGap p.source cls then .next s
    else
      let a := s.args
      match s.servant p with
      | none => .next (s.answerPacket p cls false 0 [])
      | some t =>
        match (body t p).run { s with cur := { core := a.core, slot := a.slot } } with
        | .ok (w, l) s' => .next (s'.answerPacket p cls true w l)
        | .error (.fault f) _ => .fault f
        | .error (.held gpa _ _) _ =>
          let s := s.copyStageTwo t.tenant gpa
          if a.word ≠ 0 && a.num = gpa then .next (s.packetWaits cls 1 a)
          else
            .next ((s.packetWaits cls 1 { a with word := BitVec.ofNat 64 (s.now + 1), num := gpa }).post .secondStageHoldTimeout
              { core := a.core, slot := a.slot, reg := .x 4, pkt := some p, code := BitVec.ofNat 16 cls.code, num := s.now } holdLimit)
        | .error (.badTable gpa _) _ => .next ((s.logBadAt a.core gpa).answerPacket p cls false 0 [])
        | .error (.trap cause va) _ => .next ((if cause = causeUncorrectable then s.logBadData a.core t va else s).answerPacket p cls false 0 [])
        | .error _ _ => .next (s.answerPacket p cls false 0 [])

/-- A one-sided read (R222, R275). -/
def readPacket (t : Slot) (p : Packet) : M (Word × List (Word × Bool)) := do return (0, ← fetchWords t p.addr ((p.len.toNat + 7) / 8))

/-- A one-sided write: whole words with their bits, then the bytes left (R222, R275). -/
def writePacket (t : Slot) (p : Packet) : M (Word × List (Word × Bool)) := do
  let n := p.data.length / 8
  depositWords t p.addr (wordsOf p.data p.full n)
  depositBytes t (p.addr + offset (8 * n)) (p.data.drop (8 * n))
  return (0, [])

/-- An atomic at its word's home, which leaves the word's bit (R195, R222). -/
def atomicPacket (t : Slot) (p : Packet) : M (Word × List (Word × Bool)) := do
  let l ← reachFor t p.addr 8 .rmw
  checkGood l p.addr 8
  let old ← wordValue l
  modify fun s =>
    let s := s.recall l
    match amoValue p.op old p.operand p.expected with
    | some v => s.writeLoc l.place 8 v.toNat
    | none => s
  return (old, [])

def execOneSidedRead (s : State) : Host.Outcome State Fault Refusal := s.servePacket .read readPacket
def execOneSidedWrite (s : State) : Host.Outcome State Fault Refusal := s.servePacket .write writePacket
def execRemoteAtomic (s : State) : Host.Outcome State Fault Refusal := s.servePacket .atomic atomicPacket

/-! Walks and holds of a packet's accesses (R66, R67, R313). -/

/-- An access of the packet at hand misses the core's TLB, or needs A or D set: its address and kind (R66, R67). -/
def State.packetWalks (s : State) (cls : PacketClass) (body : Slot → Packet → M (Word × List (Word × Bool))) : Option (Packet × Word × Access) :=
  match s.args.pkt with
  | none => none
  | some p =>
    if s.repeated p.source cls p.seq || s.overGap p.source cls then none
    else
      match s.servant p with
      | none => none
      | some t =>
        match (body t p).run { s with cur := { core := s.args.core, slot := s.args.slot } } with
        | .error (.park .memwait (.walk va acc)) _ => some (p, va, acc)
        | _ => none

/-- A packet whose access has to be walked for waits until the walk is done, first in its channel, which `args.flag` marks; whether it does
(R66, R67; DEDUCED, log 96). -/
def State.receivePacket (s : State) (cls : PacketClass) (body : Slot → Packet → M (Word × List (Word × Bool))) : State × Bool :=
  let a := s.args
  match s.packetWalks cls body with
  | some (p, va, acc) =>
    ((s.packetWaits cls 0 { a with flag := true, word := 0 }).post .pageWalk
      { core := a.core, slot := a.slot, reg := .x 2, word := va, acc := acc, pkt := some p, code := BitVec.ofNat 16 cls.code }, false)
  | none => (s, true)

/-- A management request comes in a packet of class 4, `args.pkt`: a repeated one is acknowledged again, one over a gap is not taken, and any
other is acknowledged and served; one that the board gives no packet is the board's own (R275, R284, R348; DEDUCED, log 96). -/
def State.receiveRequest (s : State) : State × Bool :=
  let a := s.args
  match a.pkt with
  | none => (s, true)
  | some p =>
    if a.num = 1 then (s, true)
    else if s.repeated a.endpoint .management p.seq then (s.sendAck a.endpoint .management p.seq true, false)
    else if s.overGap a.endpoint .management then (s, false)
    else ((s.noteReceived a.endpoint .management p.seq true).sendAck a.endpoint .management p.seq true, true)

/-- What its unit makes of an event before the event has its own effect, and whether it then has that. -/
def State.receive (s : State) : Instr → State × Bool
  | .oneSidedRead => s.receivePacket .read readPacket
  | .oneSidedWrite => s.receivePacket .write writePacket
  | .remoteAtomic => s.receivePacket .atomic atomicPacket
  | .attestation | .sensorRead | .logRead | .timeExchange | .commitUpdate => s.receiveRequest
  | _ => (s, true)

/-- The walk for an access of the packet `args.pkt`, of the class with code `args.code`, is done: the packet goes on, or what the walk met
refuses it (R66, R67, R276, R349). -/
def State.walkPacket (s : State) : Host.Outcome State Fault Refusal :=
  let a := s.args
  match a.pkt with
  | none => .next s
  | some p =>
    let cls := PacketClass.ofCode a.code.toNat
    match s.servant p with
    | none => .next (s.refusePacket p cls)
    | some t =>
      let found := s.walk t a.word a.acc
      let s := s.readTables a.core t.tenant (s.walkReads t a.word (field t.xlroot 39 14 * 2 ^ 14) 0 4)
      match found with
      | .leaf pte level at_ gpa =>
        let goOn (d : Due) : Due := if d.isPacket p cls then { d with event := { d.event with args := { d.event.args with flag := false } } } else d
        .next (({ s with agenda := s.agenda.map goOn } : State).fillFrom a.core t a.word a.acc pte level at_ gpa)
      | .wait _ => .next (s.refusePacket p cls)
      | .bad => .next ((s.logBadData a.core t a.word).refusePacket p cls)

/-- The walk for an access is done: a slot's, or that of channel `args.ch` or of packet `args.pkt` if `args.reg` is `x1` or `x2` (R66). -/
def execPageWalk (s : State) : Host.Outcome State Fault Refusal :=
  if s.args.reg = .x 2 then s.walkPacket else if s.args.reg ≠ .x 0 then s.walkTransfer else s.walkSlot

/-- The packet `args.pkt` has been held since cycle `args.num` for too long: it is refused (R313, R349). -/
def State.packetHoldEnds (s : State) : State :=
  let a := s.args
  match a.pkt with
  | none => s
  | some p =>
    let cls := PacketClass.ofCode a.code.toNat
    let held (d : Due) : Bool := d.isPacket p cls && d.event.args.word = BitVec.ofNat 64 (a.num + 1)
    if someOf held s.agenda then s.refusePacket p cls else s

/-- A hold of 2^22 cycles ends as a missing right, with the cause `args.code` and the xval `args.word` that the access then takes: the hold
of a slot's access, of its repetition buffer's if `args.flag`; of channel `args.ch`, of a reduction, of job `args.after` or of packet
`args.pkt` if `args.reg` is `x1`, `x2`, `x3` or `x4` (R313, R329). -/
def execSecondStageHoldTimeout (s : State) : Host.Outcome State Fault Refusal :=
  let a := s.args
  let t := s.slot a.core a.slot
  if a.reg = .x 4 then .next s.packetHoldEnds
  else if a.reg = .x 3 then .next s.jobHoldEnds
  else if a.reg = .x 2 then s.kredHoldEnds
  else if a.reg ≠ .x 0 then
    .next (s.modChannel a.core a.ch fun h => h.modHead fun t => if t.heldSince = some a.num then { t with bad := some a.code.toNat } else t)
  else if a.flag then
    if (s.core a.core).rep.heldBy a.slot .running && (s.core a.core).rep.heldSince = some a.num then
      .next (s.suspendWith a.core a.slot (a.code.setWidth 8) a.word)
    else .next s
  else
    match t.wait with
    | .secondStage _ since =>
      if t.state = .memwait && since = a.num then .next (s.modSlot a.core a.slot fun t => { t.unpark with cause := some (a.code.setWidth 8, a.word) }) else .next s
    | _ => .next s

/-! Back at the source. -/

/-- The channel whose head transfer awaits the answer to a packet. -/
def State.awaiting (s : State) (seq : Nat) : Option (CoreId × BitVec 2) :=
  firstOf (fun p => match (s.channel p.1 p.2).queue with | t :: _ => someOf (fun n => n = seq) t.owed | [] => false)
    (s.coreIds.flatMap fun c => ([0, 1, 2, 3] : List (BitVec 2)).map fun ch => (c, ch))

def State.dropKept (s : State) (seq : Nat) : State := { s with kept := removeFirst (fun p : KeptPacket => p.seq = seq) s.kept }

/-- The transfer that awaits an answer ends with code 3 (R349, R350). -/
def State.failPacket (s : State) (seq : Nat) : State :=
  match s.awaiting seq with
  | some (c, ch) => s.modChannel c ch fun h => h.modHead fun t => { t with owed := [], bad := some 3 }
  | none => s

/-- A transfer has its answer. -/
def Transfer.answered (t : Transfer) (w : Word) (l : List (Word × Bool)) : Transfer :=
  match t.op with
  | .remoteGet => { t with owed := [], got := l }
  | .remotePut => { t with owed := [], done := t.done + t.got.length, got := [] }
  | _ => { t with owed := [], got := [(w, true)] }

/-- The answer to packet `args.num` has its effect. -/
def State.takeAnswer (s : State) : State :=
  let a := s.args
  let s := s.dropKept a.num
  if !a.flag then s.failPacket a.num
  else
    match s.awaiting a.num with
    | none => s
    | some (c, ch) => s.modChannel c ch fun h => h.modHead fun t => t.answered a.word (wordsOf a.data a.full t.chunk)

/-- A reply, or the acknowledgement of a write, to packet `args.num`, in packet `args.pkt` of a peer, of the class with code `args.code`,
which is received and acknowledged as any packet is (R275, R348). -/
def execFabricReply (s : State) : Host.Outcome State Fault Refusal :=
  match s.args.pkt with
  | none => .next s.takeAnswer
  | some p =>
    let cls := PacketClass.ofCode s.args.code.toNat
    if s.repeated p.source cls p.seq then .next (s.sendAck p.source cls p.seq true)
    else if s.overGap p.source cls then .next s
    else .next ((s.noteReceived p.source cls p.seq true).sendAck p.source cls p.seq true).takeAnswer

/-- A packet that its destination did not take, or that never arrived: each message of it bounces, or its transfer ends (R349). -/
def State.returned (s : State) (p : KeptPacket) : State :=
  if p.transfer.isSome then s.failPacket p.seq else p.msgs.foldl (fun s m => s.bounce (destCore m.sender) m 7) s

/-- The destination has packet `args.num`; it refuses it if `args.flag` (R348, R349). -/
def execPacketAcknowledgement (s : State) : Host.Outcome State Fault Refusal :=
  let a := s.args
  match firstOf (fun p : KeptPacket => p.seq = a.num) s.kept with
  | none => .next s
  | some p =>
    let s := s.dropKept a.num
    .next (if a.flag then s.returned p else s)

/-- Packet `args.num` has gone 10 ms without acknowledgement: it is resent with every later one of its destination and class (R348). -/
def execFabricResendTimeout (s : State) : Host.Outcome State Fault Refusal :=
  match firstOf (fun p : KeptPacket => p.seq = s.args.num) s.kept with
  | none => .next s
  | some p =>
    if p.resent then .next s
    else
      let again (q : KeptPacket) : Bool := q.follows p && p.seq ≤ q.seq
      let kept := s.kept.map fun (q : KeptPacket) => if again q then { q with resent := true, sent := s.now, after := s.keptBefore q q.seq } else q
      let l := keepIf again kept
      let s : State := { s with kept := kept, outbox := s.outbox ++ l.map .packet }
      .next (l.foldl (fun s q => s.post .packetUndeliverable { num := q.seq, word := BitVec.ofNat 64 s.now } (cyclesOfUs 10000)) s)

/-- Packet `args.num` has gone 10 ms more without acknowledgement (R348, R349, R354). -/
def execPacketUndeliverable (s : State) : Host.Outcome State Fault Refusal :=
  match firstOf (fun p : KeptPacket => p.seq = s.args.num) s.kept with
  | none => .next s
  | some p =>
    if !p.resent || s.now < p.sent + cyclesOfUs 10000 then .next s
    else
      let s := (s.dropKept p.seq).logEvent 0x0013 0 (logData [(12, 2, p.dest.toNat), (14, 1, p.cls.code)])
      .next (s.returned p)

end Sys2Proof.Machine
end

