-- ==== Sys2Proof/Machine/Area.lean ====
section
/-!
DEFINITION. Saving and loading a core's context area: per-core state, slot contexts, and what a slot's wait becomes (R269 to R271, R305).
Where R271 names a part of the area without the place of its fields, log 12 gives them (DESIGN CHOICE).
-/
namespace Sys2Proof.Machine

/-! Slots. -/

/-- What a switched-out slot keeps of its wait: one whose end is a condition or an event of the core issues its instruction again
(R270; DESIGN CHOICE, log 12). -/
def Slot.settled (t : Slot) : Slot :=
  let again : Slot := { t with state := .run, wait := .none }
  match t.wait with
  | .register _ | .outstanding _ | .earlier | .accesses | .interface | .walk _ _ | .secondStage _ _ | .region _ => again
  | .engine e =>
    match e with
    | .accumulator _ | .buffer | .release _ | .join | .matrixQueue _ | .image | .handover => again
    | _ => t
  | _ => t

/-- A slot as a tenant's context has it: its work, or none where the slot has last worked for another (R88, R269). -/
def Slot.viewFor (t : Slot) (tenant : BitVec 16) : Slot := if t.tenant = tenant then t else t.standing tenant

/-- The address of a slot's context in a core area (R271). -/
def contextAddr (area : Nat) (k : SlotId) : Nat := area + 4096 + 2048 * k.toNat

/-- The context that a tenant has in the slot at (c, k) is written to its area (R269). -/
def State.saveSlot (s : State) (area : Nat) (tenant : BitVec 16) (c : CoreId) (k : SlotId) : State :=
  let t := (s.slot c k).viewFor tenant
  let kept := { t.settled with stoppedAt := if t.stopped then t.stoppedAt else s.now }
  let s := s.writeContext (contextAddr area k) kept
  let other (p : Parked) : Bool := !(p.tenant = tenant && p.core = c && p.slot = k)
  { s with parked := keepIf other s.parked ++ [{ tenant := tenant, core := c, slot := k, kept := kept }] }

/-- A slot that runs a recorded sequence waits for its end (R176). -/
def State.inSequence (s : State) (c : CoreId) (k : SlotId) (t : Slot) : Slot :=
  if (s.core c).rep.heldBy k .running && t.state = .run then t.park .engwait (.engine .sequence) else t

/-- The slot at (c, k), which nobody's work holds, takes a tenant's context from its area, in the state it would now hold; what the area has
no place for is as the slot was switched out, unless H has put another context there since (R270, R271; DESIGN CHOICE, log 12). -/
def State.loadSlot (s : State) (area : Nat) (tenant : BitVec 16) (c : CoreId) (k : SlotId) : State :=
  let here := s.slot c k
  let own (t : Slot) : Slot :=
    { t with
      tenant := tenant, bankH := here.bankH, others := here.othersFor tenant, flights := [], flightNo := here.flightNo, issueAt := here.issueAt,
      pendNotice := here.pendNotice }
  let mine (p : Parked) : Bool := p.tenant = tenant && p.core = c && p.slot = k
  match firstOf mine s.parked with
  | some p =>
    let st := s.readWord (contextAddr area k + 1480)
    let same := field st 3 0 = (if p.kept.stopped then 9 else p.kept.state.code) && st.extractLsb' 16 16 = p.kept.inc
    let t := own (s.readContext (contextAddr area k) p.kept same)
    let s := { s.setSlot c k t with parked := removeFirst mine s.parked }
    let s := if t.stopped then s else s.shiftLimits c k tenant t.fewlim p.kept.stoppedAt
    match t.chain with
    | some ref => match s.findChain ref with | some h => if h.form = .folded then s.rewakeFolder h else s | none => s
    | none => s
  | none =>
    let t := own (s.readContext (contextAddr area k) Slot.powerOn false)
    let w := s.readWord (area + 3400)
    let ref : ChainRef := { tenant := tenant, index := w.extractLsb' 0 16, first := w.extractLsb' 16 11 }
    s.setSlot c k (s.inSequence c k (if t.form.isSome then { t with chain := some ref } else t))

/-! Per-core state. -/

/-- The two words of a ring register: as `rgrd` reads it, then base, slots and size; 0 for one that is unset. -/
def ringImage : Option Ring → List Word
  | none => [0, 0]
  | some r => [r.word, BitVec.ofNat 64 (r.base + r.n * 2 ^ 20 + r.size * 2 ^ 32)]

def ringFrom (w b : Word) : Option Ring :=
  if field b 31 20 = 0 then none
  else some { base := field b 19 0, n := field b 31 20, size := field b 63 32, head := field w 7 0, tail := field w 15 8, filled := field w 23 16, held := [] }

def RepPhase.code : RepPhase → Nat
  | .recording => 0 | .ended => 1 | .running => 2 | .suspended => 3 | .finished => 4

def RepPhase.ofCode : Nat → RepPhase
  | 0 => .recording | 2 => .running | 3 => .suspended | 4 => .finished | _ => .ended

/-- The repetition buffer: 32 instruction words, holder with phase, count, iteration with place, stride, start. -/
def repImage (b : RepBuffer) : List Word :=
  let w (i : Nat) : BitVec 32 := match b.words[i]? with | some x => wordOf x | none => 0
  ((List.range 16).map fun i => w (2 * i + 1) ++ w (2 * i)) ++
  [BitVec.ofNat 64 ((match b.holder with | some k => 16 + k.toNat | none => 0) + b.phase.code * 2 ^ 8 + b.words.length * 2 ^ 16), zext b.count,
   BitVec.ofNat 64 (b.iter + b.pos * 2 ^ 32), zext b.stride, b.start]

def State.repFrom (s : State) (a : Nat) : RepBuffer :=
  let h := s.readWord (a + 128)
  let it := s.readWord (a + 144)
  let n := Nat.min (field h 31 16) 32
  { holder := if h.getLsbD 4 then some (h.extractLsb' 0 4) else none, waiters := [],
    words := (List.range n).filterMap fun i => (decode ((s.readWord (a + i / 2 * 8)).extractLsb' (32 * (i % 2)) 32)).toOption,
    phase := RepPhase.ofCode (field h 15 8), count := (s.readWord (a + 136)).extractLsb' 0 32, stride := (s.readWord (a + 152)).extractLsb' 0 4,
    iter := field it 31 0, pos := field it 63 32, issueAt := 0, start := s.readWord (a + 160), heldSince := none, heldAt := 0 }

/-- The chain of a tenant that has a stage at a core. -/
def State.chainAt (s : State) (c : CoreId) (tenant : BitVec 16) : Option Chain :=
  firstOf (fun h : Chain => h.ref.tenant = tenant &&
    ((s.core c).foldBank = some h.ref || someOf (fun g : Stage => match g.place with | some p => p.1 = c | none => false) h.stages.toList)) s.chains

/-- A number with a bit for each element of a list, the first lowest. -/
def bitsNat : List Bool → Nat
  | [] => 0
  | b :: r => b.toNat + 2 * bitsNat r

/-- The full/empty bits of the mailbox words and of the declared scratchpad, in the maps of the sixteen slot contexts, 3,008 bits each. -/
def State.writeMaps (s : State) (area : Nat) (full : List Bool) : State :=
  let n := bitsNat full
  allSlots.foldl (fun s k => s.writeWords (contextAddr area k + 1672)
    ((List.range 47).map fun i => BitVec.ofNat 64 (n / 2 ^ (3008 * k.toNat + 64 * i)))) s

/-- Bit `i` of the maps. -/
def State.mapBit (s : State) (area i : Nat) : Bool :=
  (s.readWord (contextAddr area (BitVec.ofNat 4 (i / 3008)) + 1672 + i % 3008 / 64 * 8)).getLsbD (i % 64)

/-- Declared scratchpad words copied to the area; an uncorrectable word stays one (R317). -/
def State.spadOut (s : State) (c : CoreId) (a : Nat) : Nat → State
  | 0 => s
  | n + 1 =>
    let s := s.memWrite (a + 8 * n) 8 ((s.core c).spadRead (8 * n) 8)
    ({ s with memBad := NatSet.set (a + 8 * n) (NatSet.has (8 * n) (s.core c).spadBad) s.memBad } : State).spadOut c a n

def State.spadIn (s : State) (c : CoreId) (a area : Nat) : Nat → State
  | 0 => s
  | n + 1 =>
    let v := s.memRead (a + 8 * n) 8
    let full := s.mapBit area (32 + n)
    let bad := s.memIsBad (a + 8 * n)
    (s.modCore c fun q => { q.spadWrite (8 * n) 8 v with
      spadEmpty := NatSet.set (8 * n) (!full) q.spadEmpty, spadBad := NatSet.set (8 * n) bad q.spadBad }).spadIn c a area n

/-- What each slot context says of the core's accumulators, buffer and classes; the state and incarnation there stay, for a slot whose
context had not come into the core (R269, R271). -/
def State.writeHoldings (s : State) (area : Nat) (c : CoreId) : State :=
  let q := s.core c
  allSlots.foldl (fun s k =>
    let a := contextAddr area k
    let st := (s.readWord (a + 1480)).toNat
    (s.writeWords (a + 1480) [BitVec.ofNat 64 (st / 2 ^ 16 % 2 ^ 16 * 2 ^ 16 + st % 16 + q.holdings k)]).writeWords (a + 1600) (q.handlerPcs k)) s

/-- The uncorrectable words among `n` bytes that hardware reads for itself are logged for core `c` (R354). -/
def State.logUnreadable (s : State) (c : CoreId) (a n : Nat) : State :=
  (keepIf (fun w => a ≤ w && w < a + n) s.memBad).foldl (fun s w => s.logBadAt c w) s

/-- Accumulators whose contents another tenant left count as zero (R165). -/
def Core.accFor (q : Core) (tenant : BitVec 16) (z : Fin 4) : Nat := if q.zaTenant[z] = some tenant then q.za[z].toNat else 0

/-- A copy transfer that reaches a peer (R222). -/
def Transfer.remote (t : Transfer) : Bool := match t.op with | .remoteGet | .remotePut | .remoteAmo => true | _ => false

/-- The features that a tenant's context on a core uses, as the context shows them: labels held, accumulators or rings in use, a folded
chain, a scale format, transfers to a peer (R271; DESIGN CHOICE, log 12). -/
def State.usedFeatures (s : State) (c : CoreId) (tenant : BitVec 16) : Nat :=
  let q := s.core c
  let slots := q.slots.toList.map fun t => t.viewFor tenant
  let keyed := someOf (fun t : Slot => someOf (fun l => l ≠ 0) t.lb.toList) slots
  let matrix := someOf (fun r : Option Ring => r.isSome) q.rings.toList || someOf (fun z => q.accFor tenant z ≠ 0) [0, 1, 2, 3]
  let folded := match s.chainAt c tenant with | some h => h.form = .folded | none => false
  let scaled := someOf (fun t : Slot => t.mfmt.getLsbD 3) slots
  let remote := someOf (fun h : Channel => someOf (fun t : Transfer => t.agent.tenant = tenant && t.remote) h.queue) q.channels.toList
  bitsNat [keyed, matrix, folded, scaled, remote]

/-- The per-core state of a tenant is written to its area (R269, R271). -/
def State.saveCoreState (s : State) (area spad : Nat) (tenant : BitVec 16) (c : CoreId) : State :=
  let q := s.core c
  let s := s.writeWords area
    ([BitVec.ofNat 64 (s.usedFeatures c tenant), BitVec.ofNat 64 (c.toNat + tenant.toNat * 2 ^ 16), Table.find 0 tenant.toNat q.lastTnow, q.slstk] ++
     q.rings.toList.flatMap ringImage)
  let s := s.writeWords (area + 160) (repImage q.rep)
  let s := s.writeWords (area + 416) (q.mail.toList.map (·.word))
  let s := s.writeWords (area + 672) (chainImage c (s.chainAt c tenant) ++ List.replicate 86 0)
  let s := ([0, 1, 2, 3] : List (Fin 4)).foldl (fun s z => s.putImage (area + 36864 + 4096 * z.val) 4096 (q.accFor tenant z)) s
  let s := s.writeHoldings area c
  let s := s.writeMaps area (q.mail.toList.map (·.full) ++ (List.range (spad / 8)).map fun i => !NatSet.has (8 * i) q.spadEmpty)
  s.spadOut c (area + 53248) (spad / 8)

/-- The core holds no tenant's state; messages of the tenant it served wait in the pool ahead of what came later (R270). Gangs give up
the slots they had reserved here. -/
def State.clearCoreState (s : State) (tenant : Option (BitVec 16)) (c : CoreId) : State :=
  let q := s.core c
  let leaving (m : Message) : Bool := match tenant with | some t => m.tenant = t | none => false
  let pool := s.pool (combOf c)
  let s := s.setPool (combOf c) ((keepIf leaving q.inbox).map (fun m => (c, m)) ++ pool)
  let s := { s with gangs := s.gangs.map fun (g : Gang) => if g.running then g else { g with reserved := keepIf (fun r => r.1 ≠ c) g.reserved } }
  s.modCore c fun q => { q with
    rings := Vector.replicate 8 none, rep := RepBuffer.free, mail := Core.powerOn.mail, zaOwner := Vector.replicate 4 none,
    zaWaiters := Vector.replicate 4 [], bindings := Vector.replicate 8 none, foldBank := none, slstk := 0,
    inbox := keepIf (fun m => !leaving m) q.inbox }

/-- The owner of accumulator `z`, or the holder of class `n`, by a bit of the status words of an area. -/
def State.holderIn (s : State) (area bit : Nat) : Option SlotId :=
  firstOf (fun k => (s.readWord (contextAddr area k + 1480)).getLsbD bit) allSlots

/-- A folded chain that only the area knows, as of a context that comes from another package (R271, R292, R305). -/
def State.chainFrom (s : State) (area : Nat) (tenant : BitVec 16) (c : CoreId) : State :=
  let w := s.readWord (area + 3400)
  let ref : ChainRef := { tenant := tenant, index := w.extractLsb' 0 16, first := w.extractLsb' 16 11 }
  if ref.index = 0 || !w.getLsbD 27 then s
  else if (s.findChain ref).isSome then s.modCore c fun q => { q with foldBank := some ref }
  else
    match firstOf (fun k => field (s.readWord (contextAddr area k + 1512)) 15 14 = 2) allSlots with
    | none => s
    | some k =>
      let t := { s.readContext (contextAddr area k) Slot.powerOn false with tenant := tenant }
      match s.object t ref.index.toNat with
      | .error _ | .ok none => s
      | .ok (some e) =>
        let stage (i : Fin 4) (g : Stage) : Stage :=
          let a := area + 672 + 512 * i.val
          let code := field (s.readWord (a + 144)) 1 0
          { g with
            x := Vector.ofFn fun n => if n.val = 0 then 0 else s.readWord (a + 8 * (n.val - 1))
            pc := s.readWord (a + 120), fflags := (s.readWord (a + 128)).setWidth 5, fewlim := s.readWord (a + 136)
            v := Vector.ofFn fun n => BitVec.ofNat 512 (s.readImage (a + 256 + 64 * n.val) 8)
            status := if code = 3 then .ended else .live }
        let link (l : Fin 3) : Link :=
          let a := area + 2720 + 136 * l.val
          { words := (List.range (Nat.min (field (s.readWord a) 63 0) 16)).map fun i => s.readWord (a + 8 + 8 * i), transit := [], closing := false,
            closed := field (s.readWord (area + 672 + 512 * l.val + 144)) 1 0 = 3 }
        let h := chainOf e ref .folded t.priv
        let h := { h with
          stages := Vector.ofFn fun i => stage i h.stages[i], links := Vector.ofFn link, folder := some (c, k),
          running := (s.readWord (contextAddr area k + 1512)).extractLsb' 12 2 }
        ({ s with chains := s.chains ++ [h] } : State).modCore c fun q => { q with foldBank := some ref }

/-- The per-core state of a tenant is loaded from its area; `tnow` does not fall below what the area says (R271, R273). -/
def State.loadCoreState (s : State) (area spad : Nat) (tenant : BitVec 16) (c : CoreId) : State :=
  let last := s.readWord (area + 16)
  let had := Table.find 0 tenant.toNat (s.core c).lastTnow
  let acc (z : Fin 4) : BitVec 32768 := BitVec.ofNat 32768 (s.readImage (area + 36864 + 4096 * z.val) 512)
  let owner (z : Fin 4) : Option (SlotId × BitVec 16) :=
    (s.holderIn area (4 + z.val)).map fun k => (k, (s.readWord (contextAddr area k + 1480)).extractLsb' 16 16)
  let binding (n : Fin 8) : Option (SlotId × Word) :=
    if n.val = 0 then none
    else (s.holderIn area (32 + n.val)).map fun k => (k, s.readWord (contextAddr area k + 1600 + 8 * (n.val - 1)))
  let s' := s.modCore c fun q => { q with
    lastTnow := if last.toNat ≤ had.toNat then q.lastTnow else Table.put tenant.toNat last q.lastTnow
    slstk := s.readWord (area + 24)
    rings := Vector.ofFn fun g => ringFrom (s.readWord (area + 32 + 16 * g.val)) (s.readWord (area + 40 + 16 * g.val))
    rep := s.repFrom (area + 160)
    mail := Vector.ofFn fun i => { word := s.readWord (area + 416 + 8 * i.val), full := s.mapBit area i.val }
    za := Vector.ofFn acc, zaOwner := Vector.ofFn owner, zaTenant := Vector.replicate 4 (some tenant), bindings := Vector.ofFn binding }
  (s'.spadIn c (area + 53248) area (spad / 8)).chainFrom area tenant c

/-! Moving a context to another core (R273, R305). -/

/-- The transfers of a tenant go from the channels of one core to those of another, behind what is there; a channel that has had none keeps
their numbers (R305; DESIGN CHOICE, log 12). -/
def State.moveTransfers (s : State) (tenant : BitVec 16) (a b : CoreId) : State :=
  let mine (t : Transfer) : Bool := t.agent.tenant = tenant
  let anew (t : Transfer) : Transfer := { t with walking := none }
  let from_ := (s.core a).channels
  let join (h g : Channel) : Channel :=
    let l := (keepIf mine g.queue).map anew
    if l.isEmpty then h
    else if h.queue.isEmpty && h.next = 0 then { h with next := g.next, queue := l, latch := g.latch }
    else { h with queue := h.queue ++ l }
  let s := s.modCore b fun q => { q with channels := Vector.ofFn fun i => join q.channels[i] from_[i] }
  s.modCore a fun q => { q with channels := q.channels.map fun (h : Channel) => { h with queue := keepIf (fun t => !mine t) h.queue } }

/-- The word that an agent at core `a` waits for, once it stands at core `b`: its scratchpad and mailboxes go with it. -/
def WaitPoint.moved (a b : CoreId) : WaitPoint → WaitPoint
  | .spad c o => .spad (if c = a then b else c) o
  | .mail c m w => .mail (if c = a then b else c) m w
  | p => p

/-- A wait that goes with its slot to another core. -/
def Wait.moved (a b : CoreId) : Wait → Wait
  | .word p => .word (p.moved a b)
  | w => w

/-- A folded chain of a tenant has its slot at a core. -/
def Chain.foldedAt (h : Chain) (tenant : BitVec 16) (c : CoreId) : Bool :=
  h.ref.tenant = tenant && h.form = .folded && (match h.folder with | some p => p.1 = c | none => false)

/-- A tenant's context has left a core for another package: the area alone has its folded chain, and what its slots and stages wait for here no
longer concerns them, since they issue those forms again there (R292, R305; DESIGN CHOICE, log 12). -/
def State.leftPackage (s : State) (tenant : BitVec 16) (c : CoreId) : State :=
  let gone (w : Waiter) : Bool := w.tenant = tenant && w.agent.place.1 = c && (match w.agent with | .channel _ _ => false | _ => true)
  { s with chains := keepIf (fun h : Chain => !h.foldedAt tenant c) s.chains, waiters := keepIf (fun w : Waiter => !gone w) s.waiters }

/-- What the tenant had at a core, but for its deque, is gone. -/
def State.forget (s : State) (tenant : BitVec 16) (c : CoreId) : State :=
  { s with
    chains := keepIf (fun h : Chain => !h.foldedAt tenant c) s.chains
    parked := keepIf (fun p : Parked => !(p.tenant = tenant && p.core = c)) s.parked
    waiters := keepIf (fun w : Waiter => !(w.tenant = tenant && w.agent.place.1 = c)) s.waiters }

/-- What stands for the slots of a tenant at core `a` stands for those at core `b`, and what the tenant had at core `b` is gone. -/
def State.relocate (s : State) (tenant : BitVec 16) (a b : CoreId) : State :=
  let s := s.forget tenant b
  let at_ (c : CoreId) : CoreId := if c = a then b else c
  let place (p : CoreId × SlotId) : CoreId × SlotId := (at_ p.1, p.2)
  let agent : WaitAgent → WaitAgent
    | .slot c k => .slot (at_ c) k
    | .stage h i c k => .stage h i (at_ c) k
    | .channel c ch => .channel (at_ c) ch
  { s with
    parked := s.parked.map fun (p : Parked) =>
      if p.tenant = tenant && p.core = a then { p with core := b, kept := { p.kept with wait := p.kept.wait.moved a b } } else p
    waiters := s.waiters.map fun (w : Waiter) => if w.tenant = tenant then { w with agent := agent w.agent, loc := w.loc.moved a b } else w
    gangs := s.gangs.map fun (g : Gang) => if g.tenant = tenant && g.running then
      { g with active := g.active.map place, arrived := g.arrived.map fun l => l.map place } else g
    chains := s.chains.map fun (h : Chain) => if h.ref.tenant = tenant then
      { h with folder := h.folder.map place, stages := h.stages.map fun g => { g with place := g.place.map place } } else h }

/-- Slots in `xlwait` return to `run` (R305). -/
def State.reissueAll (s : State) (tenant : BitVec 16) (c : CoreId) : State :=
  { s with parked := s.parked.map fun (p : Parked) =>
      if p.tenant = tenant && p.core = c && p.kept.state = .xlwait then { p with kept := p.kept.unpark } else p }

/-- A stalled channel starts again at its access (R305). -/
def State.restartChannels (s : State) (tenant : BitVec 16) (c : CoreId) : State :=
  s.modCore c fun q => { q with channels := q.channels.map fun (h : Channel) => { h with
    queue := h.queue.map fun (t : Transfer) => if t.agent.tenant = tenant then { t with stalled := none } else t } }

end Sys2Proof.Machine
end

