-- ==== Sys2Proof/Machine/Scheduler.lean ====
section
/-!
DEFINITION. The scheduler of a partition: its requests, the tenant it serves, and the hand-over from one tenant to the next (R263 to R274,
R305, R346, R347).
-/
namespace Sys2Proof.Machine

/-! Tenant entries and schedulers. -/

def withState (e : BitVec 512) (v : Nat) : BitVec 512 := withField e 389 388 v
def withRemain (e : BitVec 512) (v : Nat) : BitVec 512 := withField e 255 224 v
def withDeadline (e : BitVec 512) (v : Nat) : BitVec 512 := withField e 223 160 v

def newScheduler (p : CoreId) : Scheduler :=
  { pbase := p, serving := none, since := 0, frozenAt := [], handover := [], outgoing := none, resets := [], late := [], admitted := [], request := none,
    status := none, engineOps := none }

def State.scheduler (s : State) (p : CoreId) : Scheduler := (s.schedulerOf p).getD (newScheduler p)

def State.putScheduler (s : State) (d : Scheduler) : State :=
  if (s.schedulerOf d.pbase).isSome then { s with schedulers := replaceFirst (fun q : Scheduler => q.pbase = d.pbase) d s.schedulers }
  else { s with schedulers := s.schedulers ++ [d] }

/-- Cores of a partition that are alive. -/
def State.livePartition (s : State) (p : CoreId) : List CoreId := keepIf (fun c => !(s.core c).dead) (s.partition p)

/-! Time (R268, R272). -/

def nsOfCycles (n : Nat) : Nat := n * 10 / 33
def cyclesOfNs (n : Nat) : Nat := (n * 33 + 9) / 10

/-- The time served since the last charge is taken from the tenant's budget; a switch in progress is charged to none (R268). -/
def State.charge (s : State) (p : CoreId) : State :=
  let d := s.scheduler p
  match d.serving with
  | none => s
  | some n =>
    if !d.handover.isEmpty || someOf (fun f => f.1 = n.toNat) d.frozenAt then s
    else
      let e := d.entry n.toNat
      let s := s.putEntry p n.toNat (withRemain e (entryRemain e - nsOfCycles (s.now - d.since)))
      s.putScheduler { s.scheduler p with since := s.now }

/-! Work (R268). -/

/-- A slot of a tenant has work, in its core or in its area. -/
def State.slotWorks (s : State) (p : CoreId) (n : Nat) (tenant : BitVec 16) (c : CoreId) (k : SlotId) : Bool :=
  let t := s.slot c k
  (t.tenant = tenant && t.state ≠ .idle) ||
  (match firstOf (fun q : Parked => q.tenant = tenant && q.core = c && q.slot = k) s.parked with
   | some q => q.kept.state ≠ .idle
   | none => (!((s.scheduler p).serving.map BitVec.toNat = some n) || s.isLate c k) && field (s.readWord (contextAddr (s.areaOf p n c) k + 1480)) 3 0 ≠ 0)

/-- The tenant of entry `n` has work: in slots, deques, queues or gangs, on cores not vacated for it (R268, R273). -/
def State.hasWork (s : State) (p : CoreId) (n : Nat) : Bool :=
  let tenant := entryTenant (s.committed p n)
  someOf (fun g : Gang => g.tenant = tenant) s.gangs ||
  someOf (fun c =>
    let q := s.core c
    someOf (fun r : Continuation => r.tenant = tenant) q.deque || someOf (fun m : Message => m.tenant = tenant) q.inbox ||
    someOf (fun m : CoreId × Message => m.1 = c && m.2.tenant = tenant) (s.pool (combOf c)) ||
    someOf (fun k => s.slotWorks p n tenant c k) allSlots)
    (keepIf (fun c => !(s.core c).vacatedFor tenant) (s.livePartition p))

/-! Choosing (R268). -/

/-- The entry is admitted and not being frozen. -/
def Scheduler.eligible (d : Scheduler) (n : Nat) : Bool :=
  let e := d.entry n
  entryValid e && entryState e = 1 && !someOf (fun f => f.1 = n) d.frozenAt

/-- The entry of a list with the earliest deadline; the first of equals. -/
def Scheduler.earliest (d : Scheduler) : List Nat → Option Nat
  | [] => none
  | n :: r =>
    match d.earliest r with
    | none => some n
    | some m => if entryDeadline (d.entry m) < entryDeadline (d.entry n) then some m else some n

/-- The entry to serve: with budget left and work, the earliest deadline; with no such, an admitted one with work. -/
def State.choice (s : State) (d : Scheduler) : Option (BitVec 4) :=
  let l := keepIf (fun n => d.eligible n && s.hasWork d.pbase n) (List.range 16)
  let funded := keepIf (fun n => entryRemain (d.entry n) > 0) l
  (match d.earliest funded with | some n => some n | none => d.earliest l).map (BitVec.ofNat 4)

/-- Tenants without work give up the rest of their budgets (R268). -/
def State.giveUp (s : State) (d : Scheduler) : State :=
  (List.range 16).foldl (fun s n =>
    let e := d.entry n
    if d.eligible n && entryRemain e ≠ 0 && !s.hasWork d.pbase n then s.putEntry d.pbase n (withRemain e 0) else s) s

/-- Every chain of a tenant has halted (R346, step 2). -/
def State.chainsHalted (s : State) (tenant : BitVec 16) : Bool :=
  allOf (fun h : Chain => h.ref.tenant ≠ tenant || s.chainOut h || (h.switching.isNone && h.nextHalt.isNone)) s.chains

/-- The tenant served is being frozen, and its chains have not halted: it stays until they have (R346). -/
def State.freezeHolds (s : State) (d : Scheduler) : Bool :=
  match d.serving with
  | some n => someOf (fun f => f.1 = n.toNat) d.frozenAt && !s.chainsHalted (entryTenant (d.entry n.toNat))
  | none => false

/-- The exhaustion of the served tenant's budget falls due (R268). -/
def State.armBudget (s : State) (p : CoreId) : State :=
  let d := s.scheduler p
  match d.serving with
  | none => s
  | some n =>
    let r := entryRemain (d.entry n.toNat)
    if r = 0 then s else s.post .budgetExhausted { core := p, num := s.now, flag := true } (cyclesOfNs r)

/-- A switch begins: every slot of every core hands over (R269). -/
def State.beginSwitch (s : State) (p : CoreId) (next : Option (BitVec 4)) : State :=
  let d := s.scheduler p
  s.putScheduler { d with
    serving := next, outgoing := d.serving, handover := (s.livePartition p).flatMap fun c => allSlots.map fun k => (c, k) }

/-- The scheduler looks again at what it serves. -/
def State.reschedule (s : State) (p : CoreId) : State :=
  let s := s.charge p
  let d := s.scheduler p
  if !d.handover.isEmpty || s.freezeHolds d then s
  else
    let s := s.giveUp d
    let next := s.choice d
    if next = d.serving then s.armBudget p
    else if (s.livePartition p).isEmpty then s.putScheduler { s.scheduler p with serving := next }
    else s.beginSwitch p next

/-- The scheduler would serve another tenant than it does. -/
def State.wantsSwitch (s : State) (d : Scheduler) : Bool :=
  d.handover.isEmpty && !s.freezeHolds d && !d.admitted.isEmpty && s.choice d ≠ d.serving

/-- The served tenant's budget is spent, at the charge of cycle `args.num` if `args.flag`; or another tenant is to be served (R268). -/
def execBudgetExhausted (s : State) : Host.Outcome State Fault Refusal :=
  let p := s.args.core
  .next (if s.args.flag && (s.scheduler p).since ≠ s.args.num then s else s.reschedule p)

/-- The deadline `args.word` of entry `args.entry` of partition `args.core`: its budget is whole again and its next period begins (R268). -/
def execTenantDeadline (s : State) : Host.Outcome State Fault Refusal :=
  let a := s.args
  let p := a.core
  let n := a.entry.toNat
  let e := s.committed p n
  if !entryValid e || entryState e = 0 || entryDeadline e ≠ a.word.toNat then .next s
  else
    let early := a.word.toNat - s.reference.toNat
    if early > 0 then .next (s.post .tenantDeadline a (cyclesOfNs early))
    else
      let s := s.charge p
      let due := entryDeadline e + entryPeriod e
      let s := s.putEntry p n (withDeadline (withRemain (s.committed p n) (entryBudget e)) due)
      .next ((s.post .tenantDeadline { a with word := BitVec.ofNat 64 due } (cyclesOfNs (due - s.reference.toNat))).reschedule p)

/-! Handing over (R269). -/

/-- The slot stands at an instruction boundary, nothing of it in progress (R269, R298). -/
def State.atBoundary (s : State) (c : CoreId) (k : SlotId) : Bool :=
  let t := s.slot c k
  t.flights.isEmpty && (s.aheadOf c k).isNone &&
  (match t.wait with | .acks _ | .engine .kred | .engine .image => false | _ => true)

/-- Work that is not the outgoing tenant's has a sequence in the buffer. -/
def State.otherSequence (s : State) (c : CoreId) : Bool :=
  match (s.core c).rep.holder with
  | some k => (s.core c).rep.heldBy k .running && !s.leaving c k
  | none => false

/-- The core's own state can pass on: its matrix queue has drained, a run-ahead already forked has issued its sequence and joined, a sequence
of H's has ended, and the outgoing tenant's transfers that move on and use that state have completed (R269; DESIGN CHOICE, log 12). -/
def State.coreDone (s : State) (d : Scheduler) (c : CoreId) : Bool :=
  let q := s.core c
  q.matrix.isEmpty && q.ahead.isNone && !s.otherSequence c &&
  (match d.outgoing with | some n => !s.moverBusy c (entryTenant (d.entry n.toNat)) | none => true)

/-- A slot's run-ahead ends in a cause that it is to take, and its sequence has ended (R300). -/
def State.failedAhead (s : State) (c : CoreId) (k : SlotId) : Bool :=
  (s.aheadOf c k).isSome && (s.slot c k).cause.isSome && !(s.core c).rep.heldBy k .running

/-- The slot does what its turn asks: it can hand over, or it has a run-ahead to join or to roll back first; one that has no work of the
outgoing tenant has nothing to stop. -/
def State.handoverReady (s : State) (d : Scheduler) (c : CoreId) (k : SlotId) : Bool :=
  (s.leaving c k && (s.failedAhead c k || ((s.aheadOf c k).isSome && (s.slot c k).wait ≠ .engine .join))) ||
  ((!s.leaving c k || s.atBoundary c k) && (!d.coreWaits c || s.coreDone d c))

/-- Tenant, area of core `c` and declared scratchpad of an entry, unless the core has been vacated for its tenant (R271, R273). -/
def State.areaFor (s : State) (d : Scheduler) (c : CoreId) (n : Option (BitVec 4)) : Option (BitVec 16 × Nat × Nat) :=
  match n with
  | none => none
  | some n =>
    let e := d.entry n.toNat
    if (s.core c).vacatedFor (entryTenant e) then none
    else some (entryTenant e, s.areaOf d.pbase n.toNat c, entrySpad e)

/-- The same for the entry whose contexts leave the core; a save takes them from a core that is already marked as vacated (R273). -/
def State.leavingArea (s : State) (d : Scheduler) (c : CoreId) : Option (BitVec 16 × Nat × Nat) :=
  match d.outgoing with
  | none => none
  | some n =>
    let e := d.entry n.toNat
    if s.saving c (entryTenant e) then some (entryTenant e, s.areaOf d.pbase n.toNat c, entrySpad e) else s.areaFor d c d.outgoing

/-- The core's own state passes from one tenant to the next, with the first slot; accumulators of slots whose work has ended are owned no
more (R165, R269). -/
def State.passCore (s : State) (d : Scheduler) (c : CoreId) : State :=
  let s := s.modCore c fun q => q.reap fun k => s.isLate c k
  let s := match s.leavingArea d c with
    | some (t, a, spad) => (s.saveCoreState a spad t c).clearCoreState (some t) c
    | none => s.clearCoreState none c
  match s.areaFor d c d.serving with
  | some (t, a, spad) => ((s.logUnreadable c a 4096).logUnreadable c (a + 36864) 16384).loadCoreState a spad t c
  | none => s

/-- A slot without work takes the context of the tenant served, if there is one for it. -/
def State.fillSlot (s : State) (d : Scheduler) (c : CoreId) (k : SlotId) : State :=
  let s := s.putScheduler { s.scheduler d.pbase with late := keepIf (fun r => r ≠ (c, k)) (s.scheduler d.pbase).late }
  let s := s.modSlot c k fun t => t.standing hvTenant
  match s.areaFor d c d.serving with
  | some (n, a, _) => (s.logUnreadable c (contextAddr a k) 2048).loadSlot a n c k
  | none => s

/-- One slot passes from one tenant to the next; where work of H has the slot it stays, and the incoming context waits for its end (R269). -/
def State.passSlot (s : State) (d : Scheduler) (c : CoreId) (k : SlotId) : State :=
  let t := s.slot c k
  let out := s.leavingArea d c
  let busy := t.state ≠ .idle && (match out with | some (o, _, _) => t.tenant ≠ o | none => true)
  let s := match out with
    | some (o, a, _) => if s.isLate c k then s else s.saveSlot a o c k
    | none => s
  if busy then
    let d' := s.scheduler d.pbase
    s.putScheduler { d' with late := keepIf (fun r => r ≠ (c, k)) d'.late ++ [(c, k)] }
  else s.fillSlot d c k

/-- A slot has handed over; with the last one the served tenant's time begins. -/
def State.handedOver (s : State) (p c : CoreId) (k : SlotId) : State :=
  let d := s.scheduler p
  let rest := keepIf (fun r => r ≠ (c, k)) d.handover
  let s := s.putScheduler { d with handover := rest, outgoing := if rest.isEmpty then none else d.outgoing, since := if rest.isEmpty then s.now else d.since }
  let s := if someOf (fun r => r.1 = c) rest then s else s.refillCore c
  if rest.isEmpty then s.reschedule p else s

/-- The slot is to take the context of the tenant served, and its work of H has ended (R269). -/
def State.lateReady (s : State) (c : CoreId) (k : SlotId) : Bool := s.isLate c k && !s.handingOver c k && (s.slot c k).state = .idle

/-- The issue turn of a slot of the outgoing tenant that cannot hand over yet: it stops there, out of the rotation, until it can (R87, R269;
DEDUCED, log 84). -/
def State.stopAtTurn (s : State) (c : CoreId) (k : SlotId) : State :=
  if s.leaving c k && s.eligibleSlot c k then s.modSlot c k fun t => t.park .engwait (.engine .handover) else s

/-- Slot `args.slot` of core `args.core` hands over at its turn, or takes a context that work of H kept from it (R269). -/
def execSlotHandover (s : State) : Host.Outcome State Fault Refusal :=
  let c := s.args.core
  let k := s.args.slot
  let p := (s.core c).pbase
  match s.schedulerOf p with
  | none => .next s
  | some d =>
    if s.lateReady c k then .next (s.fillSlot d c k)
    else if !s.handingOver c k then .next s
    else if !s.handoverReady d c k then .next (s.stopAtTurn c k)
    else if (s.core c).dead then .next (s.handedOver p c k)
    else if s.leaving c k && s.failedAhead c k then .next (s.rollBack c k)
    else if s.leaving c k && (s.aheadOf c k).isSome then .next (s.askJoin c k)
    else
      let s := if d.coreWaits c then s.passCore d c else s
      .next ((s.passSlot d c k).handedOver p c k)

/-! The budget of each period (R106, R268). -/

/-- The ns of service that an entry is owed up to a time: the rest of its budget, and the whole of it for each later period that ends by
then. -/
def owedBy (e : BitVec 512) (time : Nat) : Nat :=
  if entryDeadline e ≤ time then entryRemain e + entryBudget e * ((time - entryDeadline e) / Nat.max 1 (entryPeriod e)) else 0

/-- The least time, over the ends of the periods to come, that is left once all that is owed up to then has been served: a switch may take
that long, and every admitted tenant with work still has its budget in each period (R106, R268; DESIGN CHOICE, log 74). -/
def State.slack (s : State) (d : Scheduler) : Nat :=
  let l := (keepIf (fun n => d.eligible n && s.hasWork d.pbase n) (List.range 16)).map fun n => d.entry n
  let ends := l.flatMap fun e => (List.range 64).map fun k => entryDeadline e + k * entryPeriod e
  let left (time : Nat) : Nat := time - s.reference.toNat - l.foldl (fun n e => n + owedBy e time) 0
  (ends.map left).foldl Nat.min (2 ^ 64)

/-- A switch could go on now: a slot's turn to hand over has come, or another tenant is to be served. -/
def State.switchGoesOn (s : State) (d : Scheduler) : Bool :=
  someOf (fun r : CoreId × SlotId => s.handoverReady d r.1 r.2) d.handover || s.wantsSwitch d

/-- The latest cycle that time may reach for the switches of a scheduler. -/
def State.cappedSwitch (s : State) (t : Nat) (d : Scheduler) : Nat :=
  if s.switchGoesOn d then Nat.min t (s.now + s.slack d * 33 / 10) else t

/-- Some cycles pass, at most as many as go by before something that must come about at its cycle. -/
def State.pass (s : State) (cycles : Nat) : State :=
  let t := s.schedulers.foldl s.cappedSwitch (s.coreIds.foldl s.cappedIssue (cappedTime s.now (s.now + cycles) s.agenda))
  { s with now := t, arrivals := if t = s.now then s.arrivals else [] }

/-! Requests (R266). -/

/-- The machine-physical place of a word that H and hardware share. -/
def physWord (a : Nat) : Loc :=
  { place := .mem a, tag := { tenant := hvTenant, line := BitVec.ofNat 33 (a / 128) }, home := BitVec.ofNat 8 (a / 2 ^ 29) }

def requestOp (w : Word) : Nat := field w 3 0
def requestEntry (w : Word) : Nat := field w 7 4
def requestCore (w : Word) : CoreId := w.extractLsb' 32 11
/-- The bits that R266 has as zero are zero; a request with one that is set is answered as one that names no row (DEDUCED, log 36). -/
def requestZero (w : Word) : Bool := field w 31 8 = 0

/-- The share of an entry (R267). -/
def entryShare (e : BitVec 512) : Nat := if entryValid e then 2 ^ 20 * entryBudget e / entryPeriod e else 0

/-- The sum of shares (R267). -/
def State.utilisation (s : State) (p : CoreId) : Nat := (List.range 16).foldl (fun n i => n + entryShare (s.tenantEntry p i)) 0

/-- The greatest sum that is admitted: floor(0.95 · 2^20) (R267). -/
def utilLimit : Nat := 996147

/-- The status word is filled once it is empty, and the request is done with (R266). -/
def State.deliverStatus (s : State) (p : CoreId) : State :=
  let d := s.scheduler p
  let l := physWord (controlPage p + 8)
  match d.status with
  | none => s
  | some w => if s.isFull l.place then s else ((s.recall l).fillWord l w).putScheduler { d with request := none, status := none }

/-- The request is answered with a code. -/
def State.answerRequest (s : State) (p : CoreId) (code : Nat) : State :=
  (s.putScheduler { s.scheduler p with status := some (BitVec.ofNat 64 (s.utilisation p % 2 ^ 32 * 2 ^ 32 + code)) }).deliverStatus p

/-- The request word is full and the scheduler idle (R266). -/
def State.requestWaits (s : State) (p : CoreId) : Bool := (s.scheduler p).request.isNone && s.memFull (controlPage p)

/-- The request that the scheduler of a partition has before it: the one taken, else that in the request word. -/
def State.requestAt (s : State) (p : CoreId) : Option Word :=
  match (s.scheduler p).request with
  | some w => some w
  | none => if s.memFull (controlPage p) then some (s.readWord (controlPage p)) else none

/-- The scheduler of partition `args.core` takes a request, with the effect of `ldfe`, or goes on with the one it has taken: `f` performs
it for an operation that `mine` names. -/
def State.serveScheduler (s : State) (mine : Nat → Bool) (f : State → CoreId → Word → State) : Host.Outcome State Fault Refusal :=
  let p := s.args.core
  let d := s.scheduler p
  if d.status.isSome then .next (s.deliverStatus p)
  else
    match s.requestAt p with
    | none => .next s
    | some w =>
      if !mine (requestOp w) then .next s
      else if d.request.isSome then .next (f s p w)
      else
        let l := physWord (controlPage p)
        .next (f (((s.recall l).emptyWord l).putScheduler { d with request := some w }) p w)

/-! Commit (R267, R347). -/

/-- A valid entry breaks R265 or names a tenant that no entry may name. -/
def entryMalformed (e : BitVec 512) : Bool :=
  entryValid e && (entryPeriod e < 100000 || entryBudget e = 0 || entryBudget e > entryPeriod e || entryTenant e = hvTenant || entryCtx e % 4096 ≠ 0)

/-- Two valid entries name one tenant. -/
def State.sharedTenant (s : State) (p : CoreId) : Bool :=
  someOf (fun i => someOf (fun j =>
    i < j && entryValid (s.tenantEntry p i) && entryValid (s.tenantEntry p j) && entryTenant (s.tenantEntry p i) = entryTenant (s.tenantEntry p j))
    (List.range 16)) (List.range 16)

/-- The entry of the control page still names the tenant of a committed one. -/
def State.stillAdmits (s : State) (p : CoreId) (a : Nat × BitVec 512) : Bool :=
  entryValid (s.tenantEntry p a.1) && entryTenant (s.tenantEntry p a.1) = entryTenant a.2

/-- Committed entries that have lost their tenant. -/
def State.lostEntries (s : State) (p : CoreId) : List (Nat × BitVec 512) := keepIf (fun a => !s.stillAdmits p a) (s.scheduler p).admitted

/-- A retired context in an area: idle, its incarnation advanced, with no accumulator, buffer or class (R87, R165, R204, R347). -/
def State.retireContext (s : State) (a : Nat) : State :=
  s.writeWords (a + 1480) [BitVec.ofNat 64 (((s.readWord (a + 1480)).toNat / 2 ^ 16 + 1) % 2 ^ 16 * 2 ^ 16)]

/-- A tenant is reset: its deque records and forwarding entries go, its waiting messages bounce, its contexts are retired (R347). -/
def State.resetTenant (s : State) (p : CoreId) (n : Nat) (tenant : BitVec 16) : State :=
  let cores := s.partition p
  let clear (s : State) (c : CoreId) : State :=
    let pool := s.pool (combOf c)
    let mine (m : CoreId × Message) : Bool := m.1 = c && m.2.tenant = tenant
    let s := s.setPool (combOf c) (keepIf (fun m => !mine m) pool)
    let s := if someOf (fun r : Nat × Core => r.1 = c.toNat) s.cores then s.modCore c fun q => { q with
        deque := keepIf (fun r : Continuation => r.tenant ≠ tenant) q.deque, forwarding := keepIf (fun g : Forwarding => g.tenant ≠ tenant) q.forwarding,
        vacated := keepIf (fun v => v.1 ≠ tenant) q.vacated } else s
    let s := allSlots.foldl (fun s k => s.retireContext (contextAddr (s.areaOf p n c) k)) s
    (keepIf mine pool).foldl (fun s m => s.bounce c m.2 6) s
  let s := cores.foldl clear s
  let d := s.scheduler p
  { s.putScheduler { d with resets := keepIf (fun t => t ≠ tenant) d.resets ++ [tenant] } with
    parked := keepIf (fun q : Parked => q.tenant ≠ tenant) s.parked
    waiters := keepIf (fun w : Waiter => w.tenant ≠ tenant) s.waiters
    chains := keepIf (fun h : Chain => h.ref.tenant ≠ tenant) s.chains
    gangs := keepIf (fun g : Gang => g.tenant ≠ tenant) s.gangs
    admission := s.admission.map fun l => keepIf (fun i => !someOf (fun g : Gang => g.id = i && g.tenant = tenant) s.gangs) l }

/-- An entry of the control page as an accepted commit takes it over: a tenant that the last one had keeps the scheduler's fields, a new one
starts its first period (R265, R267). -/
def State.takeEntry (s : State) (old : List (Nat × BitVec 512)) (n : Nat) (e : BitVec 512) : BitVec 512 :=
  match firstOf (fun a : Nat × BitVec 512 => a.1 = n && entryTenant a.2 = entryTenant e) old with
  | some a => let m := BitVec.ofNat 512 ownBits; (e &&& ~~~m) ||| (a.2 &&& m)
  | none => withDeadline (withRemain (withState e 1) (entryBudget e)) (s.reference.toNat + entryPeriod e)

/-- A committed entry goes: a frozen tenant is reset, and the entry is absent (R267, R347). -/
def State.loseEntry (s : State) (p : CoreId) (a : Nat × BitVec 512) : State :=
  let s := if entryState a.2 = 2 then s.resetTenant p a.1 (entryTenant a.2) else s
  let s := s.memWrite (entryAddr p a.1) 64 (withState (s.tenantEntry p a.1) 0).toNat
  let d := s.scheduler p
  s.putScheduler { d with frozenAt := keepIf (fun f => f.1 ≠ a.1) d.frozenAt }

/-- The deadline of a newly admitted entry falls due (R267, R268). -/
def State.startPeriod (s : State) (p : CoreId) (a : Nat × BitVec 512) : State :=
  s.post .tenantDeadline { core := p, entry := BitVec.ofNat 4 a.1, word := BitVec.ofNat 64 (entryDeadline a.2) } (cyclesOfNs (entryPeriod a.2))

/-- An accepted commit (R267). -/
def State.accept (s : State) (p : CoreId) : State :=
  let s := s.charge p
  let s := (s.lostEntries p).foldl (fun s a => s.loseEntry p a) s
  let old := keepIf (fun a => s.stillAdmits p a) (s.scheduler p).admitted
  let valid := keepIf (fun n => entryValid (s.tenantEntry p n)) (List.range 16)
  let set_ := valid.map fun n => (n, s.takeEntry old n (s.tenantEntry p n))
  let isOld (a : Nat × BitVec 512) : Bool := someOf (fun b : Nat × BitVec 512 => b.1 = a.1) old
  let d := s.scheduler p
  let s := s.putScheduler { d with
    admitted := set_, resets := keepIf (fun t => !someOf (fun a : Nat × BitVec 512 => entryTenant a.2 = t) set_) d.resets }
  let s := set_.foldl (fun s a => s.memWrite (entryAddr p a.1) 64 a.2.toNat) s
  let s := (keepIf (fun a => !isOld a) set_).foldl (fun s a => s.startPeriod p a) s
  (s.reschedule p).answerRequest p 0

/-- Commit, and any request whose operation no other row performs (R266, R267). -/
def execCommit (s : State) : Host.Outcome State Fault Refusal :=
  s.serveScheduler (fun op => op < 2 || 6 < op) fun s p w =>
    if requestOp w ≠ 1 || !requestZero w then s.answerRequest p 4
    else
      let entries := (List.range 16).map fun n => s.tenantEntry p n
      if someOf entryMalformed entries || s.sharedTenant p || someOf (fun a : Nat × BitVec 512 => entryState a.2 ≠ 2) (s.lostEntries p) then s.answerRequest p 2
      else if s.utilisation p > utilLimit then s.answerRequest p 1
      else if !(s.scheduler p).handover.isEmpty then s
      else s.accept p

/-! Freeze and resume (R272, R346). -/

/-- Transfers of a tenant that its cores' channels have not completed. -/
def State.transfersOf (s : State) (p : CoreId) (tenant : BitVec 16) : Nat :=
  (s.partition p).foldl (fun n c => (s.core c).channels.toList.foldl (fun n h => n + (keepIf (fun t : Transfer => t.agent.tenant = tenant) h.queue).length) n) 0

/-- The fault dump header and the log entry (R346, R354). -/
def State.dump (s : State) (p : CoreId) (n : Nat) (began : Word) (ops : Nat) : State :=
  let e := s.committed p n
  let tenant := entryTenant e
  let plen := (s.core p).plen.toNat
  let chains := (keepIf (fun h : Chain => h.ref.tenant = tenant) s.chains).length
  let gangs := (keepIf (fun g : Gang => g.tenant = tenant && g.running) s.gangs).length
  let waiting := (s.partition p).foldl (fun k c => k + (keepIf (fun m : CoreId × Message => m.1 = c && m.2.tenant = tenant) (s.pool (combOf c))).length) 0
  let s := s.writeWords (entryCtx e + plen * contextStride (entrySpad e))
    ([BitVec.ofNat 64 (tenant.toNat + n * 2 ^ 16 + plen % 2 ^ 12 * 2 ^ 20), began, s.reference, BitVec.ofNat 64 (chains + gangs * 2 ^ 32),
      BitVec.ofNat 64 waiting, BitVec.ofNat 64 ops] ++ List.replicate 506 0)
  s.logEvent 0x0030 (unitOf p) (logData [(12, 2, tenant.toNat), (14, 2, p.toNat)])

/-- The steps of a freeze, as far as they can go (R346). -/
def State.goOnFreezing (s : State) (p : CoreId) (n : Nat) (began : Word) : State :=
  let d := s.scheduler p
  let tenant := entryTenant (d.entry n)
  if d.serving.map BitVec.toNat = some n then (if d.handover.isEmpty && s.chainsHalted tenant then s.reschedule p else s)
  else if !d.handover.isEmpty then s
  else
    let left := s.transfersOf p tenant
    match d.engineOps with
    | none => s.putScheduler { d with engineOps := some left }
    | some ops =>
      if left ≠ 0 then s
      else
        let s := s.dump p n began ops
        let s := s.putEntry p n (withState (s.committed p n) 2)
        (s.putScheduler { s.scheduler p with engineOps := none }).answerRequest p 0

/-- Freeze; another tenant that is served has its charge made and its budget's end set anew (R268, R346). -/
def execFreeze (s : State) : Host.Outcome State Fault Refusal :=
  s.serveScheduler (fun op => op = 5) fun s p w =>
    let n := requestEntry w
    let e := s.committed p n
    match firstOf (fun f => f.1 = n) (s.scheduler p).frozenAt with
    | some f => if entryState e = 1 then s.goOnFreezing p n f.2 else s.answerRequest p 4
    | none =>
      if !entryValid e || entryState e ≠ 1 || !requestZero w then s.answerRequest p 4
      else
        let s := s.charge p
        let d := s.scheduler p
        let s := s.putScheduler { d with frozenAt := d.frozenAt ++ [(n, s.reference)] }
        if d.serving.map BitVec.toNat = some n then s else s.armBudget p

/-- A chain goes on after a freeze: the slots of its halted stages are stopped no more. -/
def State.thaw (s : State) (h : Chain) : State :=
  let free (s : State) (g : Stage) : State :=
    match g.halted, h.form, g.place with
    | true, .spread, some (c, k) => s.modTenantSlot h.ref.tenant c k fun t => { t with stopped := false }
    | _, _, _ => s
  let s := h.stages.toList.foldl free s
  s.putChain { h with stages := h.stages.map fun g => if g.halted then { g with halted := false, need := if h.form = .spread then none else g.need } else g }

/-- Resume (R272, R346). -/
def execResume (s : State) : Host.Outcome State Fault Refusal :=
  s.serveScheduler (fun op => op = 6) fun s p w =>
    let n := requestEntry w
    let e := s.committed p n
    if !entryValid e || entryState e ≠ 2 || !requestZero w then s.answerRequest p 4
    else
      let d := s.scheduler p
      let began := match firstOf (fun f => f.1 = n) d.frozenAt with | some f => f.2 | none => s.reference
      let e := if entryHide e then withField e 159 96 (entryOffset e - (s.reference - began)).toNat else e
      let s := s.putEntry p n (withState e 1)
      let s := s.putScheduler { s.scheduler p with frozenAt := keepIf (fun f => f.1 ≠ n) d.frozenAt }
      let halted (h : Chain) : Bool := h.ref.tenant = entryTenant e && h.switching.isNone && someOf (fun g : Stage => g.halted) h.stages.toList
      let s := (keepIf halted s.chains).foldl State.thaw s
      (s.reschedule p).answerRequest p 0

/-! Save, restore and clear (R273, R274, R305). -/

/-- The entry and core that a request names are those of the partition. -/
def State.requestNames (s : State) (p : CoreId) (w : Word) : Bool :=
  requestZero w && entryValid (s.committed p (requestEntry w)) && s.inPartition p (requestCore w)

/-- Nanoseconds that a forwarding entry lasts (R274). -/
def forwardingUs : Nat := 1000

/-- The messages of a tenant that wait at a vacated core, in the pool and behind them those its comb has held while it is gated, go on to
where its context goes, in their order (R247, R274, R304). -/
def State.forwardPool (s : State) (c : CoreId) (f : Forwarding) : State :=
  let pool := s.pool (combOf c)
  let mine (m : CoreId × Message) : Bool := m.1 = c && m.2.tenant = f.tenant
  let gated (e : Event) : Bool := e.kind = .messageArrival && (match e.args.msg with | some m => m.tenant = f.tenant | none => false)
  let s' := if someOf mine pool then s.setPool (combOf c) (keepIf (fun m => !mine m) pool) else s
  let s' := s'.modCore c fun q => { q with heldAtComb := keepIf (fun e => !gated e) q.heldAtComb }
  let on (s : State) (m : Message) : State := s.routeVia c { m with dest := retarget m.dest f.package f.core } (c.toNat + 1)
  let s' := (keepIf mine pool).foldl (fun s m => on s m.2) s'
  ((keepIf gated (s.core c).heldAtComb).filterMap fun e => e.args.msg).foldl (fun s m => on (s.leaveInterface m) m) s'

/-- The slots of one core alone hand over, from an entry or to one (R273). -/
def State.switchCore (s : State) (p c : CoreId) (outgoing : Option (BitVec 4)) : State :=
  let s := s.charge p
  s.putScheduler { s.scheduler p with outgoing := outgoing, handover := allSlots.map fun k => (c, k) }

/-- Save: the tenant's slots on the core are switched out; the core is vacated for it and forwards its messages (R273). -/
def execSaveCore (s : State) : Host.Outcome State Fault Refusal :=
  s.serveScheduler (fun op => op = 2) fun s p w =>
    let c := requestCore w
    let n := requestEntry w
    let tenant := entryTenant (s.committed p n)
    let d := s.scheduler p
    if !s.requestNames p w then s.answerRequest p 4
    else if !(s.core c).vacatedFor tenant then
      if !d.handover.isEmpty then s
      else
        let s := s.modCore c fun q => { q with vacated := q.vacated ++ [(tenant, w.extractLsb' 54 10)] }
        if d.serving.map BitVec.toNat = some n && !(s.core c).dead then s.switchCore p c d.serving else s
    else if someOf (fun r => r.1 = c) d.handover then s
    else
      let f : Forwarding := { tenant := tenant, package := w.extractLsb' 54 10, core := w.extractLsb' 43 11, expires := s.now + cyclesOfUs forwardingUs }
      let s := s.modCore c fun q => { q with forwarding := keepIf (fun g : Forwarding => g.tenant ≠ tenant) q.forwarding ++ [f] }
      let s := s.forwardPool c f
      let s := if f.package = s.endpoint then s else s.leftPackage tenant c
      (s.post .forwardingExpiry { core := c, tenant := tenant, num := f.expires } (cyclesOfUs forwardingUs)).answerRequest p 0

/-- A restore is refused: features that the target lacks, or a context that it cannot hold (R305). -/
def State.restoreRefused (s : State) (area spad : Nat) (c : CoreId) : Option Nat :=
  let room := spadSize (s.core c).split - dequeBytes
  let ring (g : Nat) : Bool :=
    match ringFrom (s.readWord (area + 32 + 16 * g)) (s.readWord (area + 40 + 16 * g)) with
    | some r => r.base + r.n * r.size ≤ room
    | none => true
  if (s.readWord area).toNat &&& featureWord ≠ (s.readWord area).toNat then some 3
  else if spad > room || !allOf ring (List.range 8) ||
    someOf (fun k => field (s.readWord (contextAddr area k + 1512)) 15 14 = 1) allSlots then some 4
  else none

/-- A context that was saved at core `origin` comes to core `c`: from there, if this package vacated that core for a core of its own, else
from another package, and then what the tenant had at `c` is gone (R273; DEDUCED, log 37). -/
def State.bring (s : State) (tenant : BitVec 16) (origin c : CoreId) : State :=
  if someOf (fun v => v = (tenant, s.endpoint)) (s.core origin).vacated then
    if origin = c then s else (s.relocate tenant origin c).moveTransfers tenant origin c
  else if origin = c && !(s.core c).vacatedFor tenant then s
  else s.forget tenant c

/-- Restore: the area's context becomes the core's (R273, R305). -/
def execRestoreCore (s : State) : Host.Outcome State Fault Refusal :=
  s.serveScheduler (fun op => op = 3) fun s p w =>
    let c := requestCore w
    let n := requestEntry w
    let e := s.committed p n
    let tenant := entryTenant e
    let area := s.areaOf p n c
    let d := s.scheduler p
    if !s.requestNames p w then s.answerRequest p 4
    else
      match s.restoreRefused area (entrySpad e) c with
      | some code => s.answerRequest p code
      | none =>
        if !d.handover.isEmpty then s
        else
          let origin : CoreId := (s.readWord (area + 8)).extractLsb' 0 11
          let s := s.bring tenant origin c
          let s := (s.reissueAll tenant c).restartChannels tenant c
          let s := s.modCore c fun q => { q with
            dead := false, vacated := keepIf (fun v => v.1 ≠ tenant) q.vacated, forwarding := keepIf (fun g : Forwarding => g.tenant ≠ tenant) q.forwarding }
          let s := if d.serving.map BitVec.toNat = some n then s.switchCore p c none else s
          s.answerRequest p 0

/-- Clear forwarding (R274). -/
def execClearForwarding (s : State) : Host.Outcome State Fault Refusal :=
  s.serveScheduler (fun op => op = 4) fun s p w =>
    let tenant := entryTenant (s.committed p (requestEntry w))
    if !s.requestNames p w then s.answerRequest p 4
    else (s.modCore (requestCore w) fun q => { q with forwarding := keepIf (fun g : Forwarding => g.tenant ≠ tenant) q.forwarding }).answerRequest p 0

/-- A forwarding entry of core `args.core` lapses (R274). -/
def execForwardingExpiry (s : State) : Host.Outcome State Fault Refusal :=
  let a := s.args
  .next (s.modCore a.core fun q => { q with forwarding := keepIf (fun g : Forwarding => !(g.tenant = a.tenant && g.expires = a.num)) q.forwarding })

/-- The request before a scheduler can go on. -/
def State.requestReady (s : State) (p : CoreId) : Bool :=
  let d := s.scheduler p
  if d.status.isSome then !s.memFull (controlPage p + 8)
  else
    match s.requestAt p with
    | none => false
    | some w =>
      let n := requestEntry w
      let tenant := entryTenant (d.entry n)
      match requestOp w with
      | 5 =>
        if !someOf (fun f => f.1 = n) d.frozenAt then true
        else if d.serving.map BitVec.toNat = some n then d.handover.isEmpty && s.chainsHalted tenant
        else d.handover.isEmpty && (d.engineOps.isNone || s.transfersOf p tenant = 0)
      | 1 | 2 | 3 => d.handover.isEmpty
      | _ => true

/-- The row that performs a request. -/
def requestRow : Nat → Instr
  | 2 => .saveCore
  | 3 => .restoreCore
  | 4 => .clearForwarding
  | 5 => .freeze
  | 6 => .resume
  | _ => .commit

end Sys2Proof.Machine
end

