-- ==== Sys2Proof/Machine/System.lean ====
section
/-!
DEFINITION. Calls, breakpoints and returns, the system registers, translation control and share counts (R225 to R227, R230, R232,
R234, R235, R263, R272, R294, R343).
-/
namespace Sys2Proof.Machine

/-! Calls and returns (R225, R294). -/

/-- The cause of `ecall` at a level (R225). -/
def callCause : Level → BitVec 8
  | .u => 0x06 | .s => 0x07 | .h => 0x08

def execEcall (st : State) := run .ecall (do trap (callCause (← get).me.priv) 0) st
def execEbreak (st : State) := run .ebreak (trap causeBreak 0) st

/-- `xret` (R225, R294). -/
def execXret (st : State) :=
  run .xret (do
    let t := (← get).me
    let b := t.bank t.priv
    match Level.ofCode (b.xcause.extractLsb' 61 2) with
    | none => trap causeIllegal (xvalSub .xret 7)
    | some p =>
      if !p.le t.priv then trap causeIllegal (xvalSub .xret 7)
      if b.xpc.extractLsb' 0 2 ≠ 0#2 then trap causeTarget b.xpc
      modMe fun t => t.leaveTrap t.priv p
      return .stay) st

/-! System registers (R227, R234). -/

/-- Bits that a register has; the others read 0 and ignore writes (R234). -/
def sysMask (r : BitVec 12) : Word :=
  match r.toNat with
  | 0x002 | 0x012 => 0xF0000000000000FF
  | 0x009 => 0xF
  | 0x00A => 0x1F
  | 0x100 => 0xFFFF00FFFFFFC000
  | 0x101 => 0xFFFF
  | 0x102 => 0xFFFFFFFFC0
  | 0x103 => 0xFFFF
  | 0x104 => 0xFFF000FFFFFFFFE0
  | 0x106 => 0xFFFFFFFFFFFF00FF
  | 0x200 => 0xFFFFFC0000
  | 0x201 => 0x7FF
  | 0x202 => 0xFFF
  | _ => BitVec.allOnes 64

/-- The copy of the banked registers that a number names at a level (R16, R227). -/
def bankLevel (r : BitVec 12) (p : Level) : Level := if r.toNat ≥ 0x010 then .s else p

def Bank.get (b : Bank) (n : Nat) : Word :=
  match n with
  | 1 => b.xpc | 2 => b.xcause | 3 => b.xval | 4 => b.xvec | _ => b.xscratch

def Bank.put (b : Bank) (n : Nat) (w : Word) : Bank :=
  match n with
  | 1 => { b with xpc := w } | 2 => { b with xcause := w } | 3 => { b with xval := w } | 4 => { b with xvec := w }
  | _ => { b with xscratch := w }

/-- `sramcfg` (R235). -/
def Core.sramcfg (q : Core) : Word := 0#55 ++ BitVec.ofBool q.splitWanted.isSome ++ 0#6 ++ q.split

/-- The number names a banked register or the S copy of one (R234). -/
def isBanked (n : Nat) : Bool := (1 ≤ n && n ≤ 5) || (0x11 ≤ n && n ≤ 0x15)

/-- What a slot reads in a system register (R234). -/
def State.sysRead (s : State) (c : CoreId) (k : SlotId) (r : BitVec 12) : Word :=
  let t := s.slot c k
  let q := s.core c
  let n := r.toNat
  if isBanked n then (t.bank (bankLevel r t.priv)).get (n % 16)
  else
    match n with
    | 0x000 => t.xstat
    | 0x008 => t.fewlim
    | 0x009 => zext t.mfmt
    | 0x00A => zext t.fflags
    | 0x00B => s.tnow c k
    | 0x00C => slotIdWord s.endpoint c k
    | 0x100 => t.xlroot
    | 0x101 => zext t.tenant
    | 0x102 => t.objbase
    | 0x103 => t.objlim
    | 0x104 => t.cmtab
    | 0x105 => t.frbase
    | 0x106 => q.slstk
    | 0x107 => q.sramcfg
    | 0x108 => t.tcmp
    | 0x200 => Table.find 0 t.tenant.toNat s.s2base
    | 0x201 => zext q.pbase
    | 0x202 => zext q.plen
    | 0x203 => s.offsetOf c (s.offsetTenant c k)
    | _ => 0

/-- A write of `pbase` or `plen` waits until no tenant has work on the core (R263). -/
def State.partitionWrite (s : State) (c : CoreId) (r : BitVec 12) (w : Word) : State :=
  s.modCore c fun q => { q with partWrites := q.partWrites ++ [(r, w)] }

/-- A write of `sramcfg`: a request for split 0 to 2, nothing for 3 (R235). -/
def Core.writeSplit (q : Core) (w : Word) : Core :=
  if w.extractLsb' 0 2 = 3#2 then q else { q with splitWanted := some (w.extractLsb' 0 2) }

/-- A slot writes a system register; read-only fields and zero bits keep their values (R227, R234). The package has one `s2base` for each
tenant, and a slot reaches that of the tenant in its `tenant` field (R72, R234; DESIGN CHOICE, log 80). -/
def State.sysWrite (s : State) (c : CoreId) (k : SlotId) (r : BitVec 12) (w : Word) : State :=
  let t := s.slot c k
  let n := r.toNat
  let w := w &&& sysMask r
  if isBanked n then
    let l := bankLevel r t.priv
    s.setSlot c k (t.setBank l ((t.bank l).put (n % 16) w))
  else
    match n with
    | 0x000 => if t.priv = .u then s else s.setSlot c k { t with ie := w.getLsbD 3 }
    | 0x008 => s.setSlot c k { t with fewlim := w }
    | 0x009 => s.setSlot c k { t with mfmt := w.setWidth 4 }
    | 0x00A => s.setSlot c k { t with fflags := w.setWidth 5 }
    | 0x100 => s.setSlot c k { t with xlroot := w }
    | 0x101 => if t.priv = .h then s.setSlot c k { t with tenant := w.setWidth 16 } else s
    | 0x102 => s.setSlot c k { t with objbase := w }
    | 0x103 => s.setSlot c k { t with objlim := w }
    | 0x104 => s.setSlot c k { t with cmtab := w }
    | 0x105 => s.setSlot c k { t with frbase := w }
    | 0x106 => s.modCore c fun q => { q with slstk := w }
    | 0x107 => s.modCore c fun q => q.writeSplit w
    | 0x108 => s.setSlot c k { t with tcmp := w, pendTimer := false }
    | 0x200 => { s with s2base := Table.put t.tenant.toNat w s.s2base }
    | 0x201 | 0x202 => s.partitionWrite c r w
    | 0x203 => s.setOffset c (s.offsetTenant c k) w
    | _ => s

/-- The core returns a `tnow` value, and none smaller after it (R272). -/
def State.noteRead (s : State) (c : CoreId) (k : SlotId) (r : BitVec 12) (old : Word) : State :=
  if r = 0x00B then s.modCore c fun q => { q with lastTnow := Table.put (s.slot c k).tenant.toNat old q.lastTnow } else s

/-- One access to a system register: the old value to `xd`, and the register becomes `f old` (R227). -/
def accessSys (d : BitVec 5) (r : BitVec 12) (f : Option (Word → Word)) : M Flow := do
  let s ← get
  let c := s.cur.core
  let k := s.cur.slot
  let old := s.sysRead c k r
  let s := s.noteRead c k r old
  set (match f with | some f => s.sysWrite c k r (f old) | none => s)
  writeX d old
  return .step

def execSrd (d : BitVec 5) (r : BitVec 12) (st : State) := run (.srd d r) (accessSys d r none) st
def execSwr (d x : BitVec 5) (r : BitVec 12) (st : State) :=
  run (.swr d x r) (do let w ← readX x; accessSys d r (some fun _ => w)) st
def execSset (d x : BitVec 5) (r : BitVec 12) (st : State) :=
  run (.sset d x r) (do let w ← readX x; accessSys d r (some fun old => old ||| w)) st
def execSclr (d x : BitVec 5) (r : BitVec 12) (st : State) :=
  run (.sclr d x r) (do let w ← readX x; accessSys d r (some fun old => old &&& ~~~w)) st

/-- The write that `swr`, `sset` or `sclr` of slot (`args.core`, `args.slot`) makes of register `args.sr`, where it has no row of its
own (R227). -/
def execSystemRegisterWrite (s : State) : Host.Outcome State Fault Refusal :=
  .next (s.sysWrite s.args.core s.args.slot s.args.sr s.args.word)

/-- The write that such a form makes of `sramcfg` (R235). -/
def execSramcfgWrite (s : State) : Host.Outcome State Fault Refusal :=
  .next (s.modCore s.args.core fun q => q.writeSplit s.args.word)

/-- No tenant has work on a core (R263). -/
def Core.unworked (q : Core) : Bool := allOf (fun t : Slot => t.state = .idle) q.slots.toList && q.deque.isEmpty && q.inbox.isEmpty

/-- Writes of `pbase` and `plen` take effect, in order (R263). -/
def Core.applyPartition (q : Core) : Core :=
  q.partWrites.foldl (fun q p => if p.1 = 0x201 then { q with pbase := p.2.setWidth 11 } else { q with plen := p.2.setWidth 12 })
    { q with partWrites := [] }

def execPartitionRegisterWrite (s : State) : Host.Outcome State Fault Refusal :=
  let c := s.args.core
  .next (if (s.core c).unworked then s.modCore c Core.applyPartition else s)

/-- Some tenant of the core's partition holds declared scratchpad (R235, R265). -/
def State.holdsSpad (s : State) (c : CoreId) : Bool :=
  match (if s.inPartition c c then s.schedulerOf (s.core c).pbase else none) with
  | some d => someOf (fun a : Nat × BitVec 512 => entrySpad a.2 ≠ 0) d.admitted
  | none => false

/-- A core with a new split: bytes beyond either scratchpad are 0 (R11, R235; DESIGN CHOICE, log 3). -/
def Core.resplit (q : Core) (v : BitVec 2) : Core :=
  let n := Nat.min (spadSize q.split) (spadSize v)
  { q with
    split := v, splitWanted := none, spad := keepIf (fun p : Host.Cell => p.1 < n) q.spad, spadEmpty := keepIf (fun a => a < n) q.spadEmpty,
    spadBad := keepIf (fun a => a < n) q.spadBad }

/-- A requested split takes effect, once L1D lines beyond its room have been written back or dropped (R235). -/
def execSplitTakesEffect (s : State) : Host.Outcome State Fault Refusal :=
  let c := s.args.core
  match (s.core c).splitWanted with
  | none => .next s
  | some v =>
    if s.holdsSpad c || !(s.core c).deque.isEmpty then .next s
    else
      .next ((s.evictBeyond c (lineRoom v)).modCore c fun q => q.resplit v)

/-! Shootdowns (R230, R311). -/

def invTenant (w : Word) : BitVec 16 := w.extractLsb' 48 16
def invKind (w : Word) : Nat := field w 18 16
def invAsid (w : Word) : BitVec 16 := w.extractLsb' 0 16

/-- The cores whose message engines acknowledge: the partition's for kinds 0 to 2, the package's for 3 to 5; at H every core for
each kind. A core that the state does not list holds nothing (R230; DEDUCED, log 26). -/
def State.shootdownCores (s : State) (kind : Nat) : List CoreId :=
  keepIf (fun c => !(s.core c).dead && (kind ≥ 3 || s.me.priv = .h || c = s.cur.core || s.inPartition s.cur.core c)) s.coreIds

/-- `tlbinv` (R230, R343). -/
def execTlbinv (x y : BitVec 5) (st : State) :=
  run (.tlbinv x y) (do
    let i : Instr := .tlbinv x y
    let a ← readX x
    let w ← readX y
    let s ← get
    let t := s.me
    let kind := invKind w
    if t.priv ≠ .h && (kind = 4 || kind = 5) then trap causeIllegal (xvalSub i 2)
    if kind ≥ 6 || bits w 47 19 ≠ 0 then trap causeIllegal (xvalSub i 7)
    waitEarlier
    let d : Shootdown :=
      { id := s.fresh, core := s.cur.core, slot := s.cur.slot, tenant := if t.priv = .h then invTenant w else t.tenant,
        kind := BitVec.ofNat 3 kind, asid := invAsid w, addr := a, owed := s.shootdownCores kind }
    let s' : State := { s with fresh := s.fresh + 1, shootdowns := s.shootdowns ++ [d] }
    let s' := d.owed.foldl (fun s c => s.post .shootdown { core := c, num := d.id } 1) s'
    set (s'.modMe fun t => t.park .memwait (.acks d.id))
    return .stay) st

/-- A TLB entry that a shootdown removes (R230). -/
def Shootdown.removes (d : Shootdown) (e : TlbEntry) : Bool :=
  e.tenant = d.tenant &&
  (match d.kind.toNat with
   | 0 => e.page = d.addr.toNat / 2 ^ e.bits && (e.asid = d.asid || pteG e.pte)
   | 1 => e.asid = d.asid && !pteG e.pte
   | 2 => true
   | _ => false)

/-- A line of the frame that kind 3 purges. -/
def Shootdown.purges (d : Shootdown) (tag : LineTag) : Bool :=
  d.kind = 3#3 && tag.tenant = d.tenant && tag.line.toNat / 128 = field d.addr 39 14

/-- A copy of a second-stage entry that kinds 4 and 5 drop. -/
def Shootdown.drops (d : Shootdown) (e : BitVec 16 × Nat × Word) : Bool :=
  e.1 = d.tenant && (d.kind = 5#3 || (d.kind = 4#3 && e.2.1 = field d.addr 39 25))

/-- An access of the slot is held at the second stage, or goes on from there: it uses the TLB entry that it was translated by (R311, R313). -/
def Slot.holdsEntry (t : Slot) : Bool := match t.wait with | .secondStage _ _ => t.state = .memwait || t.state = .run | _ => false

/-- A core's message engine removes what a shootdown targets and acknowledges, once the accesses in flight that used it are performed
(R230, R311). -/
def execShootdown (s : State) : Host.Outcome State Fault Refusal :=
  let c := s.args.core
  match firstOf (fun d : Shootdown => d.id = s.args.num) s.shootdowns with
  | none => .next s
  | some d =>
    if d.kind ≤ 2 && someOf (fun t : Slot => t.tenant = d.tenant && t.holdsEntry) (s.core c).slots.toList then
      .next (s.post .shootdown { core := c, num := d.id } 1)
    else
    let s := s.modCore c fun q => { q with tlb := keepIf (fun e => !d.removes e) q.tlb }
    let s := (keepIf (fun l : CacheLine => d.purges l.tag) (s.core c).lines).foldl (fun s l => s.evict c l) s
    let s := { s with s2copies := keepIf (fun e => !d.drops e) s.s2copies }
    if someOf (fun t : Slot => t.outstanding ≠ 0) (s.core c).slots.toList then .next (s.post .shootdown { core := c, num := d.id } 1)
    else .next (s.post .shootdownAck { core := c, num := d.id } 1)

/-- A core holds the line, or a grant of it is on its way: its entry stays (R83). -/
def State.lineHeld (s : State) (tag : LineTag) : Bool :=
  someOf (fun p : Nat × Core => (p.2.findLine tag).isSome) s.cores || someOf (Due.grants tag) s.agenda

/-- An acknowledgement reaches the issuing core; the last completes the `tlbinv` (R230). -/
def execShootdownAck (s : State) : Host.Outcome State Fault Refusal :=
  match firstOf (fun d : Shootdown => d.id = s.args.num) s.shootdowns with
  | none => .next s
  | some d =>
    let d := { d with owed := keepIf (fun c => c ≠ s.args.core) d.owed }
    if d.owed.isEmpty then
      let s := { s with
        shootdowns := removeFirst (fun e : Shootdown => e.id = d.id) s.shootdowns
        dir := keepIf (fun e : DirEntry => !(d.purges e.tag && e.quiet && !s.lineHeld e.tag)) s.dir
        l2 := s.l2.map fun p => (p.1, keepIf (fun t => !d.purges t) p.2)
        s2copies := keepIf (fun e => !d.drops e) s.s2copies }
      let mine (t : Slot) : Bool := t.wait = .acks d.id
      .next (if mine (s.slot d.core d.slot) then s.modSlot d.core d.slot fun t => { t.unpark with pc := t.pc + 4 }
        else match firstOf (fun p : Parked => p.core = d.core && p.slot = d.slot && mine p.kept) s.parked with
          | some p => s.modTenantSlot p.tenant d.core d.slot fun t => { t.unpark with pc := t.pc + 4 }
          | none => s)
    else .next { s with shootdowns := replaceFirst (fun e : Shootdown => e.id = d.id) d s.shootdowns }

/-! Share counts (R75, R232). -/

/-- A guest-physical access that an instruction makes for itself, as R313 and, at H, R74 have it. An address of 2^40 or more, which no
guest-physical space has, is a denied one (R75; DESIGN CHOICE, log 64). With no leaf to name its home, the line is homed under mode 0 (R69;
DESIGN CHOICE, log 77). -/
def guestAccess (gpa : Nat) (n : Nat) (acc : Access) : M Loc := do
  let s ← get
  let t := s.me
  let va := BitVec.ofNat 64 gpa
  if gpa % n ≠ 0 then trap causeAlign va
  if gpa ≥ 2 ^ 40 then trap causeDenied va
  let line := BitVec.ofNat 33 (gpa / 128)
  match s.second t.accessTenant gpa acc with
  | .granted a =>
    return { place := .mem a, tag := { tenant := t.accessTenant, line := line },
             home := if t.priv = .h then BitVec.ofNat 8 (a / 2 ^ 29) else s.hashedHome s.cur.core line }
  | g => throw (stopGuest gpa causeDenied va g)

/-- `pshare` (R232, R343). -/
def execPshare (d x y : BitVec 5) (st : State) :=
  run (.pshare d x y) (do
    needRoom 1
    let frame := field (← readX x) 39 14
    let delta ← readX y
    let gpa := (← get).me.frbase.toNat + 2 * frame
    let l ← guestAccess gpa 2 .rmw
    if ((← get).badWord l.place (BitVec.ofNat 64 gpa) 2).isSome then throw (.badTable (gpa / 8 * 8) (BitVec.ofNat 64 gpa))
    modify fun s => (s.noteStageTwo l).recall l
    let old := (← get).readLoc l.place 2
    let count := (old + delta.toNat) % 2 ^ 16
    modify fun s => s.writeLoc l.place 2 count
    writeX d (BitVec.ofNat 64 count)
    pendResult (.x d) true none
    return .step) st

end Sys2Proof.Machine
end

