-- ==== Sys2Proof/Machine/Table.lean ====
section
/-!
DEFINITION. `dtwr` and `dtrd`: the layouts of the object-table entries and the changes that a live region refuses (R33, R52, R98, R166,
R211, R231, R328).
-/
namespace Sys2Proof.Machine

/-! Layouts (R231; DEDUCED, log 32). -/

/-- Every number below `n` is in a list. -/
def coversBelow (n : Nat) (l : List Nat) : Bool := allOf (fun i => someOf (fun j => j = i) l) (List.range n)

def shapeLayoutOk (e : BitVec 512) : Bool :=
  field e 366 7 = 0 && field e 373 371 ≤ 5 && shardBits e ≤ 10 && shardBits e ≤ keyWidth e &&
  coversBelow (dimCount e) (dimOrder e) &&
  allOf (fun i => i < dimCount e || (field e (377 + 2 * i) (376 + 2 * i) = 0 && field e (415 + 32 * i) (384 + 32 * i) = 0)) (List.range 4)

def kregionLayoutOk (e : BitVec 512) : Bool :=
  let sparse := e.getLsbD 222
  field e 213 7 = 0 && (field e 227 226 = 1 || field e 227 226 = 2) && (field e 227 226 ≠ 1 || field e 239 236 = 0) && field e 216 214 ≤ 5 &&
  field e 511 448 % 8 = 0 && field e 383 320 % 512 = 0 && field e 319 256 % 512 = 0 &&
  (if sparse then field e 511 384 = 0 else field e 255 240 = 0 && field e 216 214 = 0)

def chainLayoutOk (e : BitVec 512) : Bool := field e 125 7 = 0 && chainFormed e && field e 255 192 % 8 = 0

/-- An image keeps the layout of its kind; kind 0 has none, and kinds 6 to 15 are no entries (R231). -/
def imageOk (e : BitVec 512) : Bool :=
  match objKind e with
  | 0 => true
  | 1 => shapeLayoutOk e
  | 2 => kregionLayoutOk e
  | 3 => ringLayoutOk e
  | 4 => chainLayoutOk e
  | 5 => gangLayoutOk e
  | _ => false

/-! Changes that are refused (R328). -/

/-- The bits of an entry outside its rights. -/
def butRights (e : BitVec 512) : BitVec 512 := e &&& ~~~0x70#512

/-- Two KREGION entries differ only in their rights and their two limits; `d` is their difference. -/
def onlyLimits (d : BitVec 512) : Bool := field d 511 448 = 0 && field d 383 320 = 0 && field d 255 7 = 0 && field d 3 0 = 0

/-- Entries that may be KREGIONs of the slot's table: keyed forms name regions 1 to 4095 (R181, R323). -/
def Slot.regionEntries (t : Slot) : List Nat := upFrom 1 (Nat.min (field t.objlim 15 0) 4095)

/-- An entry is a live KREGION that names a SHAPE. -/
def namesShape (idx : Nat) (e : BitVec 512) : Bool := objKind e = 2 && field e 255 240 = idx

/-- The read of an entry stops (R313, R317). -/
def State.entryStops (s : State) (t : Slot) (j : Nat) : Bool := match s.object t j with | .error _ => true | .ok _ => false

/-- Some live KREGION of the slot's table names a SHAPE, or an entry that might be one cannot be read yet. -/
def State.shapeInUse (s : State) (t : Slot) (idx : Nat) : Bool :=
  someOf (fun j => match s.object t j with | .ok (some e) => namesShape idx e | .ok none => false | .error _ => true) t.regionEntries

/-- The entry whose read stops a change of a SHAPE that no entry read so far names (R313, R317). -/
def State.unreadEntry (s : State) (t : Slot) (idx : Nat) : Option Nat :=
  if someOf (fun j => match s.object t j with | .ok (some e) => namesShape idx e | _ => false) t.regionEntries then none
  else firstOf (s.entryStops t) t.regionEntries

/-- The change of entry `idx` from `old` to `new` is refused. -/
def State.changeRefused (s : State) (t : Slot) (idx : Nat) (old new : BitVec 512) : Bool :=
  match objKind old with
  | 2 =>
    objKind new ≠ 0 && !(onlyLimits (old ^^^ new) && field old 447 384 ≤ field new 447 384 && field old 319 256 ≤ field new 319 256)
  | 1 => butRights old ≠ butRights new && s.shapeInUse t idx
  | _ => false

/-! The forms. -/

/-- The entry that a form names. -/
def namedEntry (i : Instr) (w : Word) : M (BitVec 16 × BitVec 512) := do
  let idx : BitVec 16 := w.extractLsb' 0 16
  if idx = 0 then trap causeObject (xvalObject i idx 1)
  match ← readObject (← myself) idx.toNat causeObject (xvalObject i idx 1) with
  | none => trap causeObject (xvalObject i idx 1)
  | some e => return (idx, e)

/-- The transfers of a tenant on a region that is retired end with code 6 (R330). -/
def State.retireBoxes (s : State) (tenant : BitVec 16) (idx : Nat) : State :=
  let ended (t : Transfer) : Transfer :=
    if (t.op = .dense || t.op = .sparse) && t.agent.tenant = tenant && field t.arg 11 0 = idx && t.bad.isNone then { t with bad := some 6 } else t
  s.coreIds.foldl (fun s c => s.modCore c fun q => { q with channels := q.channels.map fun (h : Channel) => { h with queue := h.queue.map ended } }) s

/-- A live region, which an index below 4096 alone can name, is retired: its shards have failed no more, its transfers end, and what goes on
in it goes on against the old entry (R328 to R330). -/
def State.retireRegion (s : State) (tenant : BitVec 16) (idx : Nat) : State :=
  if idx ≥ 4096 then s
  else { s.retireBoxes tenant idx with
    retired := s.retired ++ [(tenant, BitVec.ofNat 12 idx)], failedShards := keepIf (fun f => !(f.1 = tenant && f.2.1.toNat = idx)) s.failedShards }

/-- A change that is refused traps with sub 8, once every entry that decides it has been read: a read that is held holds the form, and ends in that
trap if it lasts too long (R313, R317, R328; DESIGN CHOICE, log 81). -/
def refuseChange (i : Instr) (old : BitVec 512) (idx : BitVec 16) : M Unit := do
  let xval := xvalKeyed i (idx.setWidth 12) 15 8
  let s ← get
  match (if objKind old = 1 then s.unreadEntry s.me idx.toNat else none) with
  | some j => let _ ← readObject s.me j causeObject xval
  | none => pure ()
  trap causeObject xval

def execDtwr (x y : BitVec 5) (st : State) :=
  run (.dtwr x y) (do
    needRoom 1
    let (idx, old) ← namedEntry (.dtwr x y) (← readX x)
    let (v, line) ← loadVA (← readX y) 64
    let new := BitVec.ofNat 512 v
    if !imageOk new then trap causeObject (xvalObject (.dtwr x y) idx 7)
    let s ← get
    let t := s.me
    if s.changeRefused t idx.toNat old new then refuseChange (.dtwr x y) old idx
    let l ← guestAccess (t.objectAddr idx.toNat) 64 .store
    modify fun s => ((s.noteStageTwo l).recall l).storeLoc l.place 64 v
    if objKind old = 2 && objKind new = 0 then modify fun s => s.retireRegion t.tenant idx.toNat
    match line with
    | some tag => modMe fun t => t.launchFlight (.x 0) true (some tag)
    | none => pure ()
    return .step) st

def execDtrd (x y : BitVec 5) (st : State) :=
  run (.dtrd x y) (do
    needRoom 1
    let (_, e) ← namedEntry (.dtrd x y) (← readX x)
    storeVA (← readX y) 64 e.toNat
    return .step) st

end Sys2Proof.Machine
end

