-- ==== Sys2Proof/Machine/Dispatch.lean ====
section
/-!
DEFINITION. One arm for each constructor of `Instr`: a direct call of its meaning.
-/
namespace Sys2Proof.Machine

def exec (i : Instr) (s : State) : Host.Outcome State Fault Refusal :=
  match i with
  | .lb d s1 imm => Sys2Proof.Machine.execLb d s1 imm s
  | .lh d s1 imm => Sys2Proof.Machine.execLh d s1 imm s
  | .lw d s1 imm => Sys2Proof.Machine.execLw d s1 imm s
  | .ld d s1 imm => Sys2Proof.Machine.execLd d s1 imm s
  | .lbz d s1 imm => Sys2Proof.Machine.execLbz d s1 imm s
  | .lhz d s1 imm => Sys2Proof.Machine.execLhz d s1 imm s
  | .lwz d s1 imm => Sys2Proof.Machine.execLwz d s1 imm s
  | .ldAq d s1 imm => Sys2Proof.Machine.execLdAq d s1 imm s
  | .sb imm s1 t => Sys2Proof.Machine.execSb imm s1 t s
  | .sh imm s1 t => Sys2Proof.Machine.execSh imm s1 t s
  | .sw imm s1 t => Sys2Proof.Machine.execSw imm s1 t s
  | .sd imm s1 t => Sys2Proof.Machine.execSd imm s1 t s
  | .sdRl imm s1 t => Sys2Proof.Machine.execSdRl imm s1 t s
  | .addi d s1 imm => Sys2Proof.Machine.execAddi d s1 imm s
  | .slli d s1 h => Sys2Proof.Machine.execSlli d s1 h s
  | .clz d s1 => Sys2Proof.Machine.execClz d s1 s
  | .ctz d s1 => Sys2Proof.Machine.execCtz d s1 s
  | .popc d s1 => Sys2Proof.Machine.execPopc d s1 s
  | .sextw d s1 => Sys2Proof.Machine.execSextw d s1 s
  | .zextw d s1 => Sys2Proof.Machine.execZextw d s1 s
  | .rev8 d s1 => Sys2Proof.Machine.execRev8 d s1 s
  | .slti d s1 imm => Sys2Proof.Machine.execSlti d s1 imm s
  | .sltni d s1 imm => Sys2Proof.Machine.execSltni d s1 imm s
  | .xori d s1 imm => Sys2Proof.Machine.execXori d s1 imm s
  | .srli d s1 h => Sys2Proof.Machine.execSrli d s1 h s
  | .srai d s1 h => Sys2Proof.Machine.execSrai d s1 h s
  | .ori d s1 imm => Sys2Proof.Machine.execOri d s1 imm s
  | .andi d s1 imm => Sys2Proof.Machine.execAndi d s1 imm s
  | .add d s1 t => Sys2Proof.Machine.execAdd d s1 t s
  | .sll d s1 t => Sys2Proof.Machine.execSll d s1 t s
  | .slt d s1 t => Sys2Proof.Machine.execSlt d s1 t s
  | .sltn d s1 t => Sys2Proof.Machine.execSltn d s1 t s
  | .xor d s1 t => Sys2Proof.Machine.execXor d s1 t s
  | .srl d s1 t => Sys2Proof.Machine.execSrl d s1 t s
  | .or d s1 t => Sys2Proof.Machine.execOr d s1 t s
  | .and d s1 t => Sys2Proof.Machine.execAnd d s1 t s
  | .sub d s1 t => Sys2Proof.Machine.execSub d s1 t s
  | .sra d s1 t => Sys2Proof.Machine.execSra d s1 t s
  | .orn d s1 t => Sys2Proof.Machine.execOrn d s1 t s
  | .andn d s1 t => Sys2Proof.Machine.execAndn d s1 t s
  | .min d s1 t => Sys2Proof.Machine.execMin d s1 t s
  | .max d s1 t => Sys2Proof.Machine.execMax d s1 t s
  | .minn d s1 t => Sys2Proof.Machine.execMinn d s1 t s
  | .maxn d s1 t => Sys2Proof.Machine.execMaxn d s1 t s
  | .mul d s1 t => Sys2Proof.Machine.execMul d s1 t s
  | .mulh d s1 t => Sys2Proof.Machine.execMulh d s1 t s
  | .mulhn d s1 t => Sys2Proof.Machine.execMulhn d s1 t s
  | .div d s1 t => Sys2Proof.Machine.execDiv d s1 t s
  | .divn d s1 t => Sys2Proof.Machine.execDivn d s1 t s
  | .rem d s1 t => Sys2Proof.Machine.execRem d s1 t s
  | .remn d s1 t => Sys2Proof.Machine.execRemn d s1 t s
  | .lhi d imm => Sys2Proof.Machine.execLhi d imm s
  | .apc d imm => Sys2Proof.Machine.execApc d imm s
  | .jal d imm => Sys2Proof.Machine.execJal d imm s
  | .jalr d s1 imm => Sys2Proof.Machine.execJalr d s1 imm s
  | .beq imm s1 t => Sys2Proof.Machine.execBeq imm s1 t s
  | .bne imm s1 t => Sys2Proof.Machine.execBne imm s1 t s
  | .blt imm s1 t => Sys2Proof.Machine.execBlt imm s1 t s
  | .bge imm s1 t => Sys2Proof.Machine.execBge imm s1 t s
  | .bltn imm s1 t => Sys2Proof.Machine.execBltn imm s1 t s
  | .bgen imm s1 t => Sys2Proof.Machine.execBgen imm s1 t s
  | .fence c => Sys2Proof.Machine.execFence c s
  | .fenceK c => Sys2Proof.Machine.execFenceK c s
  | .amoswap d c s1 t o => Sys2Proof.Machine.execAmoswap d c s1 t o s
  | .amoadd d c s1 t o => Sys2Proof.Machine.execAmoadd d c s1 t o s
  | .amoand d c s1 t o => Sys2Proof.Machine.execAmoand d c s1 t o s
  | .amoor d c s1 t o => Sys2Proof.Machine.execAmoor d c s1 t o s
  | .amoxor d c s1 t o => Sys2Proof.Machine.execAmoxor d c s1 t o s
  | .amomin d c s1 t o => Sys2Proof.Machine.execAmomin d c s1 t o s
  | .amomax d c s1 t o => Sys2Proof.Machine.execAmomax d c s1 t o s
  | .amominn d c s1 t o => Sys2Proof.Machine.execAmominn d c s1 t o s
  | .amomaxn d c s1 t o => Sys2Proof.Machine.execAmomaxn d c s1 t o s
  | .amocas d c s1 t o => Sys2Proof.Machine.execAmocas d c s1 t o s
  | .ldfe d s1 imm => Sys2Proof.Machine.execLdfe d s1 imm s
  | .ldff d s1 imm => Sys2Proof.Machine.execLdff d s1 imm s
  | .ldfx d s1 imm => Sys2Proof.Machine.execLdfx d s1 imm s
  | .sdef imm s1 t => Sys2Proof.Machine.execSdef imm s1 t s
  | .sdff imm s1 t => Sys2Proof.Machine.execSdff imm s1 t s
  | .fempty s1 imm => Sys2Proof.Machine.execFempty s1 imm s
  | .fstate d s1 imm => Sys2Proof.Machine.execFstate d s1 imm s
  | .vld d s1 t m => Sys2Proof.Machine.execVld d s1 t m s
  | .vlds d s1 g t m => Sys2Proof.Machine.execVlds d s1 g t m s
  | .vldx d s1 v t m => Sys2Proof.Machine.execVldx d s1 v t m s
  | .vst d s1 t m => Sys2Proof.Machine.execVst d s1 t m s
  | .vsts d s1 g t m => Sys2Proof.Machine.execVsts d s1 g t m s
  | .vstx d s1 v t m => Sys2Proof.Machine.execVstx d s1 v t m s
  | .vadd d a b t m => Sys2Proof.Machine.execVadd d a b t m s
  | .vsub d a b t m => Sys2Proof.Machine.execVsub d a b t m s
  | .vmul d a b t m => Sys2Proof.Machine.execVmul d a b t m s
  | .vdiv d a b t m => Sys2Proof.Machine.execVdiv d a b t m s
  | .vmin d a b t m => Sys2Proof.Machine.execVmin d a b t m s
  | .vmax d a b t m => Sys2Proof.Machine.execVmax d a b t m s
  | .vfma d a b t m => Sys2Proof.Machine.execVfma d a b t m s
  | .vfms d a b t m => Sys2Proof.Machine.execVfms d a b t m s
  | .vand d a b t m => Sys2Proof.Machine.execVand d a b t m s
  | .vor d a b t m => Sys2Proof.Machine.execVor d a b t m s
  | .vxor d a b t m => Sys2Proof.Machine.execVxor d a b t m s
  | .vshl d a b t m => Sys2Proof.Machine.execVshl d a b t m s
  | .vshr d a b t m => Sys2Proof.Machine.execVshr d a b t m s
  | .vsra d a b t m => Sys2Proof.Machine.execVsra d a b t m s
  | .vcmp c n a b t m => Sys2Proof.Machine.execVcmp c n a b t m s
  | .vsel d a b t k => Sys2Proof.Machine.execVsel d a b t k s
  | .vperm d a b t m => Sys2Proof.Machine.execVperm d a b t m s
  | .vslide d a g t m => Sys2Proof.Machine.execVslide d a g t m s
  | .vabs d a t m => Sys2Proof.Machine.execVabs d a t m s
  | .vneg d a t m => Sys2Proof.Machine.execVneg d a t m s
  | .vsqrt d a t m => Sys2Proof.Machine.execVsqrt d a t m s
  | .vredsum d a t m => Sys2Proof.Machine.execVredsum d a t m s
  | .vredmax d a t m => Sys2Proof.Machine.execVredmax d a t m s
  | .vredmin d a t m => Sys2Proof.Machine.execVredmin d a t m s
  | .vbcast d s1 t m => Sys2Proof.Machine.execVbcast d s1 t m s
  | .vmvx d a t => Sys2Proof.Machine.execVmvx d a t s
  | .mand d a b => Sys2Proof.Machine.execMand d a b s
  | .mor d a b => Sys2Proof.Machine.execMor d a b s
  | .mnot d a => Sys2Proof.Machine.execMnot d a s
  | .vpopm d a => Sys2Proof.Machine.execVpopm d a s
  | .vcvt d a src t rm m => Sys2Proof.Machine.execVcvt d a src t rm m s
  | .mmac z a b f pa pb ps => Sys2Proof.Machine.execMmac z a b f pa pb ps s
  | .mmacs z a b s1 f pa pb ps => Sys2Proof.Machine.execMmacs z a b s1 f pa pb ps s
  | .mzero z => Sys2Proof.Machine.execMzero z s
  | .mldz s1 z f => Sys2Proof.Machine.execMldz s1 z f s
  | .mstz s1 z f => Sys2Proof.Machine.execMstz s1 z f s
  | .mscl a => Sys2Proof.Machine.execMscl a s
  | .macq z => Sys2Proof.Machine.execMacq z s
  | .mrel z => Sys2Proof.Machine.execMrel z s
  | .matrixOpComplete => Sys2Proof.Machine.execMatrixOpComplete s
  | .rgset g s1 => Sys2Proof.Machine.execRgset g s1 s
  | .rgwf g => Sys2Proof.Machine.execRgwf g s
  | .rgwe g => Sys2Proof.Machine.execRgwe g s
  | .rghd g => Sys2Proof.Machine.execRghd g s
  | .rgtl g => Sys2Proof.Machine.execRgtl g s
  | .rgrd d g => Sys2Proof.Machine.execRgrd d g s
  | .rpbeg => Sys2Proof.Machine.execRpbeg s
  | .rpend => Sys2Proof.Machine.execRpend s
  | .rpgo s1 t => Sys2Proof.Machine.execRpgo s1 t s
  | .rpgoa s1 t => Sys2Proof.Machine.execRpgoa s1 t s
  | .rpjoin => Sys2Proof.Machine.execRpjoin s
  | .bufferIssue => Sys2Proof.Machine.execBufferIssue s
  | .runaheadJoin => Sys2Proof.Machine.execRunaheadJoin s
  | .lbroot d s1 => Sys2Proof.Machine.execLbroot d s1 s
  | .lbkid d a t => Sys2Proof.Machine.execLbkid d a t s
  | .lbapp d a => Sys2Proof.Machine.execLbapp d a s
  | .lbins d a => Sys2Proof.Machine.execLbins d a s
  | .lbdel a => Sys2Proof.Machine.execLbdel a s
  | .lbanc d a b => Sys2Proof.Machine.execLbanc d a b s
  | .lbcmp d a b => Sys2Proof.Machine.execLbcmp d a b s
  | .lbpar d a => Sys2Proof.Machine.execLbpar d a s
  | .lbdep d a => Sys2Proof.Machine.execLbdep d a s
  | .lbres d a => Sys2Proof.Machine.execLbres d a s
  | .lbmov d a b => Sys2Proof.Machine.execLbmov d a b s
  | .lbfix d => Sys2Proof.Machine.execLbfix d s
  | .lbcp d a => Sys2Proof.Machine.execLbcp d a s
  | .lblm d s1 => Sys2Proof.Machine.execLblm d s1 s
  | .lbsm s1 b => Sys2Proof.Machine.execLbsm s1 b s
  | .lbxg d a h => Sys2Proof.Machine.execLbxg d a h s
  | .lbld d a imm => Sys2Proof.Machine.execLbld d a imm s
  | .lbst imm a t => Sys2Proof.Machine.execLbst imm a t s
  | .kfirst d a k => Sys2Proof.Machine.execKfirst d a k s
  | .knext d a k => Sys2Proof.Machine.execKnext d a k s
  | .kredI32 d c k => Sys2Proof.Machine.execKredI32 d c k s
  | .kredI64 d c k => Sys2Proof.Machine.execKredI64 d c k s
  | .kredF32 d c k => Sys2Proof.Machine.execKredF32 d c k s
  | .kredF64 d c k => Sys2Proof.Machine.execKredF64 d c k s
  | .kredComplete => Sys2Proof.Machine.execKredComplete s
  | .skey d a k => Sys2Proof.Machine.execSkey d a k s
  | .sld d a k => Sys2Proof.Machine.execSld d a k s
  | .sst d a k => Sys2Proof.Machine.execSst d a k s
  | .sadd d a k => Sys2Proof.Machine.execSadd d a k s
  | .scoord d a k => Sys2Proof.Machine.execScoord d a k s
  | .keyEngineAnswer => Sys2Proof.Machine.execKeyEngineAnswer s
  | .heldKeyedRequest => Sys2Proof.Machine.execHeldKeyedRequest s
  | .prefixInvalidate => Sys2Proof.Machine.execPrefixInvalidate s
  | .prefixEntryActivate => Sys2Proof.Machine.execPrefixEntryActivate s
  | .spawn s1 imm => Sys2Proof.Machine.execSpawn s1 imm s
  | .sret => Sys2Proof.Machine.execSret s
  | .sync s1 => Sys2Proof.Machine.execSync s1 s
  | .yield => Sys2Proof.Machine.execYield s
  | .hop s1 => Sys2Proof.Machine.execHop s1 s
  | .hopk a k => Sys2Proof.Machine.execHopk a k s
  | .ganggo s1 => Sys2Proof.Machine.execGanggo s1 s
  | .gbar n => Sys2Proof.Machine.execGbar n s
  | .stop => Sys2Proof.Machine.execStop s
  | .gangAdmission => Sys2Proof.Machine.execGangAdmission s
  | .msend s1 t c => Sys2Proof.Machine.execMsend s1 t c s
  | .msendnb d s1 t c => Sys2Proof.Machine.execMsendnb d s1 t c s
  | .mdone => Sys2Proof.Machine.execMdone s
  | .mbput b t w => Sys2Proof.Machine.execMbput b t w s
  | .mbget d b w => Sys2Proof.Machine.execMbget d b w s
  | .chgo s1 t f => Sys2Proof.Machine.execChgo s1 t f s
  | .get d imm => Sys2Proof.Machine.execGet d imm s
  | .put s1 => Sys2Proof.Machine.execPut s1 s
  | .vget d imm => Sys2Proof.Machine.execVget d imm s
  | .vput a => Sys2Proof.Machine.execVput a s
  | .chend => Sys2Proof.Machine.execChend s
  | .stageStart => Sys2Proof.Machine.execStageStart s
  | .mvcp d c s1 t => Sys2Proof.Machine.execMvcp d c s1 t s
  | .mv2d d c s1 t => Sys2Proof.Machine.execMv2d d c s1 t s
  | .mvgth d c s1 t => Sys2Proof.Machine.execMvgth d c s1 t s
  | .mvsct d c s1 t => Sys2Proof.Machine.execMvsct d c s1 t s
  | .mvfill d c s1 t => Sys2Proof.Machine.execMvfill d c s1 t s
  | .mvget d c s1 t => Sys2Proof.Machine.execMvget d c s1 t s
  | .mvput d c s1 t => Sys2Proof.Machine.execMvput d c s1 t s
  | .mvamo d c s1 t => Sys2Proof.Machine.execMvamo d c s1 t s
  | .mvring d c s1 t => Sys2Proof.Machine.execMvring d c s1 t s
  | .sdense d c s1 t => Sys2Proof.Machine.execSdense d c s1 t s
  | .ssparse d c s1 t => Sys2Proof.Machine.execSsparse d c s1 t s
  | .mvwait c s1 => Sys2Proof.Machine.execMvwait c s1 s
  | .mvid d c => Sys2Proof.Machine.execMvid d c s
  | .transferComplete => Sys2Proof.Machine.execTransferComplete s
  | .mvringSlotFree => Sys2Proof.Machine.execMvringSlotFree s
  | .ecall => Sys2Proof.Machine.execEcall s
  | .ebreak => Sys2Proof.Machine.execEbreak s
  | .xret => Sys2Proof.Machine.execXret s
  | .wfm => Sys2Proof.Machine.execWfm s
  | .fenceI => Sys2Proof.Machine.execFenceI s
  | .srd d r => Sys2Proof.Machine.execSrd d r s
  | .swr d s1 r => Sys2Proof.Machine.execSwr d s1 r s
  | .sset d s1 r => Sys2Proof.Machine.execSset d s1 r s
  | .sclr d s1 r => Sys2Proof.Machine.execSclr d s1 r s
  | .tlbinv s1 t => Sys2Proof.Machine.execTlbinv s1 t s
  | .dtwr s1 t => Sys2Proof.Machine.execDtwr s1 t s
  | .dtrd s1 t => Sys2Proof.Machine.execDtrd s1 t s
  | .wake s1 => Sys2Proof.Machine.execWake s1 s
  | .mbind s1 c => Sys2Proof.Machine.execMbind s1 c s
  | .chsw s1 f => Sys2Proof.Machine.execChsw s1 f s
  | .pshare d s1 t => Sys2Proof.Machine.execPshare d s1 t s
  | .systemRegisterWrite => Sys2Proof.Machine.execSystemRegisterWrite s
  | .sramcfgWrite => Sys2Proof.Machine.execSramcfgWrite s
  | .splitTakesEffect => Sys2Proof.Machine.execSplitTakesEffect s
  | .partitionRegisterWrite => Sys2Proof.Machine.execPartitionRegisterWrite s
  | .chainStopMessage => Sys2Proof.Machine.execChainStopMessage s
  | .asyncTrap => Sys2Proof.Machine.execAsyncTrap s
  | .timer => Sys2Proof.Machine.execTimer s
  | .managementNotice => Sys2Proof.Machine.execManagementNotice s
  | .waitLimit => Sys2Proof.Machine.execWaitLimit s
  | .resultUsable => Sys2Proof.Machine.execResultUsable s
  | .pageWalk => Sys2Proof.Machine.execPageWalk s
  | .secondStageResume => Sys2Proof.Machine.execSecondStageResume s
  | .secondStageHoldTimeout => Sys2Proof.Machine.execSecondStageHoldTimeout s
  | .launch => Sys2Proof.Machine.execLaunch s
  | .hopArrival => Sys2Proof.Machine.execHopArrival s
  | .dequePop => Sys2Proof.Machine.execDequePop s
  | .steal => Sys2Proof.Machine.execSteal s
  | .messageArrival => Sys2Proof.Machine.execMessageArrival s
  | .messageDelivery => Sys2Proof.Machine.execMessageDelivery s
  | .wakeMessage => Sys2Proof.Machine.execWakeMessage s
  | .halt => Sys2Proof.Machine.execHalt s
  | .slotResume => Sys2Proof.Machine.execSlotResume s
  | .stopRequest => Sys2Proof.Machine.execStopRequest s
  | .convert => Sys2Proof.Machine.execConvert s
  | .shootdown => Sys2Proof.Machine.execShootdown s
  | .shootdownAck => Sys2Proof.Machine.execShootdownAck s
  | .rds => Sys2Proof.Machine.execRds s
  | .rdx => Sys2Proof.Machine.execRdx s
  | .upg => Sys2Proof.Machine.execUpg s
  | .wb => Sys2Proof.Machine.execWb s
  | .forward => Sys2Proof.Machine.execForward s
  | .ownerAnswer => Sys2Proof.Machine.execOwnerAnswer s
  | .invalidation => Sys2Proof.Machine.execInvalidation s
  | .invalidationAck => Sys2Proof.Machine.execInvalidationAck s
  | .grant => Sys2Proof.Machine.execGrant s
  | .discoveryAnswer => Sys2Proof.Machine.execDiscoveryAnswer s
  | .directoryDrop => Sys2Proof.Machine.execDirectoryDrop s
  | .lineEviction => Sys2Proof.Machine.execLineEviction s
  | .powerGate => Sys2Proof.Machine.execPowerGate s
  | .answerTimeout => Sys2Proof.Machine.execAnswerTimeout s
  | .coreDeclaredDead => Sys2Proof.Machine.execCoreDeclaredDead s
  | .deadCoreRecord => Sys2Proof.Machine.execDeadCoreRecord s
  | .commit => Sys2Proof.Machine.execCommit s
  | .saveCore => Sys2Proof.Machine.execSaveCore s
  | .restoreCore => Sys2Proof.Machine.execRestoreCore s
  | .clearForwarding => Sys2Proof.Machine.execClearForwarding s
  | .freeze => Sys2Proof.Machine.execFreeze s
  | .resume => Sys2Proof.Machine.execResume s
  | .tenantDeadline => Sys2Proof.Machine.execTenantDeadline s
  | .budgetExhausted => Sys2Proof.Machine.execBudgetExhausted s
  | .slotHandover => Sys2Proof.Machine.execSlotHandover s
  | .forwardingExpiry => Sys2Proof.Machine.execForwardingExpiry s
  | .hostBatchTimeout => Sys2Proof.Machine.execHostBatchTimeout s
  | .oneSidedRead => Sys2Proof.Machine.execOneSidedRead s
  | .oneSidedWrite => Sys2Proof.Machine.execOneSidedWrite s
  | .remoteAtomic => Sys2Proof.Machine.execRemoteAtomic s
  | .fabricReply => Sys2Proof.Machine.execFabricReply s
  | .fabricResendTimeout => Sys2Proof.Machine.execFabricResendTimeout s
  | .packetUndeliverable => Sys2Proof.Machine.execPacketUndeliverable s
  | .linkStateChange => Sys2Proof.Machine.execLinkStateChange s
  | .powerOn => Sys2Proof.Machine.execPowerOn s
  | .attestation => Sys2Proof.Machine.execAttestation s
  | .sensorRead => Sys2Proof.Machine.execSensorRead s
  | .logRead => Sys2Proof.Machine.execLogRead s
  | .timeExchange => Sys2Proof.Machine.execTimeExchange s
  | .commitUpdate => Sys2Proof.Machine.execCommitUpdate s
  | .sensorAboveLimit => Sys2Proof.Machine.execSensorAboveLimit s
  | .discoveryProbe => Sys2Proof.Machine.execDiscoveryProbe s
  | .neighbourQueueArrival => Sys2Proof.Machine.execNeighbourQueueArrival s
  | .linkLevelRetry => Sys2Proof.Machine.execLinkLevelRetry s
  | .packetAcknowledgement => Sys2Proof.Machine.execPacketAcknowledgement s
  | .powerUpComplete => Sys2Proof.Machine.execPowerUpComplete s
  | .illegalInstruction => Sys2Proof.Machine.execIllegalInstruction s
  | .instructionFetchFault => Sys2Proof.Machine.execInstructionFetchFault s

end Sys2Proof.Machine
end

