-- ==== Sys2Proof/Machine/Internal.lean ====
section
/-!
DEFINITION. The moves that the state enables of itself (DESIGN CHOICE, log 1): each is an event of the opcode table with its operands.
-/
namespace Sys2Proof.Machine

/-- An event, if its condition holds. -/
def given (b : Bool) (k : Instr) (a : EventArgs) : List Event := if b then [{ kind := k, args := a }] else []

/-! Engines of a core. -/

/-- The repetition buffer issues (R176). -/
def State.bufferMoves (s : State) (c : CoreId) : List Event :=
  let q := s.core c
  match q.rep.holder with
  | some k => given (s.bufferRuns c k && q.rep.next.isSome) .bufferIssue { core := c }
  | none => []

/-- A slot that has asked for it joins its run-ahead (R105). -/
def State.joinMoves (s : State) (c : CoreId) : List Event :=
  match (s.core c).ahead with
  | some a =>
    given (!(s.core c).rep.heldBy a.slot .running && (s.slot c a.slot).wait = .engine .join && (s.slot c a.slot).cause.isNone) .runaheadJoin { core := c }
  | none => []

/-- Channels move on (R218, R223). -/
def State.channelMoves (s : State) (c : CoreId) : List Event :=
  ([0, 1, 2, 3] : List (BitVec 2)).flatMap fun ch =>
    given (s.channelReady c ch) .transferComplete { core := c, ch := ch } ++ given (s.ringSlotWanted c ch) .mvringSlotFree { core := c, ch := ch }

/-! Work (R90). -/

/-- Idle slots take the first source of work there is. -/
def State.workMoves (s : State) (c : CoreId) : List Event :=
  let own (r : Continuation) : Bool := s.serves c r.tenant
  given ((s.foragerWork c).isSome && ((s.slot c forager).state ≠ .idle || s.isFree c forager)) .launch { core := c, slot := forager } ++
  (if (s.freeSlots c).isEmpty || s.gangNeeds c then []
   else
     match s.oldestWork c with
     | some m =>
       (match m.body with
        | .plain => given true .launch { core := c }
        | .hop _ _ => given true .hopArrival { core := c }
        | .stage _ _ => given true .stageStart { core := c })
     | none =>
       if s.workWaits c then []
       else if someOf own (s.core c).deque then given true .dequePop { core := c }
       else given ((s.victim c).isSome && !s.stealing c) .steal { core := c })

/-! Slots. -/

/-- What can happen to one slot: a hand-over, which one in the rotation makes at its issue turn, a context to take, a delivery, the end of a hold
(R269). -/
def State.slotMoves (s : State) (c : CoreId) (k : SlotId) : List Event :=
  let t := s.slot c k
  let a : EventArgs := { core := c, slot := k }
  let hands : List Event :=
    match s.schedulerOf (s.core c).pbase with
    | some d => given (s.handingOver c k && s.handoverReady d c k) .slotHandover a
    | none => []
  if s.leaving c k then (if s.eligibleSlot c k then [] else hands)
  else
    hands ++ given (s.lateReady c k) .slotHandover a ++
    given (match t.deliverAt with | some d => d ≤ s.now | none => false) .messageDelivery a ++
    (match t.wait with
     | .secondStage gpa _ => given (t.state = .memwait && stageTwoValid (s.stageTwo t.tenant gpa)) .secondStageResume a
     | .region r => given (!s.moveUnderWay t.tenant r) .heldKeyedRequest a
     | _ => [])

/-! Cores. -/

/-- What a powered core's units can do. -/
def State.coreMoves (s : State) (c : CoreId) : List Event :=
  let q := s.core c
  let a : EventArgs := { core := c }
  s.bufferMoves c ++ s.joinMoves c ++ given (!q.matrix.isEmpty) .matrixOpComplete a ++ s.channelMoves c ++ s.workMoves c ++
  given (q.splitWanted.isSome && !s.holdsSpad c && q.deque.isEmpty) .splitTakesEffect a ++
  given (!q.partWrites.isEmpty && q.unworked) .partitionRegisterWrite a ++ allSlots.flatMap fun k => s.slotMoves c k

/-- A gated core with a slot in `run` powers up; a dead core only hands its slots over (R304, R319). -/
def State.movesOfCore (s : State) (c : CoreId) : List Event :=
  let q := s.core c
  if q.dead then allSlots.flatMap fun k => given (s.handingOver c k) .slotHandover { core := c, slot := k }
  else
    match q.power with
    | .on => s.coreMoves c
    | .gated => given (someOf (fun t : Slot => t.state = .run && !t.stopped) q.slots.toList || someOf (fun k => s.handingOver c k) allSlots) .powerUpComplete { core := c }
    | .waking => []

/-! The package. -/

/-- The head gang of a die can take slots, or begin (R99). -/
def State.gangMoves (s : State) (d : BitVec 2) : List Event :=
  match s.headGang d with
  | none => []
  | some g =>
    let g' := s.collect g
    let full := allOf (fun c => (g'.heldAt c).length = g'.spc) g'.cores
    let barred := allOf (fun b => s.barriersHeld b + g'.nbar ≤ 16) (combsOf g'.cores)
    given (g'.reserved.length ≠ g.reserved.length || (full && barred)) .gangAdmission { die := d }

/-- The scheduler of a partition has a request before it, or another tenant to serve (R266, R268). -/
def State.schedulerMoves (s : State) (p : CoreId) : List Event :=
  let d := s.scheduler p
  (match s.requestAt p with
   | some w => given (s.requestReady p) (requestRow (requestOp w)) { core := p }
   | none => []) ++
  given (s.wantsSwitch d) .budgetExhausted { core := p }

/-- The management controller answers the request it has held longest (R282, R284). -/
def State.managementMoves (s : State) : List Event :=
  match s.controller.heldRequests with
  | [] => []
  | e :: _ => given (s.controller.started || s.controller.noBank) e.kind { e.args with num := 1 }

/-- First cores of the partitions. -/
def State.partitions (s : State) : List CoreId := keepIf (fun c => (s.core c).plen ≠ 0 && (s.core c).pbase = c) s.coreIds

/-- The events that the state of the package enables. -/
def State.internal (s : State) : List Event :=
  s.coreIds.flatMap (fun c => s.movesOfCore c) ++
  ([0, 1, 2, 3] : List (BitVec 2)).flatMap (fun d => s.gangMoves d) ++
  s.chains.flatMap (fun h => given (s.stopReady h) .chainStopMessage { chain := h.ref }) ++
  s.partitions.flatMap (fun p => s.schedulerMoves p) ++ s.managementMoves ++
  (match s.controller.deadRecords with
   | (c, _, _) :: _ => given (!s.memFull (deadArea (s.core c).pbase)) .deadCoreRecord {}
   | [] => [])

end Sys2Proof.Machine
end

