-- ==== Sys2Proof/Machine/Step.lean ====
section
/-!
DEFINITION. One step: some time passes, and one event comes about or one slot issues (DESIGN CHOICE, log 1). The state's `schedule` says which.
-/
namespace Sys2Proof.Machine

/-- An event comes about, for the slot its operands name: a packet is received first, and may have to wait for a walk (R66, R348). -/
def State.runEvent (s : State) (e : Event) : Host.Outcome State Fault Refusal :=
  let (s, own) := { s with args := e.args, cur := { core := e.args.core, slot := e.args.slot } }.receive e.kind
  if own then exec e.kind s else .next s

/-- The acting slot has its issue turn: what stands before an instruction, the fault of an earlier access first (R269, R293, R294, R331,
R344), else the instruction at its pc. -/
def State.issueNow (s : State) : Host.Outcome State Fault Refusal :=
  let c := s.cur.core
  let k := s.cur.slot
  let t := s.slot c k
  if t.ie && !t.pendTimer && s.timerDue c k then exec .timer { s with args := { core := c, slot := k } }
  else if (s.asyncCause c k).isSome && !t.reported then exec .asyncTrap s
  else
    match t.cause with
    | some (cause, xval) => .next (s.takeCause c k cause xval)
    | none =>
      match s.fetch c k with
      | .error _ => exec .instructionFetchFault s
      | .ok (w, s') =>
        match decode w with
        | .ok i => exec i (s'.takeVector c i)
        | .error _ => exec .illegalInstruction { s' with args := { insn := w } }

/-- The issue turn of a core, if it has one: the issue of the slot found, or its hand-over where its tenant is being switched out (R91, R269). -/
def State.turnOf (s : State) (c : CoreId) : List Move :=
  match s.searchOf c with
  | (_, some k) => [if s.leaving c k then .internal { kind := .slotHandover, args := { core := c, slot := k } } else .issue c k]
  | _ => s.issueOf c

/-- Every move that can be taken: issues of the cores in order, events that are due, events that the state enables; a wait limit whose
cycle has passed comes before them all (R322). -/
def State.moves (s : State) : List Move :=
  if s.limitsDue then s.dueEvents.map (fun p => Move.due p.1 p.2)
  else s.coreIds.flatMap s.turnOf ++ s.dueEvents.map (fun p => Move.due p.1 p.2) ++ s.internal.map Move.internal

/-- A core makes the search of its cycle: the slot it finds has its issue turn, unless it only passes slots over (R91). A turn that led the
slot into a wait before its instruction issued took no issue of the core. -/
def State.issueOrPass (s : State) (c : CoreId) (k : SlotId) : Host.Outcome State Fault Refusal :=
  if (s.slot c k).yielded then .next ((s.passOver c (s.searchOf c).1).searched c)
  else if (s.slot c k).ie && !(s.slot c k).pendTimer && s.timerDue c k then { s with cur := { core := c, slot := k } }.issueNow
  else
    match (s.takeTurn c k).issueNow with
    | .next t => .next (if (t.slot c k).wait.beforeIssue then t.turnBack s c k else t)
    | o => o

/-- A move is made. -/
def State.make (s : State) : Move → Host.Outcome State Fault Refusal
  | .issue c k => s.issueOrPass c k
  | .due i e => State.runEvent { s with agenda := s.agenda.eraseIdx i } e
  | .internal e => s.runEvent e

/-- A tick: an event from outside, or the move it picks; with no move, time alone passes. A wait limit whose cycle has passed comes before
an event from outside, which is then the next tick's (R322). -/
def State.tick (s : State) (t : Tick) : Host.Outcome State Fault Refusal :=
  let s := s.pass t.cycles
  match t.input, s.limitsDue with
  | some e, false => s.runEvent e
  | input, _ =>
    let s := if input.isSome then { s with schedule := { t with cycles := 0 } :: s.schedule } else s
    match s.moves[t.pick % s.moves.length]? with
    | some m => s.make m
    | none => .next s

/-- The tick that the schedule gives; past its end the moves take turns. -/
def State.nextTick (s : State) : Tick × List Tick :=
  match s.schedule with
  | t :: r => (t, r)
  | [] => ({ pick := s.now, cycles := 1, input := none }, [])

/-- One step of the package. -/
def step (s : State) : Host.Outcome State Fault Refusal :=
  let (t, r) := s.nextTick
  State.tick { s.wake.serveDue with schedule := r } t

/-- The state with an instruction stored where slot 0 of core 0 fetches next, and that slot chosen to issue next: it runs at H,
where the pc is a machine-physical address, with nothing pending that comes before an instruction. It stands for a load (DESIGN CHOICE, log 6). -/
def State.withFetchWord (s : State) (_nbits w : Nat) : State :=
  let t := s.slot 0 0
  let pc := t.pc &&& 0x1FFFFFFFFC#64
  let s := s.memWrite pc.toNat 4 w
  let s := { s with memBad := NatSet.set (pc.toNat / 8 * 8) false s.memBad, schedule := [{ pick := 0, cycles := 2, input := none }] }
  let s := s.setSlot 0 0 { t with
    pc := pc, priv := .h, light := false, ie := false, form := none, cause := none, earlier := none, state := .run, wait := .none, stopped := false,
    yielded := false, flights := [], issueAt := 0 }
  s.modCore 0 fun q => { q with icache := [], lastIssued := forager, nextIssue := 0, power := .on, dead := false }

end Sys2Proof.Machine
end

