-- ==== Sys2Proof/Rounding.lean ====
section
/-!
DEFINITION. What it is to round a real number to a number format or to an integer (R19 to R23): the terms in which statements relate float
arithmetic to exact values, said without the arithmetic of the model.
-/
namespace Sys2Proof.Machine

/-- A finite value stands for a real number (R19). -/
def FloatVal.denotes (a : FloatVal) (x : ℝ) : Prop :=
  match a with
  | .fin neg mant exp => x = (if neg then -1 else 1) * mant * (2 : ℝ) ^ exp
  | _ => False

/-- `x` rounds to `v` in a mode, among the points of a grid of which some are even (R21). -/
def roundsTo (grid even : ℝ → Prop) (rm : RMode) (x v : ℝ) : Prop :=
  grid v ∧
  match rm with
  | .rne => ∀ y, grid y → |v - x| ≤ |y - x| ∧ (|y - x| = |v - x| → y ≠ v → even v)
  | .rz => |v| ≤ |x| ∧ 0 ≤ v * x ∧ ∀ y, grid y → |y| ≤ |x| → 0 ≤ y * x → |y| ≤ |v|
  | .rd => v ≤ x ∧ ∀ y, grid y → y ≤ x → y ≤ v
  | .ru => x ≤ v ∧ ∀ y, grid y → x ≤ y → v ≤ y
  | .rna => ∀ y, grid y → |v - x| ≤ |y - x| ∧ (|y - x| = |v - x| → |y| ≤ |v|)

/-- The numbers of a precision whose significand is a multiple of `step` and whose exponent, that of its last bit, is allowed. -/
def floatGrid (m : Nat) (step : ℤ) (allowed : ℤ → Prop) (y : ℝ) : Prop :=
  ∃ n k : ℤ, step ∣ n ∧ |n| < 2 ^ (m + 1) ∧ allowed k ∧ y = n * (2 : ℝ) ^ k

/-- The result of an operation is the exact value `x` rounded once to the format, with the flags of, uf and nx of R22: with the exponent
unbounded above the rounded value is `v`, which is the result if it is below the format's range and else overflows; underflow is a value that
is tiny after rounding, with the exponent unbounded below too, and inexact. -/
def FloatFmt.isRounded (f : FloatFmt) (rm : RMode) (x : ℝ) (r : Nat × FFlags) : Prop :=
  r.1 < 2 ^ f.width ∧ ∃ v,
    roundsTo (floatGrid f.m 1 fun k => 1 - f.bias - f.m ≤ k) (floatGrid f.m 2 fun k => 1 - f.bias - f.m ≤ k) rm x v ∧
    (|v| < (2 : ℝ) ^ (f.bias + 1) → (f.decode r.1).denotes v ∧ (x ≠ 0 → ((f.decode r.1).neg = true ↔ x < 0)) ∧
      (v = x → r.2 = noFlags) ∧
      (v ≠ x → ∃ u, roundsTo (floatGrid f.m 1 fun _ => True) (floatGrid f.m 2 fun _ => True) rm x u ∧
        (|u| < (2 : ℝ) ^ (1 - f.bias) → r.2 = ufFlag ||| nxFlag) ∧ ((2 : ℝ) ^ (1 - f.bias) ≤ |u| → r.2 = nxFlag))) ∧
    ((2 : ℝ) ^ (f.bias + 1) ≤ |v| → r.2 = ofFlag ||| nxFlag ∧ ∃ neg : Bool, (neg = true ↔ x < 0) ∧
      r.1 = if rm = .rz ∨ (rm = .rd ∧ neg = false) ∨ (rm = .ru ∧ neg = true) then f.maxFinite neg else f.inf neg)

end Sys2Proof.Machine
end

