-- ==== Sys2Proof/Safety.lean ====
section
/-!
DEFINITION. What counts as a safe step and a safe run, and the terms in which statements speak of what an instruction leaves alone.
-/
namespace Sys2Proof.Machine

/-- The step neither faults nor is refused. -/
def State.safe (s : State) : Prop := ∃ t, step s = .next t

/-- `n` steps from `s` all answer a next state. -/
def State.safeFor : Nat → State → Prop
  | 0, _ => True
  | n + 1, s => ∃ t, step s = .next t ∧ State.safeFor n t

/-- The memory of the package is in canonical form. -/
def State.memoryCanonical (s : State) : Prop := Cells.wf s.mem = true

/-- The acting slot, `n` bytes further on. -/
def State.past (s : State) (n : Word) : State := s.modMe fun t => { t with pc := t.pc + n }

/-- The acting slot with a register written, at the next instruction. -/
def State.wrote (s : State) (d : BitVec 5) (w : Word) : State := (s.modMe fun t => t.setX d w).past 4

/-- The acting slot's general registers but those listed. -/
def State.keepsX (d : List (BitVec 5)) (s t : State) : Prop := ∀ r, r ∉ d → t.me.getX r = s.me.getX r

/-- The acting slot's vector registers but those listed. -/
def State.keepsV (d : List (BitVec 4)) (s t : State) : Prop := ∀ r, r ∉ d → t.me.getV r = s.me.getV r

/-- Its mask registers but those listed. -/
def State.keepsM (d : List (BitVec 3)) (s t : State) : Prop := ∀ r, r ∉ d → t.me.getM r = s.me.getM r

/-- Its label registers but those listed. -/
def State.keepsL (d : List (BitVec 3)) (s t : State) : Prop := ∀ r, r ∉ d → t.me.getL r = s.me.getL r

/-- Its level and status, exception registers and special registers but `fflags`. -/
def State.keepsSpecial (s t : State) : Prop :=
  t.me.mfmt = s.me.mfmt ∧ t.me.priv = s.me.priv ∧ t.me.ie = s.me.ie ∧ t.me.light = s.me.light ∧
  t.me.bankS = s.me.bankS ∧ t.me.bankH = s.me.bankH ∧ t.me.tcmp = s.me.tcmp ∧ t.me.fewlim = s.me.fewlim ∧
  t.me.xlroot = s.me.xlroot ∧ t.me.objbase = s.me.objbase ∧ t.me.objlim = s.me.objlim ∧ t.me.cmtab = s.me.cmtab ∧
  t.me.frbase = s.me.frbase ∧ t.me.tenant = s.me.tenant ∧ t.me.inc = s.me.inc

/-- Accumulators, rings and mailboxes of the acting slot's core. -/
def State.keepsEngines (s t : State) : Prop :=
  t.myCore.za = s.myCore.za ∧ t.myCore.rings = s.myCore.rings ∧ t.myCore.mail = s.myCore.mail

/-- Every byte of memory and of every scratchpad but the `n` at a place, and every mailbox word. -/
def State.keepsBytesBut (l : WordLoc) (n : Nat) (s t : State) : Prop :=
  (∀ m, (∀ i, i < n → m ≠ l.plus i) → t.readLoc m 1 = s.readLoc m 1) ∧ ∀ c, (t.core c).mail = (s.core c).mail

/-- Every byte of memory and of every scratchpad, and every mailbox word. -/
def State.keepsBytes (s t : State) : Prop :=
  (∀ m, t.readLoc m 1 = s.readLoc m 1) ∧ ∀ c, (t.core c).mail = (s.core c).mail

/-- Nothing but the acting slot's core differs. -/
def State.coreOnly (s t : State) : Prop := t = s.setMyCore t.myCore

/-- The acting slot in `engwait`, at its pc. -/
def State.waits (s : State) (e : EngineWait) : State := s.modMe fun t => t.park .engwait (.engine e)

/-- The acting slot stopped by a cause (R293). -/
def State.traps (s : State) (cause : BitVec 8) (xval : Word) : State := s.takeTrap s.cur.core s.cur.slot cause xval

/-- The full/empty bit of every word but that of a place. -/
def State.keepsFullBut (l : WordLoc) (s t : State) : Prop := ∀ m, (∀ i, i < 8 → m ≠ l.plus i) → t.isFull m = s.isFull m

/-- The full/empty bit of every word. -/
def State.keepsFull (s t : State) : Prop := ∀ m, t.isFull m = s.isFull m

/-- Every slot but the acting one. -/
def State.keepsOthers (s t : State) : Prop := ∀ c k, ¬(c = s.cur.core ∧ k = s.cur.slot) → t.slot c k = s.slot c k

/-- Every slot but the acting one, but for its results in flight: an event at a line's home can end another core's wait for it. -/
def State.keepsOthersWork (s t : State) : Prop :=
  ∀ c k, ¬(c = s.cur.core ∧ k = s.cur.slot) → { t.slot c k with flights := [] } = { s.slot c k with flights := [] }

/-- Every slot, but for its results in flight. -/
def State.keepsWork (s t : State) : Prop := ∀ c k, { t.slot c k with flights := [] } = { s.slot c k with flights := [] }

/-- Special registers but `fflags`, the core's engines, and every other slot. -/
def State.keepsMore (s t : State) : Prop := s.keepsSpecial t ∧ s.keepsEngines t ∧ s.keepsOthers t

/-- Everything of `keepsMore`, and the acting slot's vector, mask and label registers and flags. -/
def State.keepsRest (s t : State) : Prop :=
  s.keepsV [] t ∧ s.keepsM [] t ∧ s.keepsL [] t ∧ t.me.fflags = s.me.fflags ∧ s.keepsMore t

/-! Keyed regions whose pools lie steadily in memory. -/

/-- An address of a region's index pool or record pool. -/
def Region.inPools (r : Region) (va : Nat) : Prop := (r.ixbase ≤ va ∧ va < r.ixlim) ∨ (r.rpbase ≤ va ∧ va < r.rplim)

/-- `t` differs from `s`, in what an access to the pools goes by, in the bytes of the pools alone. -/
def Region.poolsOnly (r : Region) (place : Nat → Nat) (s t : State) : Prop :=
  t.s2base = s.s2base ∧ t.s2copies = s.s2copies ∧ t.memBad = s.memBad ∧
  ∀ b, (∀ va, r.inPools va → place va ≠ b) → Cells.read b t.mem = Cells.read b s.mem

/-- Every address of the pools, which are apart, leads to a place of its own whatever the pools hold, page by page; no word of them is
uncorrectable, nobody waits for a word, and no shard has failed, is being made or is being summed. -/
def Region.steady (r : Region) (place : Nat → Nat) (s : State) : Prop :=
  (r.rplim ≤ r.ixbase ∨ r.ixlim ≤ r.rpbase) ∧ r.ixbase % 512 = 0 ∧
  (∀ va w, r.inPools va → r.inPools w → place va = place w → va = w) ∧
  (∀ va, r.inPools va → r.inPools (va + 1) → (va + 1) % 16384 ≠ 0 → place (va + 1) = place va + 1) ∧
  (∀ va, r.inPools va → s.memIsBad (place va) = false ∧ place va % 8 = va % 8) ∧
  (∀ t, r.poolsOnly place s t → ∀ va acc, r.inPools va → acc = .load ∨ acc = .store →
    ∃ l, poolPlace r va acc t = .ok l t ∧ l.place = .mem (place va)) ∧
  s.waiters = [] ∧ s.failedShards = [] ∧ s.prefixJobs = [] ∧ s.reductions = []

/-- The shard's tree is one leaf with the entries `l`. -/
def Region.isLeaf (r : Region) (s : State) (e : Shard) (l : List (Nat × Nat)) : Prop :=
  e.count = l.length ∧ e.root ≠ noNode ∧ r.nodeAddr e.root + 512 ≤ r.ixlim ∧
  ∃ d, readNode r e e.root s = .ok d s ∧ d.level = 0 ∧ d.entries = l ∧ d.next = noNode

/-- A steady region of one shard whose tree is one leaf with room, with a control block. -/
def Region.oneLeaf (r : Region) (place : Nat → Nat) (s : State) (c : ControlBlock) (e : Shard) (l : List (Nat × Nat)) : Prop :=
  r.steady place s ∧ readControl r s = .ok c s ∧ shardsOf r c s = .ok [e] s ∧ r.isLeaf s e l ∧ l.length < 20

/-- The record at a path, if the region has the node; no answer where the lookup stops. -/
def Region.recordAt (r : Region) (s : State) (path : Nat) : Option (Option Nat) :=
  match resolvePath r path s with | .ok f _ => some (f.map fun q => q.2) | .error _ _ => none

/-- The element at a key, if the region holds one; no answer where the lookup stops. -/
def Region.elemAt (r : Region) (s : State) (key : Nat) : Option (Option Nat) :=
  match loadElem r key s with | .ok v _ => some v | .error _ _ => none

/-- `keepsMore`, but for the results in flight of other slots. -/
def State.keepsMoreWork (s t : State) : Prop := s.keepsSpecial t ∧ s.keepsEngines t ∧ s.keepsOthersWork t

/-- `keepsRest`, but for the results in flight of other slots. -/
def State.keepsRestWork (s t : State) : Prop :=
  s.keepsV [] t ∧ s.keepsM [] t ∧ s.keepsL [] t ∧ t.me.fflags = s.me.fflags ∧ s.keepsMoreWork t

end Sys2Proof.Machine
end

