-- ==== Sys2Proof/Certificates/Slice0/Obligations.lean ====
section
/-!
DEFINITION. Statements about the machine, from the numbered rules of the spec. `s.issues i` says that nothing stands before the
instruction's own effect: no join (R105), no cause of steps 3 and 4 of R331, no recording (R175), no pending register it names (R133).
-/

set_option linter.unusedVariables false

open Sys2Proof Sys2Proof.Machine

/-- The words of the tables of worked encodings of the chapters 06 to 12 decode to the instructions the tables write beside them. -/
def Obligations.WordsDecode : Prop :=
  ∀ p ∈ ([
    (0x06505008, .addi 5 5 8), (0x02665000, .ld 6 5 0), (0x15F2537C, .bne 0xFFC 5 6), (0x1876940A, .amoadd 7 .die 9 8 .acq),
    (0x30300299, .mmac 1 2 3 .bf16 true true false), (0x080C0000, .or 0 0 0), (0x06526800, .clz 5 6), (0x067A7403, .srai 7 7 3),
    (0x1AA0B008, .ldfe 10 11 8), (0x1A06B600, .sdef 0 11 12), (0x241021B0, .vadd 1 2 3 .f32 0), (0x2044A2A1, .vldx 4 10 5 .i32 1),
    (0x27241130, .vcmp .lt 2 1 2 .f32 0), (0x265C11B0, .vredsum 5 1 .f32 0), (0x266E7310, .vcvt 6 7 .f32 .mk8 .rne 0),
    (0x266E7B10, .vcvt 6 7 .f32 .mk8 .rz 0), (0x30734008, .mmacs 0 0 1 20 .mk8 true true true), (0x3008A401, .mstz 10 2 .bf16),
    (0x300C0600, .macq 3), (0x3240C000, .rgset 4 12), (0x325A1000, .rgrd 5 1), (0x320C6202, .rpgo 6 4), (0x320C6203, .rpgoa 6 4),
    (0x40501105, .lbanc 5 1 2), (0x4030110A, .lbmov 3 1 2), (0x4050108F, .lbxg 5 1 1), (0x40622010, .lbld 6 2 16),
    (0x40042398, .lbst 24 2 7), (0x42502005, .kfirst 5 2 5), (0x42AA4009, .kredF64 10 4 9), (0x4410A007, .skey 1 10 7),
    (0x44960007, .sadd 9 0 7), (0x18AAC5CE, .amocas 10 .sys 12 11 .ar), (0x16000005, .fence .sys), (0x16020003, .fenceK .die),
    (0x50008003, .spawn 8 3), (0x50020000, .sret), (0x50048000, .sync 8), (0x5008A000, .hop 10), (0x500A1005, .hopk 1 5),
    (0x500E0002, .gbar 2), (0x500E0010, .stop), (0x52526607, .msendnb 5 6 12 7), (0x52040000, .mdone), (0x52062381, .mbput 2 7 1),
    (0x5400A581, .chgo 10 11 .folded), (0x54520005, .get 5 5), (0x540A0000, .chend), (0x6050A580, .mvcp 5 0 10 11),
    (0x60045010, .mvwait 2 5), (0x60640011, .mvid 6 2), (0x700AA003, .wake 10), (0x700AA580, .tlbinv 10 11),
    (0x705AA586, .pshare 5 10 11), (0x700AA085, .chsw 10 .folded), (0x7052000A, .srd 5 0x00A), (0x70046008, .swr 0 6 0x008)] : List (BitVec 32 × Instr)),
    (decode p.1).toOption = some p.2

/-- For every well-formed instruction, with every operand at every value its encoding admits, the decoder reads from its word that instruction: no bit of an encoding is dropped. -/
def Obligations.EncodeThenDecode : Prop :=
  ∀ (i : Instr) (w : BitVec 32), i.WellFormed → encode i = some w → (decode w).toOption = some i

/-- If a word decodes to an instruction, that instruction is well formed and the word is its encoding: no two words are the same instruction, so every field that a form does not use is 0 in every word that is one. -/
def Obligations.DecodeThenEncode : Prop :=
  ∀ (w : BitVec 32) (i : Instr), (decode w).toOption = some i → i.WellFormed ∧ encode i = some w

/-- A word whose op is none of the assigned major opcodes is not an instruction; the all-zero and the all-ones word are two such words. -/
def Obligations.NoInstructionWords : Prop :=
  (∀ w : BitVec 32,
    (w.extractLsb' 25 7).toNat ∉ [0x01, 0x02, 0x03, 0x04, 0x05, 0x06, 0x07, 0x08, 0x09, 0x0A, 0x0B, 0x0C, 0x0D, 0x10, 0x11, 0x12, 0x13,
      0x18, 0x19, 0x20, 0x21, 0x22, 0x28, 0x29, 0x2A, 0x30, 0x38] → (decode w).toOption = none) ∧
  (decode 0#32).toOption = none ∧ (decode (BitVec.allOnes 32)).toOption = none

/-- When a slot has its issue turn with no cause waiting and no asynchronous cause or timer due, and the word fetched at its pc decodes to an instruction, the step is exec of that instruction in the state with the word in the instruction cache and, for a vector form, the vector unit taken for the cycle. A step whose schedule picks that slot is that issue after time has passed and waits that are over have ended; a search that only passes slots over clears their marks instead (R91), and a turn whose instruction has to wait before it issues leaves the core its search of the cycle (R91). -/
def Obligations.IssueRunsDecoded : Prop :=
  (∀ (s s' : State) (w : BitVec 32) (i : Instr),
    s.me.cause = none → (s.me.ie && !s.me.pendTimer && s.timerDue s.cur.core s.cur.slot) = false →
    s.asyncCause s.cur.core s.cur.slot = none → s.fetch s.cur.core s.cur.slot = .ok (w, s') → (decode w).toOption = some i →
    s.issueNow = exec i (s'.takeVector s.cur.core i)) ∧
  (∀ (s : State) (n : Nat) (r : List Tick) (c : CoreId) (k : SlotId),
    let z := ({ s.wake.serveDue with schedule := r } : State).pass 2
    s.schedule = { pick := n, cycles := 2, input := none } :: r → z.moves[n % z.moves.length]? = some (.issue c k) →
    ((z.slot c k).yielded = true → step s = .next ((z.passOver c (z.searchOf c).1).searched c)) ∧
    ((z.slot c k).yielded = false → ((z.slot c k).ie && !(z.slot c k).pendTimer && z.timerDue c k) = false →
      step s = match (z.takeTurn c k).issueNow with
        | .next t => .next (if (t.slot c k).wait.beforeIssue then t.turnBack z c k else t)
        | o => o))

/-- A slot with its issue turn, with no cause waiting and no asynchronous cause or timer due, whose fetched word decodes to nothing takes trap 0x02 with the word in xval [63:32] and subcode 1; if the slot has drained and is not in run-ahead, it is at the handler of the level of R294 with its pc saved. -/
def Obligations.IllegalWordTraps : Prop :=
  ∀ (s s' : State) (w : BitVec 32),
    s.me.cause = none → (s.me.ie && !s.me.pendTimer && s.timerDue s.cur.core s.cur.slot) = false →
    s.asyncCause s.cur.core s.cur.slot = none → s.fetch s.cur.core s.cur.slot = .ok (w, s') → (decode w).toOption = none →
    s.me.drained = true → s.aheadOf s.cur.core s.cur.slot = none →
    ∃ t, s.issueNow = .next t ∧ exec .illegalInstruction { s' with args := { insn := w } } = .next t ∧
      t.me.pc = (s.me.bank (if s.me.priv = .h then .h else .s)).xvec &&& ~~~3#64 ∧
      t.me.priv = (if s.me.priv = .h then .h else .s) ∧
      (t.me.bank t.me.priv).xpc = s.me.pc ∧ (t.me.bank t.me.priv).xval = w ++ 1#32 ∧
      (t.me.bank t.me.priv).xcause.toNat % 2 ^ 8 = 2

/-- After reset every byte of memory reads 0 and every word is full, every slot of every core is idle at incarnation 0 with its banked registers 0 and tcmp all ones, every mailbox word is 0 and empty, every ring is unset, every channel counter is 0 and plen is 0. (Registers that the spec gives no reset value hold 0, m0 all ones: a choice of the model, log 3, DESIGN CHOICE; they are not part of this statement.) -/
def Obligations.ResetState : Prop :=
  let s := State.reset
  (∀ a, Cells.read a s.mem = 0) ∧ (∀ l : WordLoc, (∀ c b w, l ≠ .mail c b w) → s.isFull l = true ∧ s.readLoc l 8 = 0) ∧
  (∀ c k, (s.slot c k).state = .idle ∧ (s.slot c k).inc = 0 ∧ (s.slot c k).bankS = Bank.zero ∧ (s.slot c k).bankH = Bank.zero ∧
    (s.slot c k).tcmp = BitVec.allOnes 64) ∧
  (∀ c b w, s.isFull (.mail c b w) = false ∧ s.readLoc (.mail c b w) 8 = 0) ∧
  (∀ c, (s.core c).plen = 0 ∧ (∀ i : Fin 8, (s.core c).rings[i] = none) ∧ (∀ i : Fin 4, (s.core c).channels[i].next = 0))

/-- From every state whose memory lists rising addresses and no cell that holds the value of an unlisted byte, a step gives such a state. -/
def Obligations.StepKeepsMemoryForm : Prop :=
  ∀ s t : State, s.memoryCanonical → step s = .next t → t.memoryCanonical

/-- The memory of the state after reset is in canonical form. -/
def Obligations.ResetMemoryForm : Prop :=
  State.reset.memoryCanonical

/-- Each register-immediate form that issues writes the value its row gives to its destination and goes on to the next instruction; nothing else changes. -/
def Obligations.ImmediateForms : Prop :=
  ∀ (s : State) (d a : BitVec 5) (i : BitVec 12) (h : BitVec 6),
    (s.issues (.addi d a i) → exec (.addi d a i) s = .next (s.wrote d (s.me.getX a + i.signExtend 64))) ∧
    (s.issues (.slti d a i) → exec (.slti d a i) s = .next (s.wrote d (if (s.me.getX a).toInt < i.toInt then 1 else 0))) ∧
    (s.issues (.sltni d a i) →
      exec (.sltni d a i) s = .next (s.wrote d (if (s.me.getX a).toNat < (i.signExtend 64).toNat then 1 else 0))) ∧
    (s.issues (.xori d a i) → exec (.xori d a i) s = .next (s.wrote d (s.me.getX a ^^^ i.signExtend 64))) ∧
    (s.issues (.ori d a i) → exec (.ori d a i) s = .next (s.wrote d (s.me.getX a ||| i.signExtend 64))) ∧
    (s.issues (.andi d a i) → exec (.andi d a i) s = .next (s.wrote d (s.me.getX a &&& i.signExtend 64))) ∧
    (s.issues (.slli d a h) → exec (.slli d a h) s = .next (s.wrote d (BitVec.ofNat 64 ((s.me.getX a).toNat * 2 ^ h.toNat)))) ∧
    (s.issues (.srli d a h) → exec (.srli d a h) s = .next (s.wrote d (BitVec.ofNat 64 ((s.me.getX a).toNat / 2 ^ h.toNat)))) ∧
    (s.issues (.srai d a h) → exec (.srai d a h) s = .next (s.wrote d (BitVec.ofInt 64 ((s.me.getX a).toInt / 2 ^ h.toNat))))

/-- Each unary form that issues writes the value its row gives to its destination and goes on to the next instruction: leading and trailing zeros are counted to the first 1 bit, 64 when there is none; bits are counted; words extended; bytes reversed. -/
def Obligations.UnaryForms : Prop :=
  ∀ (s : State) (d a : BitVec 5),
    let x := s.me.getX a
    (s.issues (.clz d a) → ∃ n ≤ 64, exec (.clz d a) s = .next (s.wrote d (BitVec.ofNat 64 n)) ∧
      (∀ j < n, x.getLsbD (63 - j) = false) ∧ (n < 64 → x.getLsbD (63 - n) = true)) ∧
    (s.issues (.ctz d a) → ∃ n ≤ 64, exec (.ctz d a) s = .next (s.wrote d (BitVec.ofNat 64 n)) ∧
      (∀ j < n, x.getLsbD j = false) ∧ (n < 64 → x.getLsbD n = true)) ∧
    (s.issues (.popc d a) →
      exec (.popc d a) s = .next (s.wrote d (BitVec.ofNat 64 ((List.range 64).countP fun j => x.getLsbD j)))) ∧
    (s.issues (.sextw d a) → exec (.sextw d a) s = .next (s.wrote d ((x.setWidth 32).signExtend 64))) ∧
    (s.issues (.zextw d a) → exec (.zextw d a) s = .next (s.wrote d ((x.setWidth 32).setWidth 64))) ∧
    (s.issues (.rev8 d a) → ∃ w : Word, exec (.rev8 d a) s = .next (s.wrote d w) ∧
      ∀ k < 8, w.extractLsb' (8 * k) 8 = x.extractLsb' (56 - 8 * k) 8)

/-- Each register-register form that issues writes the value its row gives to its destination and goes on to the next instruction; nothing else changes. -/
def Obligations.RegisterForms : Prop :=
  ∀ (s : State) (d a b : BitVec 5),
    let x := s.me.getX a
    let y := s.me.getX b
    let sh := y.toNat % 64
    (s.issues (.add d a b) → exec (.add d a b) s = .next (s.wrote d (x + y))) ∧
    (s.issues (.sub d a b) → exec (.sub d a b) s = .next (s.wrote d (x - y))) ∧
    (s.issues (.sll d a b) → exec (.sll d a b) s = .next (s.wrote d (BitVec.ofNat 64 (x.toNat * 2 ^ sh)))) ∧
    (s.issues (.slt d a b) → exec (.slt d a b) s = .next (s.wrote d (if x.toInt < y.toInt then 1 else 0))) ∧
    (s.issues (.sltn d a b) → exec (.sltn d a b) s = .next (s.wrote d (if x.toNat < y.toNat then 1 else 0))) ∧
    (s.issues (.xor d a b) → exec (.xor d a b) s = .next (s.wrote d (x ^^^ y))) ∧
    (s.issues (.srl d a b) → exec (.srl d a b) s = .next (s.wrote d (BitVec.ofNat 64 (x.toNat / 2 ^ sh)))) ∧
    (s.issues (.sra d a b) → exec (.sra d a b) s = .next (s.wrote d (BitVec.ofInt 64 (x.toInt / 2 ^ sh)))) ∧
    (s.issues (.or d a b) → exec (.or d a b) s = .next (s.wrote d (x ||| y))) ∧
    (s.issues (.and d a b) → exec (.and d a b) s = .next (s.wrote d (x &&& y))) ∧
    (s.issues (.orn d a b) → exec (.orn d a b) s = .next (s.wrote d (x ||| ~~~y))) ∧
    (s.issues (.andn d a b) → exec (.andn d a b) s = .next (s.wrote d (x &&& ~~~y))) ∧
    (s.issues (.min d a b) → exec (.min d a b) s = .next (s.wrote d (BitVec.ofInt 64 (Min.min x.toInt y.toInt)))) ∧
    (s.issues (.max d a b) → exec (.max d a b) s = .next (s.wrote d (BitVec.ofInt 64 (Max.max x.toInt y.toInt)))) ∧
    (s.issues (.minn d a b) → exec (.minn d a b) s = .next (s.wrote d (BitVec.ofNat 64 (Min.min x.toNat y.toNat)))) ∧
    (s.issues (.maxn d a b) → exec (.maxn d a b) s = .next (s.wrote d (BitVec.ofNat 64 (Max.max x.toNat y.toNat))))

/-- Each multiply and divide form that issues writes the value of R141 and R18, at its edges too, to its destination, which is pending from then on, and goes on to the next instruction; every other register, flag and byte is as before. -/
def Obligations.MultiplyDivide : Prop :=
  ∀ (s : State) (d a b : BitVec 5) (i : Instr) (w : Word),
    (i, w) ∈ [
      (Instr.mul d a b, BitVec.ofInt 64 ((s.me.getX a).toInt * (s.me.getX b).toInt)),
      (.mulh d a b, BitVec.ofInt 64 ((s.me.getX a).toInt * (s.me.getX b).toInt / 2 ^ 64)),
      (.mulhn d a b, BitVec.ofNat 64 ((s.me.getX a).toNat * (s.me.getX b).toNat / 2 ^ 64)),
      (.div d a b, if s.me.getX b = 0 then BitVec.allOnes 64 else BitVec.ofInt 64 ((s.me.getX a).toInt.tdiv (s.me.getX b).toInt)),
      (.divn d a b, if s.me.getX b = 0 then BitVec.allOnes 64 else BitVec.ofNat 64 ((s.me.getX a).toNat / (s.me.getX b).toNat)),
      (.rem d a b, if s.me.getX b = 0 then s.me.getX a else BitVec.ofInt 64 ((s.me.getX a).toInt.tmod (s.me.getX b).toInt)),
      (.remn d a b, if s.me.getX b = 0 then s.me.getX a else BitVec.ofNat 64 ((s.me.getX a).toNat % (s.me.getX b).toNat))] →
    s.issues i →
    ∃ t, exec i s = .next t ∧ t.me.getX d = (if d = 0 then 0 else w) ∧ (d ≠ 0 → t.me.isPending (.x d) = true) ∧
      t.me.pc = s.me.pc + 4 ∧ s.keepsX [d] t ∧ s.keepsRest t ∧ s.keepsBytes t ∧ s.keepsFull t

/-- lhi writes the sign-extended upper immediate, apc adds it to the pc with its low 12 bits cleared, and both go on to the next instruction; jal and jalr write the address after them and go to their target, which jalr computes from the register as it was and clears of its low 2 bits (R109, R140, R142). -/
def Obligations.UpperAndJumps : Prop :=
  ∀ (s : State) (d a : BitVec 5) (i : BitVec 20) (j : BitVec 12),
    (s.issues (.lhi d i) → exec (.lhi d i) s = .next (s.wrote d ((i ++ 0#12).signExtend 64))) ∧
    (s.issues (.apc d i) →
      exec (.apc d i) s = .next (s.wrote d (BitVec.ofNat 64 (s.me.pc.toNat / 4096 * 4096) + (i ++ 0#12).signExtend 64))) ∧
    (s.issues (.jal d i) →
      exec (.jal d i) s = .next (s.modMe fun t => { t.setX d (t.pc + 4) with pc := t.pc + 4 * i.signExtend 64 })) ∧
    (s.issues (.jalr d a j) →
      exec (.jalr d a j) s = .next (s.modMe fun t =>
        { t.setX d (t.pc + 4) with pc := (t.getX a + j.signExtend 64) &&& ~~~3#64 }))

/-- A branch that issues goes to pc + 4 times its offset when its condition holds and to the next instruction otherwise, and changes nothing else. -/
def Obligations.Branches : Prop :=
  ∀ (s : State) (i : BitVec 12) (a b : BitVec 5) (br : Instr) (cond : Prop),
    (br, cond) ∈ [
      (Instr.beq i a b, s.me.getX a = s.me.getX b), (.bne i a b, s.me.getX a ≠ s.me.getX b),
      (.blt i a b, (s.me.getX a).toInt < (s.me.getX b).toInt), (.bge i a b, ¬(s.me.getX a).toInt < (s.me.getX b).toInt),
      (.bltn i a b, (s.me.getX a).toNat < (s.me.getX b).toNat), (.bgen i a b, ¬(s.me.getX a).toNat < (s.me.getX b).toNat)] →
    s.issues br →
    (cond → exec br s = .next (s.past (4 * i.signExtend 64))) ∧ (¬cond → exec br s = .next (s.past 4))

/-- A register-immediate, unary, register-register, upper, jump or branch form that issues changes no general register but its destination (a branch none, and x0 never), no other register, flag, special or exception register, no accumulator, ring or mailbox, no other slot, no byte of memory or scratchpad and no full/empty bit. -/
def Obligations.RegisterFrame : Prop :=
  ∀ (s : State) (d a b : BitVec 5) (i : BitVec 12) (h : BitVec 6) (u : BitVec 20) (f : Instr) (l : List (BitVec 5)),
    (f, l) ∈ [(Instr.addi d a i, [d]), (.slti d a i, [d]), (.sltni d a i, [d]), (.xori d a i, [d]), (.ori d a i, [d]), (.andi d a i, [d]),
      (.slli d a h, [d]), (.srli d a h, [d]), (.srai d a h, [d]), (.clz d a, [d]), (.ctz d a, [d]), (.popc d a, [d]), (.sextw d a, [d]),
      (.zextw d a, [d]), (.rev8 d a, [d]), (.add d a b, [d]), (.sub d a b, [d]), (.sll d a b, [d]), (.slt d a b, [d]), (.sltn d a b, [d]),
      (.xor d a b, [d]), (.srl d a b, [d]), (.sra d a b, [d]), (.or d a b, [d]), (.and d a b, [d]), (.orn d a b, [d]), (.andn d a b, [d]),
      (.min d a b, [d]), (.max d a b, [d]), (.minn d a b, [d]), (.maxn d a b, [d]), (.lhi d u, [d]), (.apc d u, [d]), (.jal d u, [d]),
      (.jalr d a i, [d]), (.beq i a b, []), (.bne i a b, []), (.blt i a b, []), (.bge i a b, []), (.bltn i a b, []), (.bgen i a b, [])] →
    s.issues f →
    ∃ t, exec f s = .next t ∧ s.keepsX l t ∧ t.me.getX 0 = 0 ∧ s.keepsRest t ∧ s.keepsBytes t ∧ s.keepsFull t

/-- A load that issues with room, outside a run-ahead, at an address that passes the checks of R306 and holds no uncorrectable word, writes the bytes there, sign- or zero-extended as its row says, to its destination, and goes on to the next instruction; every other register, every byte and every full/empty bit is as before. -/
def Obligations.Loads : Prop :=
  ∀ (s : State) (d a : BitVec 5) (i : BitVec 12) (f : Instr) (n : Nat) (ext : Nat → Word) (l : Loc),
    (f, n, ext) ∈ [
      (Instr.lb d a i, 1, fun v => (BitVec.ofNat 8 v).signExtend 64), (.lh d a i, 2, fun v => (BitVec.ofNat 16 v).signExtend 64),
      (.lw d a i, 4, fun v => (BitVec.ofNat 32 v).signExtend 64), (.ld d a i, 8, BitVec.ofNat 64), (.lbz d a i, 1, BitVec.ofNat 64),
      (.lhz d a i, 2, BitVec.ofNat 64), (.lwz d a i, 4, BitVec.ofNat 64), (.ldAq d a i, 8, BitVec.ofNat 64)] →
    s.issues f → s.me.outstanding < 128 → s.aheadOf s.cur.core s.cur.slot = none →
    (s.locate s.cur.core s.me (s.me.getX a + i.signExtend 64) n .load).toOption = some l →
    s.badWord l.place (s.me.getX a + i.signExtend 64) n = none →
    ∃ t, exec f s = .next t ∧ t.me.getX d = (if d = 0 then 0 else ext (s.readLoc l.place n)) ∧ t.me.pc = s.me.pc + 4 ∧
      s.keepsX [d] t ∧ s.keepsRest t ∧ s.keepsBytes t ∧ s.keepsFull t

/-- A store that issues with room, outside a run-ahead, at an address that passes the checks of R306, puts the low bytes of its operand there and goes on to the next instruction; every register, every other byte, and the full/empty bit of every word that is not repaired, is as before. -/
def Obligations.Stores : Prop :=
  ∀ (s : State) (a b : BitVec 5) (i : BitVec 12) (f : Instr) (n : Nat) (l : Loc),
    (f, n) ∈ [(Instr.sb i a b, 1), (.sh i a b, 2), (.sw i a b, 4), (.sd i a b, 8), (.sdRl i a b, 8)] →
    s.issues f → s.me.outstanding < 128 → s.aheadOf s.cur.core s.cur.slot = none →
    (s.locate s.cur.core s.me (s.me.getX a + i.signExtend 64) n .store).toOption = some l →
    (n < 8 → s.badWord l.place (s.me.getX a + i.signExtend 64) n = none) →
    ∃ t, exec f s = .next t ∧ t.readLoc l.place n = (s.me.getX b).toNat % 2 ^ (8 * n) ∧ t.me.pc = s.me.pc + 4 ∧
      s.keepsX [] t ∧ s.keepsRest t ∧ s.keepsBytesBut l.place n t ∧ (∀ m, s.isBad m = false → t.isFull m = s.isFull m)

/-- An atomic that issues with room at a word that passes the checks of R306 as a read-modify-write and is not uncorrectable writes the old word to its destination and the new value of its row to the word (amocas writes only if the old word is the value its destination register held), and goes on; every other register, byte and every full/empty bit is as before (R195). -/
def Obligations.Atomics : Prop :=
  ∀ (s : State) (d a b : BitVec 5) (c : Scope) (o : Order) (f : Instr) (new : Word → Word) (l : Loc),
    let y := s.me.getX b
    let e := s.me.getX d
    (f, new) ∈ [
      (Instr.amoswap d c a b o, fun _ => y), (.amoadd d c a b o, fun x => x + y), (.amoand d c a b o, fun x => x &&& y),
      (.amoor d c a b o, fun x => x ||| y), (.amoxor d c a b o, fun x => x ^^^ y),
      (.amomin d c a b o, fun x => BitVec.ofInt 64 (Min.min x.toInt y.toInt)),
      (.amomax d c a b o, fun x => BitVec.ofInt 64 (Max.max x.toInt y.toInt)),
      (.amominn d c a b o, fun x => BitVec.ofNat 64 (Min.min x.toNat y.toNat)),
      (.amomaxn d c a b o, fun x => BitVec.ofNat 64 (Max.max x.toNat y.toNat)),
      (.amocas d c a b o, fun x => if x = e then y else x)] →
    s.issues f → s.me.outstanding < 128 →
    (s.locate s.cur.core s.me (s.me.getX a) 8 .rmw).toOption = some l → s.badWord l.place (s.me.getX a) 8 = none →
    ∃ t, exec f s = .next t ∧ t.me.getX d = (if d = 0 then 0 else BitVec.ofNat 64 (s.readLoc l.place 8)) ∧
      t.readLoc l.place 8 = (new (BitVec.ofNat 64 (s.readLoc l.place 8))).toNat ∧ t.me.pc = s.me.pc + 4 ∧
      s.keepsX [d] t ∧ s.keepsRestWork t ∧ s.keepsBytesBut l.place 8 t ∧ s.keepsFull t

/-- A fence of either kind, or fence.i, that issues with an earlier access not yet performed waits in memwait at its pc; with none, whatever other results are pending, it goes on to the next instruction and changes nothing else, but that fence.i empties the instruction cache of the core (R87, R198, R199, R226). -/
def Obligations.Fences : Prop :=
  ∀ (s : State) (c : Scope) (f : Instr),
    f ∈ [Instr.fence c, .fenceK c, .fenceI] → s.issues f →
    (s.me.outstanding ≠ 0 → exec f s = .next (s.modMe fun t => t.park .memwait .accesses)) ∧
    (s.me.outstanding = 0 → ∃ t, exec f s = .next t ∧ t.me.pc = s.me.pc + 4 ∧ t.me.state = s.me.state ∧ t.me.flights = s.me.flights ∧
      s.keepsX [] t ∧ s.keepsRest t ∧ s.keepsBytes t ∧ s.keepsFull t ∧ (f = .fenceI → t.myCore.icache = []))

/-- On a word that passes the checks of R306, is not uncorrectable and that no one waits for: ldfe, ldff, ldfx and fstate that go on write the value of their row to their destination and leave the bit as their row says; fempty empties it; sdef on an empty word and sdff write the operand and leave it full; ldfe and ldff on an empty word and sdef on a full one wait in fewait at their pc, last in the list (R146). -/
def Obligations.FullEmptyReads : Prop :=
  ∀ (s : State) (d a b : BitVec 5) (i : BitVec 12) (l : Loc) (f : Instr),
    let va := s.me.getX a + i.signExtend 64
    let w : Word := BitVec.ofNat 64 (s.readLoc l.place 8)
    let full := s.isFull l.place
    s.issues f → s.me.outstanding < 128 → (s.locate s.cur.core s.me va 8 .rmw).toOption = some l →
    s.badWord l.place va 8 = none → (∀ q ∈ s.waiters, q.loc ≠ l.point) → s.me.chain = none →
    (∀ v after, (f, v, after) ∈ [(Instr.ldfx d a i, w, false), (.fstate d a i, (if full then 1 else 0), full)] ++
        (if full then [(Instr.ldfe d a i, w, false), (.ldff d a i, w, true)] else []) →
      ∃ t, exec f s = .next t ∧ t.me.getX d = (if d = 0 then 0 else v) ∧ t.isFull l.place = after ∧ t.me.pc = s.me.pc + 4 ∧
        s.keepsX [d] t ∧ s.keepsRestWork t ∧ s.keepsBytes t ∧ s.keepsFullBut l.place t) ∧
    (f = .fempty a i → ∃ t, exec f s = .next t ∧ t.isFull l.place = false ∧ t.me.pc = s.me.pc + 4 ∧
        s.keepsX [] t ∧ s.keepsRestWork t ∧ s.keepsBytes t ∧ s.keepsFullBut l.place t) ∧
    (f = .sdff i a b ∨ (f = .sdef i a b ∧ full = false) → ∃ t, exec f s = .next t ∧ t.readLoc l.place 8 = (s.me.getX b).toNat ∧
        t.isFull l.place = true ∧ t.me.pc = s.me.pc + 4 ∧ s.keepsX [] t ∧ s.keepsRestWork t ∧ s.keepsBytesBut l.place 8 t ∧
        s.keepsFullBut l.place t) ∧
    (∀ kind, (f, kind) ∈ (if full then [(Instr.sdef i a b, WaitKind.sdef)] else [(Instr.ldfe d a i, .ldfe), (.ldff d a i, .ldff)]) →
      ∃ t q, exec f s = .next t ∧ t.me.state = .fewait ∧ t.me.pc = s.me.pc ∧ t.waiters = s.waiters ++ [q] ∧ q.loc = l.point ∧
        q.kind = kind ∧ q.agent = .slot s.cur.core s.cur.slot ∧ s.keepsX [] t ∧ s.keepsRestWork t ∧ s.keepsBytes t ∧ s.keepsFull t)

/-- When a word is filled while one ldff and then one ldfe of two slots wait on it and nobody else does, at cores that have power and hold their tenants' state, both slots run again at their next instruction with the value in their destinations and the word is empty, so that a third waiter, behind them, stays (R145). -/
def Obligations.FillServes : Prop :=
  ∀ (s : State) (l : Loc) (v : Word) (p q r : Waiter) (c c' : CoreId) (k k' : SlotId),
    s.waiters = [p, q, r] → p.loc = l.point → q.loc = l.point → r.loc = l.point → p.kind = .ldff → q.kind = .ldfe → r.kind = .ldff →
    p.agent = .slot c k → q.agent = .slot c' k' → (c ≠ c' ∨ k ≠ k') →
    s.parked = [] → (∀ d o, l.place = .spad d o → o + 8 ≤ (s.core d).dequeBase) →
    (∀ d ∈ [c, c'], (s.core d).power = .on ∧ s.heldLeft d = false) → (s.slot c k).state = .fewait → (s.slot c' k').state = .fewait →
    s.standing p = true → s.standing q = true →
    let t := s.fillWord l v
    t.waiters = [r] ∧ t.isFull l.place = false ∧ t.readLoc l.place 8 = v.toNat ∧
    (t.slot c k).state = .run ∧ (t.slot c k).pc = (s.slot c k).pc + 4 ∧ (t.slot c k).getX p.dest = (if p.dest = 0 then 0 else v) ∧
    (t.slot c' k').state = .run ∧ (t.slot c' k').pc = (s.slot c' k').pc + 4 ∧ (t.slot c' k').getX q.dest = (if q.dest = 0 then 0 else v)

/-- The mk8 codes that R25 selects decode as it says, the examples of R26 encode as it says, with their flags, and an xd8 code whose bits [7:6] are not 0 decodes to the canonical NaN. -/
def Obligations.DecimalCodes : Prop :=
  mk8Decode 0x03 = 0x4E6E6B28 ∧ mk8Decode 0x20 = 0x3A83126F ∧ mk8Decode 0x30 = 0x41200000 ∧ mk8Decode 0x40 = 0x3DCCCCCD ∧
  mk8Decode 0x60 = 0x3F800000 ∧ mk8Decode 0x7F = 0x411B8000 ∧ mk8Decode 0xE0 = 0xBF800000 ∧ mk8Decode 0x80 = 0x7FC00000 ∧
  mk8Encode false 1140625 1000000 = (0x60, nxFlag) ∧ mk8Encode false 9859375 1000000 = (0x30, nxFlag) ∧
  mk8Encode false 55 (10 ^ 11) = (0x02, nxFlag) ∧ mk8Encode false (55 * 10 ^ 7) 1 = (0x07, nxFlag) ∧
  mk8Encode false 5 (10 ^ 12) = (0x00, ufFlag ||| nxFlag) ∧ mk8Encode true (10 ^ 9 + 1) 1 = (0x83, ofFlag ||| nxFlag) ∧
  ∀ c, 64 ≤ c → xd8Decode c = f32.nan

/-- Encoding the exact value of an mk8 code that is neither zero nor NaR gives that code back and raises no flag, so no two codes stand for one value (R24 with R26), and its magnitude lies from 10^-11 to 10^9 (R24). -/
def Obligations.DecimalCodesReturn : Prop :=
  ∀ c : Nat, 0 < c → c < 256 → c ≠ 0x80 → mk8Encode (decide (c ≥ 128)) (mk8Magnitude c).1 (mk8Magnitude c).2 = (c, noFlags) ∧
    (mk8Magnitude c).2 ≤ 10 ^ 11 * (mk8Magnitude c).1 ∧ (mk8Magnitude c).1 ≤ 10 ^ 9 * (mk8Magnitude c).2

/-- In a vector arithmetic or shift form of integer type that issues, each active lane of the destination is the value of R156 or R157 at the lane width, signed for i types and unsigned for z types (vsra shifts in the top bit whatever the type), and each inactive lane is as before. -/
def Obligations.VectorIntegerLanes : Prop :=
  ∀ (s : State) (d a b : BitVec 4) (t : VType) (m : BitVec 3) (f : Instr) (g : Int → Int → Int → Nat → Nat → Int),
    let w := (VType.laneWidth t)
    let val (v : VecWord) (i : Nat) : Int := if t.isSigned then (BitVec.ofNat w (laneOf t v i)).toInt else laneOf t v i
    (f, g) ∈ ([
      (Instr.vadd d a b t m, fun x y _ _ _ => x + y), (.vsub d a b t m, fun x y _ _ _ => x - y), (.vmul d a b t m, fun x y _ _ _ => x * y),
      (.vdiv d a b t m, fun x y _ _ _ => if y = 0 then -1 else x.tdiv y),
      (.vmin d a b t m, fun x y _ _ _ => Min.min x y), (.vmax d a b t m, fun x y _ _ _ => Max.max x y),
      (.vfma d a b t m, fun x y c _ _ => x * y + c), (.vfms d a b t m, fun x y c _ _ => c - x * y),
      (.vabs d a t m, fun x _ _ _ _ => x.natAbs), (.vneg d a t m, fun x _ _ _ _ => -x),
      (.vshl d a b t m, fun _ _ _ p q => (p * 2 ^ (q % w) : Nat)), (.vshr d a b t m, fun _ _ _ p q => (p / 2 ^ (q % w) : Nat)),
      (.vsra d a b t m, fun _ _ _ p q => (BitVec.ofNat w p).toInt / 2 ^ (q % w))] : List (Instr × (Int → Int → Int → Nat → Nat → Int))) →
    t.isInteger → s.issues f →
    ∃ u, exec f s = .next u ∧ u.me.fflags = s.me.fflags ∧ u.me.pc = s.me.pc + 4 ∧ ∀ i < (VType.lanes t),
      (laneOf t (u.me.getV d) i : Int) =
        if (s.me.getM m).getLsbD i then
          g (val (s.me.getV a) i) (val (s.me.getV b) i) (val (s.me.getV d) i) (laneOf t (s.me.getV a) i) (laneOf t (s.me.getV b) i) % 2 ^ w
        else laneOf t (s.me.getV d) i

/-- In a vector arithmetic form of float type, or a vcvt, that issues, each active lane of the destination is its lane operation on the operands (for vcvt 0 at and above the smaller lane count), each inactive lane is as before, and fflags gains exactly the flags of the active lanes (R156, R162, R22). Each lane operation on finite operands is the exact real sum, difference, product, fused product and sum, quotient, root or converted value, rounded once, to nearest even or for a conversion by its mode, with the flags of R22 (isRounded says this without the arithmetic of the model); a zero has the sign of its operands; an operand that is a NaN gives the canonical NaN, with nv if one signals, and so do the invalid operations; a conversion to an integer saturates with nv alone (that it raises no nx is the model's reading, log 9, DEDUCED), and comparison and minimum follow the order of the exact values (R19 to R23). -/
def Obligations.VectorFloatLanes : Prop :=
  (∀ (s : State) (d a b : BitVec 4) (t src : VType) (rm : RMode) (m : BitVec 3) (f : Instr) (g : Nat → Nat × FFlags),
    let F := (VType.floatFmt t)
    let x := operandOf t (s.me.getV a)
    let y := operandOf t (s.me.getV b)
    let z := operandOf t (s.me.getV d)
    ((f, g) ∈ [
      (Instr.vadd d a b t m, fun i => F.add (x i) (y i)), (.vsub d a b t m, fun i => F.sub (x i) (y i)),
      (.vmul d a b t m, fun i => F.mul (x i) (y i)), (.vdiv d a b t m, fun i => F.div (x i) (y i)),
      (.vmin d a b t m, fun i => F.minMax false (x i) (y i)), (.vmax d a b t m, fun i => F.minMax true (x i) (y i)),
      (.vfma d a b t m, fun i => F.fma (x i) (y i) (z i) false), (.vfms d a b t m, fun i => F.fma (x i) (y i) (z i) true),
      (.vabs d a t m, fun i => (x i % 2 ^ (F.width - 1), 0)), (.vneg d a t m, fun i => (x i ^^^ 2 ^ (F.width - 1), 0)),
      (.vsqrt d a t m, fun i => F.sqrt (x i))] ∧ t.isFloat ∨
     f = .vcvt d a src t rm m ∧
      g = fun i => if i < (VType.lanes src) then convertLane src t rm (operandOf src (s.me.getV a) i) else (0, 0)) →
    s.issues f →
    ∃ u, exec f s = .next u ∧ u.me.pc = s.me.pc + 4 ∧
      (∀ i < (VType.lanes t), laneOf t (u.me.getV d) i =
        if (s.me.getM m).getLsbD i then (g i).1 % 2 ^ (VType.laneWidth t) else laneOf t (s.me.getV d) i) ∧
      ∀ q : Nat, u.me.fflags.getLsbD q =
        (s.me.fflags.getLsbD q || (List.range (VType.lanes t)).any fun i => (s.me.getM m).getLsbD i && (g i).2.getLsbD q)) ∧
  (∀ (F : FloatFmt) (p q r : Nat) (np : Bool) (x y z : ℝ), F ∈ [f32, bf16, f64] → p < 2 ^ F.width → q < 2 ^ F.width → r < 2 ^ F.width →
    let a := F.decode p
    let b := F.decode q
    let c := F.decode r
    let pneg := (a.neg != b.neg) != np
    (a.denotes x → b.denotes y →
      F.isRounded .rne (x + y) (F.add p q) ∧ F.isRounded .rne (x - y) (F.sub p q) ∧ F.isRounded .rne (x * y) (F.mul p q) ∧
      (x + y = 0 → F.add p q = (F.zero (a.neg && b.neg), 0)) ∧ (x * y = 0 → F.mul p q = (F.zero (a.neg != b.neg), 0)) ∧
      (y ≠ 0 → F.isRounded .rne (x / y) (F.div p q) ∧ (x = 0 → F.div p q = (F.zero (a.neg != b.neg), 0))) ∧
      (x ≠ 0 → y = 0 → F.div p q = (F.inf (a.neg != b.neg), dzFlag)) ∧ (x = 0 → y = 0 → F.div p q = (F.nan, nvFlag)) ∧
      (c.denotes z → F.isRounded .rne ((if np then -(x * y) else x * y) + z) (F.fma p q r np) ∧
        ((if np then -(x * y) else x * y) + z = 0 → F.fma p q r np = (F.zero (pneg && c.neg), 0))) ∧
      (x < y → F.minMax false p q = (p, 0) ∧ F.minMax true p q = (q, 0) ∧ F.minMax false q p = (p, 0) ∧ F.minMax true q p = (q, 0)) ∧
      ((F.compare .eq p q).1 = true ↔ x = y) ∧ ((F.compare .ne p q).1 = true ↔ x ≠ y) ∧ ((F.compare .lt p q).1 = true ↔ x < y) ∧
      ((F.compare .le p q).1 = true ↔ x ≤ y)) ∧
    (a.denotes x → (0 ≤ x → F.isRounded .rne (Real.sqrt x) (F.sqrt p)) ∧ (x < 0 → F.sqrt p = (F.nan, nvFlag)) ∧
      (x = 0 → F.sqrt p = (F.zero a.neg, 0))) ∧
    (a.isNan || b.isNan → ∀ o ∈ [F.add p q, F.mul p q, F.div p q, F.fma p q r np],
      o.1 = F.nan ∧ (c.isNan = false ∨ o ≠ F.fma p q r np → o.2 = if a.isSignalling || b.isSignalling then nvFlag else 0)) ∧
    (a.isNan → F.sqrt p = (F.nan, if a.isSignalling then nvFlag else 0)) ∧ (c.isNan → (F.fma p q r np).1 = F.nan) ∧
    (∀ g h : Bool, a = .inf g → (b = .inf h → (g ≠ h → F.add p q = (F.nan, nvFlag)) ∧ (g = h → F.add p q = (F.inf g, 0)) ∧
        F.mul p q = (F.inf (g != h), 0) ∧ F.div p q = (F.nan, nvFlag)) ∧
      (b.denotes y → F.add p q = (F.inf g, 0) ∧ F.add q p = (F.inf g, 0) ∧ F.div p q = (F.inf (g != b.neg), 0) ∧
        F.div q p = (F.zero (g != b.neg), 0) ∧ F.mul p q = if b.isZero then (F.nan, nvFlag) else (F.inf (g != b.neg), 0)) ∧
      F.sqrt p = if g then (F.nan, nvFlag) else (F.inf false, 0))) ∧
  (∀ (src t : VType) (rm : RMode) (p : Nat) (x : ℝ), t.isFloat → (src.isFloat ∧ ((VType.floatFmt src).decode p).denotes x) ∨
      (src.isInteger ∧ x = (if src.isSigned then (BitVec.ofNat (VType.laneWidth src) p).toInt else (p % 2 ^ VType.laneWidth src : Nat) : ℤ)) →
    (VType.floatFmt t).isRounded rm x (convertLane src t rm p)) ∧
  (∀ (src t : VType) (rm : RMode) (p : Nat) (x : ℝ), src.isFloat → t.isInteger → ((VType.floatFmt src).decode p).denotes x →
    let w := VType.laneWidth t
    let low : ℤ := if t.isSigned then -2 ^ (w - 1) else 0
    let high : ℤ := if t.isSigned then 2 ^ (w - 1) - 1 else 2 ^ w - 1
    ∃ n : ℤ, roundsTo (fun y => ∃ k : ℤ, y = k) (fun y => ∃ k : ℤ, y = 2 * k) rm x n ∧
      (n < low → convertLane src t rm p = ((low % 2 ^ w).toNat, nvFlag)) ∧ (high < n → convertLane src t rm p = ((high % 2 ^ w).toNat, nvFlag)) ∧
      (low ≤ n → n ≤ high → (convertLane src t rm p).1 = (n % 2 ^ w).toNat ∧
        ((n : ℝ) = x → (convertLane src t rm p).2 = 0) ∧ ((n : ℝ) ≠ x → (convertLane src t rm p).2 = nxFlag)))

/-- In a logical, select, permute, slide or broadcast form that issues, each lane that the form writes takes the lane its row names, unchanged (bits [31:16] of a bf16 lane are kept by the logical forms alone), every other lane is as before, and no flag is raised (R157, R159, R161). -/
def Obligations.VectorMoves : Prop :=
  ∀ (s : State) (d a b : BitVec 4) (r : BitVec 5) (t : VType) (m : BitVec 3) (f : Instr) (g : Nat → Nat) (every : Bool),
    let x := operandOf t (s.me.getV a)
    let y := operandOf t (s.me.getV b)
    let k := (s.me.getX r).toInt
    (f, g, every) ∈ [
      (Instr.vand d a b t m, fun i => laneOf t (s.me.getV a) i &&& laneOf t (s.me.getV b) i, false),
      (.vor d a b t m, fun i => laneOf t (s.me.getV a) i ||| laneOf t (s.me.getV b) i, false),
      (.vxor d a b t m, fun i => laneOf t (s.me.getV a) i ^^^ laneOf t (s.me.getV b) i, false),
      (.vsel d a b t m, fun i => if (s.me.getM m).getLsbD i then x i else y i, true),
      (.vperm d a b t m, fun i => x (y i % (VType.lanes t)), false),
      (.vslide d a r t m, fun i => if 0 ≤ (i : Int) - k ∧ (i : Int) - k < (VType.lanes t) then x ((i : Int) - k).toNat else 0, false),
      (.vbcast d r t m, fun _ => (s.me.getX r).toNat % 2 ^ (8 * (VType.elemBytes t)), false)] →
    s.issues f →
    ∃ u, exec f s = .next u ∧ u.me.fflags = s.me.fflags ∧ u.me.pc = s.me.pc + 4 ∧ ∀ i < (VType.lanes t),
      laneOf t (u.me.getV d) i = if every ∨ (s.me.getM m).getLsbD i = true then g i else laneOf t (s.me.getV d) i

/-- A vcmp that issues sets bit i of its mask exactly when lane i is active and its condition holds, every bit at or above the lane count to 0, for integer lanes by the signed or unsigned order of the type; mand, mor and mnot act on all 64 bits; a write to m0 has no effect; of these forms a float vcmp alone raises a flag, nv, for an active lane with a signalling NaN, or with any NaN under .lt and .le (R158, R163, R151). -/
def Obligations.VectorMasks : Prop :=
  ∀ (s : State) (n p q : BitVec 3) (a b : BitVec 4) (t : VType) (m : BitVec 3) (f : Instr) (g : Nat → Bool) (fl : FFlags),
    let w := (VType.laneWidth t)
    let val (v : VecWord) (i : Nat) : Int := if t.isSigned then (BitVec.ofNat w (laneOf t v i)).toInt else laneOf t v i
    let x := val (s.me.getV a)
    let y := val (s.me.getV b)
    let u := operandOf t (s.me.getV a)
    let v := operandOf t (s.me.getV b)
    let act (i : Nat) : Bool := decide (i < (VType.lanes t)) && (s.me.getM m).getLsbD i
    let bad (c : CmpCond) (w : FloatVal) : Bool := if c = .lt ∨ c = .le then w.isNan else w.isSignalling
    ((f, g) ∈ [(Instr.vcmp .eq n a b t m, fun i => act i && decide (x i = y i)), (.vcmp .ne n a b t m, fun i => act i && decide (x i ≠ y i)),
        (.vcmp .lt n a b t m, fun i => act i && decide (x i < y i)), (.vcmp .le n a b t m, fun i => act i && decide (x i ≤ y i))] ∧ t.isInteger ∧ fl = 0 ∨
     (∃ c, f = .vcmp c n a b t m ∧ (g = fun i => act i && ((VType.floatFmt t).compare c (u i) (v i)).1) ∧
        fl = if (List.range (VType.lanes t)).any fun i => act i && (bad c ((VType.floatFmt t).decode (u i)) || bad c ((VType.floatFmt t).decode (v i)))
          then nvFlag else 0) ∧ t.isFloat ∨
     (f, g) ∈ [(Instr.mand n p q, fun i => (s.me.getM p).getLsbD i && (s.me.getM q).getLsbD i),
        (.mor n p q, fun i => (s.me.getM p).getLsbD i || (s.me.getM q).getLsbD i),
        (.mnot n p, fun i => decide (i < 64) && !(s.me.getM p).getLsbD i)] ∧ fl = 0) →
    s.issues f →
    ∃ r, exec f s = .next r ∧ r.me.pc = s.me.pc + 4 ∧ r.me.fflags = s.me.fflags ||| fl ∧ (n = 0 → r.me.getM 0 = BitVec.allOnes 64) ∧
      (n ≠ 0 → ∀ i < 64, (r.me.getM n).getLsbD i = g i)

/-- A reduction that issues writes the fold of its active lanes in increasing lane order: of an integer type the wrapped sum, the greatest or the least value, of a float type the sums each rounded once, with the flags of each, or the greatest or least of the lanes that are no NaN, the canonical NaN if all are, with nv for a signalling one; extended as its type says. vmvx writes lane 0; vpopm the number of 1 bits of all 64 bits of its mask (R160, R161, R163). -/
def Obligations.VectorToGeneral : Prop :=
  ∀ (s : State) (d : BitVec 5) (a : BitVec 4) (t : VType) (m p : BitVec 3) (f : Instr) (r : Word) (fl : FFlags),
    let w := (VType.laneWidth t)
    let val (v : VecWord) (i : Nat) : Int := if t.isSigned then (BitVec.ofNat w (laneOf t v i)).toInt else laneOf t v i
    let act := ((List.range (VType.lanes t)).filter fun i => (s.me.getM m).getLsbD i).map (val (s.me.getV a))
    let least : Int := if t.isSigned then -2 ^ (w - 1) else 0
    let greatest : Int := if t.isSigned then 2 ^ (w - 1) - 1 else 2 ^ w - 1
    let wrap (n : Int) : Int := if t.isSigned then (BitVec.ofInt w n).toInt else n % 2 ^ w
    let F := VType.floatFmt t
    let floats := ((List.range (VType.lanes t)).filter fun i => (s.me.getM m).getLsbD i).map (operandOf t (s.me.getV a))
    let numbers := floats.filter fun v => !(F.decode v).isNan
    let sum : Nat × FFlags := floats.foldl (fun q v => ((F.add q.1 v).1, q.2 ||| (F.add q.1 v).2)) (0, 0)
    let most (up : Bool) : Nat := if floats ≠ [] ∧ numbers = [] then F.nan else numbers.foldl (fun q v => (F.minMax up q v).1) (F.inf up)
    let signal : FFlags := if floats.any fun v => (F.decode v).isSignalling then nvFlag else 0
    ((f, r) ∈ [(Instr.vredsum d a t m, BitVec.ofInt 64 (wrap act.sum)), (.vredmax d a t m, BitVec.ofInt 64 (act.foldl Max.max least)),
        (.vredmin d a t m, BitVec.ofInt 64 (act.foldl Min.min greatest))] ∧ t.isInteger ∧ fl = 0 ∨
     (f, r, fl) ∈ [(Instr.vredsum d a t m, BitVec.ofNat 64 sum.1, sum.2), (.vredmax d a t m, BitVec.ofNat 64 (most true), signal),
        (.vredmin d a t m, BitVec.ofNat 64 (most false), signal)] ∧ t.isFloat ∨
     (f, r) ∈ [(Instr.vmvx d a t, if t.isSigned then BitVec.ofInt 64 (val (s.me.getV a) 0) else BitVec.ofNat 64 (operandOf t (s.me.getV a) 0)),
        (.vpopm d p, BitVec.ofNat 64 ((List.range 64).countP fun i => (s.me.getM p).getLsbD i))] ∧ fl = 0) →
    s.issues f →
    ∃ u, exec f s = .next u ∧ u.me.fflags = s.me.fflags ||| fl ∧ u.me.getX d = (if d = 0 then 0 else r) ∧ u.me.pc = s.me.pc + 4

/-- A vector or mask form that reads registers alone and issues changes no vector, mask or general register but its destination, no label register, no special or exception register but fflags (which only a form of float type, or vcvt, can change), no accumulator, ring or mailbox, no other slot, no byte of memory or scratchpad and no full/empty bit. -/
def Obligations.VectorFrame : Prop :=
  ∀ (s : State) (d a b : BitVec 4) (r : BitVec 5) (t src : VType) (rm : RMode) (n p q m : BitVec 3) (c : CmpCond) (f : Instr)
      (vs : List (BitVec 4)) (ms : List (BitVec 3)) (xs : List (BitVec 5)) (flags : Bool),
    (f, vs, ms, xs, flags) ∈ [
      (Instr.vadd d a b t m, [d], [], [], t.isFloat), (.vsub d a b t m, [d], [], [], t.isFloat), (.vmul d a b t m, [d], [], [], t.isFloat),
      (.vdiv d a b t m, [d], [], [], t.isFloat), (.vmin d a b t m, [d], [], [], t.isFloat), (.vmax d a b t m, [d], [], [], t.isFloat),
      (.vfma d a b t m, [d], [], [], t.isFloat), (.vfms d a b t m, [d], [], [], t.isFloat), (.vsqrt d a t m, [d], [], [], t.isFloat),
      (.vcvt d a src t rm m, [d], [], [], true), (.vabs d a t m, [d], [], [], false), (.vneg d a t m, [d], [], [], false),
      (.vand d a b t m, [d], [], [], false), (.vor d a b t m, [d], [], [], false), (.vxor d a b t m, [d], [], [], false),
      (.vshl d a b t m, [d], [], [], false), (.vshr d a b t m, [d], [], [], false), (.vsra d a b t m, [d], [], [], false),
      (.vsel d a b t m, [d], [], [], false), (.vperm d a b t m, [d], [], [], false), (.vslide d a r t m, [d], [], [], false),
      (.vbcast d r t m, [d], [], [], false), (.vcmp c n a b t m, [], [n], [], t.isFloat), (.mand n p q, [], [n], [], false),
      (.mor n p q, [], [n], [], false), (.mnot n p, [], [n], [], false), (.vpopm r p, [], [], [r], false), (.vmvx r a t, [], [], [r], false),
      (.vredsum r a t m, [], [], [r], t.isFloat), (.vredmax r a t m, [], [], [r], t.isFloat), (.vredmin r a t m, [], [], [r], t.isFloat)] →
    s.issues f →
    ∃ u, exec f s = .next u ∧ s.keepsV vs u ∧ s.keepsM ms u ∧ s.keepsX xs u ∧ s.keepsL [] u ∧ (flags = false → u.me.fflags = s.me.fflags) ∧
      s.keepsMore u ∧ s.keepsBytes u ∧ s.keepsFull u

/-- A vector load that issues with room for the sectors it touches, outside a run-ahead, each of whose active lanes has an address that passes the checks of R306 and holds no uncorrectable word, gives each active lane the element at its address and leaves each inactive lane as it was; every other register, every byte and every full/empty bit is as before (R154). -/
def Obligations.VectorLoads : Prop :=
  ∀ (s : State) (d v : BitVec 4) (r g : BitVec 5) (t : VType) (m : BitVec 3) (f : Instr) (addr : Nat → Word) (loc : Nat → Loc),
    let e := (VType.elemBytes t)
    let b := s.me.getX r
    (f, addr) ∈ [(Instr.vld d r t m, fun i => b + BitVec.ofNat 64 (e * i)), (.vlds d r g t m, fun i => b + BitVec.ofNat 64 i * s.me.getX g),
      (.vldx d r v t m, fun i => b + BitVec.ofNat 64 (e * laneOf t (s.me.getV v) i))] →
    s.issues f → s.me.outstanding + sectorCount (laneAddrs t (s.me.getM m) addr) ≤ 128 → s.aheadOf s.cur.core s.cur.slot = none →
    (∀ i < (VType.lanes t), (s.me.getM m).getLsbD i = true →
      (s.locate s.cur.core s.me (addr i) e .load).toOption = some (loc i) ∧ s.badWord (loc i).place (addr i) e = none) →
    ∃ u, exec f s = .next u ∧ u.me.pc = s.me.pc + 4 ∧
      (∀ i < (VType.lanes t), laneOf t (u.me.getV d) i =
        if (s.me.getM m).getLsbD i then s.readLoc (loc i).place e else laneOf t (s.me.getV d) i) ∧
      s.keepsV [d] u ∧ s.keepsM [] u ∧ s.keepsX [] u ∧ s.keepsL [] u ∧ u.me.fflags = s.me.fflags ∧ s.keepsMore u ∧ s.keepsBytes u ∧ s.keepsFull u

/-- A vector store that issues with room for the sectors it touches, outside a run-ahead, each of whose active lanes has an address that passes the checks of R306 (and, if its element is narrower than a word, a word that is not uncorrectable), stores the low bytes of each active lane at its address, the highest active lane staying where two name one byte; every register, every other byte and the full/empty bit of every word that is not repaired is as before (R154, R155). -/
def Obligations.VectorStores : Prop :=
  ∀ (s : State) (d v : BitVec 4) (r g : BitVec 5) (t : VType) (m : BitVec 3) (f : Instr) (addr : Nat → Word) (loc : Nat → Loc),
    let e := (VType.elemBytes t)
    let b := s.me.getX r
    let act (i : Nat) : Prop := i < (VType.lanes t) ∧ (s.me.getM m).getLsbD i = true
    (f, addr) ∈ [(Instr.vst d r t m, fun i => b + BitVec.ofNat 64 (e * i)), (.vsts d r g t m, fun i => b + BitVec.ofNat 64 i * s.me.getX g),
      (.vstx d r v t m, fun i => b + BitVec.ofNat 64 (e * laneOf t (s.me.getV v) i))] →
    s.issues f → s.me.outstanding + sectorCount (laneAddrs t (s.me.getM m) addr) ≤ 128 → s.aheadOf s.cur.core s.cur.slot = none →
    (∀ i, act i → (s.locate s.cur.core s.me (addr i) e .store).toOption = some (loc i) ∧
      (e < 8 → s.badWord (loc i).place (addr i) e = none)) →
    ∃ u, exec f s = .next u ∧ u.me.pc = s.me.pc + 4 ∧
      (∀ i k, act i → k < e → (∀ j k', act j → i < j → k' < e → (loc j).place.plus k' ≠ (loc i).place.plus k) →
        u.readLoc ((loc i).place.plus k) 1 = laneOf t (s.me.getV d) i / 256 ^ k % 256) ∧
      (∀ q, (∀ i k, act i → k < e → (loc i).place.plus k ≠ q) → u.readLoc q 1 = s.readLoc q 1) ∧
      s.keepsX [] u ∧ s.keepsRest u ∧ (∀ q, s.isBad q = false → u.isFull q = s.isFull q)

/-- (That the use right of an object is bit 6 of its entry is the model's reading, log 7, DEDUCED.) On a set ring, rgwf, rgwe, rghd, rgtl and rgrd that issue and whose condition holds go on to the next instruction: rghd makes the head slot held, rgtl the tail slot filled, rgrd writes the word of R167 and the others do nothing; those whose condition fails wait in engwait at their pc. On an unset ring each traps with 0x10, sub 1, the ring in xval [15:8] (R169, R338). Nothing else of the slot, its core or the machine changes. rgset that issues, naming a readable RING entry that keeps its layout, has the use right and whose range ends at or below the deque area, on a ring of which no slot is held and which no queued operation reads, sets the ring to base, n and size of the entry with head, tail, filled and held 0 and goes on; a ring that is not quiet makes it wait; an entry that breaks the layout traps with 0x0A, sub 7, a range too long with 0x10, sub 5 (R166, R169, R338). -/
def Obligations.RingForms : Prop :=
  (∀ (s : State) (d : BitVec 5) (g : BitVec 3) (f : Instr),
      f ∈ [Instr.rgwf g, .rgwe g, .rghd g, .rgtl g, .rgrd d g] → s.issues f →
      (s.myCore.ring g = none → exec f s = .next (s.traps 0x10 (xvalUnit f (g.setWidth 8) 1))) ∧
      ∀ r, s.myCore.ring g = some r →
        let free := r.n - r.filled - r.held.length
        (f ∈ [.rgwf g, .rghd g] → r.filled = 0 → exec f s = .next (s.waits (.ringFilled g))) ∧
        (f ∈ [.rgwe g, .rgtl g] → free = 0 → exec f s = .next (s.waits (.ringFree g))) ∧
        (f = .rgwf g → r.filled ≠ 0 → exec f s = .next (s.past 4)) ∧
        (f = .rgwe g → free ≠ 0 → exec f s = .next (s.past 4)) ∧
        (f = .rghd g → r.filled ≠ 0 → exec f s = .next ((s.setMyCore (s.myCore.setRing g
          { r with head := (r.head + 1) % r.n, filled := r.filled - 1,
                   held := r.held ++ [{ index := r.head, slot := s.cur.slot, before := s.me.flightNo }] })).past 4)) ∧
        (f = .rgtl g → free ≠ 0 → exec f s = .next ((s.setMyCore (s.myCore.setRing g
          { r with tail := (r.tail + 1) % r.n, filled := r.filled + 1 })).past 4)) ∧
        (f = .rgrd d g → ∃ w : Word, exec f s = .next (s.wrote d w) ∧ w.extractLsb' 0 8 = BitVec.ofNat 8 r.head ∧
          w.extractLsb' 8 8 = BitVec.ofNat 8 r.tail ∧ w.extractLsb' 16 8 = BitVec.ofNat 8 r.filled ∧
          w.extractLsb' 24 8 = BitVec.ofNat 8 r.held.length ∧ w.extractLsb' 32 20 = BitVec.ofNat 20 (r.base + r.tail * r.size) ∧
          w.extractLsb' 52 12 = 0)) ∧
  (∀ (s : State) (g : BitVec 3) (x : BitVec 5) (e : BitVec 512),
      let i := (s.me.getX x).extractLsb' 0 16
      let n := (e.extractLsb' 484 8).toNat + 1
      let size := 128 * 2 ^ (e.extractLsb' 480 4).toNat
      let base := (e.extractLsb' 492 20).toNat
      let layout := e.extractLsb' 7 473 = 0 ∧ e.getLsbD 483 = false ∧ e.getLsbD 491 = false ∧ base % 128 = 0
      let quiet := (∀ r, s.myCore.ring g = some r → r.held = []) ∧ ∀ o ∈ s.myCore.matrix, o.reads g = false
      s.issues (.rgset g x) → i ≠ 0 → s.object s.me i.toNat = .ok (some e) → e.extractLsb' 0 4 = 3 → e.getLsbD 6 = true →
      (¬layout → exec (.rgset g x) s = .next (s.traps 0x0A (xvalObject (.rgset g x) i 7))) ∧
      (layout → base + n * size > spadSize s.myCore.split - 40960 →
        exec (.rgset g x) s = .next (s.traps 0x10 (xvalUnit (.rgset g x) (g.setWidth 8) 5))) ∧
      (layout → base + n * size ≤ spadSize s.myCore.split - 40960 → ¬quiet → exec (.rgset g x) s = .next (s.waits (.ringQuiet g))) ∧
      (layout → base + n * size ≤ spadSize s.myCore.split - 40960 → quiet →
        exec (.rgset g x) s = .next ((s.setMyCore (s.myCore.setRing g
          { base := base, n := n, size := size, head := 0, tail := 0, filled := 0, held := [] })).past 4)))

/-- A well-formed mmac or mmacs that issues, whose slot owns the accumulator, whose rings are set, apart and large enough, with a scale ring named for mk8, when the queue has room and every ring a filled head, is queued with the head slots bound, pops the rings it names and goes on; without room or a filled head it waits. mzero is queued alone and needs only the accumulator and room. Nothing but the queue, the popped rings and the pc changes (R171, R172). -/
def Obligations.MatrixQueue : Prop :=
  ∀ (s : State) (z : BitVec 2) (a b : BitVec 3) (r : BitVec 5) (f : Fmt) (pa pb ps : Bool) (i : Instr) (bm : Word),
    let sc := s.me.mfmt.extractLsb' 0 3
    let rings := if f = .mk8 then [(a, 2048), (b, 2048), (sc, 128)] else [(a, 2048), (b, 2048)]
    let q := s.myCore
    let bound := MatrixForm.mac f (headOf q a) (headOf q b) (if f = .mk8 then some (headOf q sc) else none) bm
    let popped (g : BitVec 3) : Bool := (pa && g = a) || (pb && g = b) || (ps && g = sc)
    s.issues i → s.owns z = true →
    ((i, bm) ∈ [(Instr.mmac z a b f pa pb ps, 0), (.mmacs z a b r f pa pb ps, s.me.getX r)] → i.WellFormed →
      (f = .mk8 → s.me.mfmt.getLsbD 3 = true) → (rings.map Prod.fst).Nodup →
      (∀ g ∈ rings, ∃ k, q.ring g.1 = some k ∧ g.2 ≤ k.size) →
      (¬(q.matrix.length < 8 ∧ ∀ g ∈ rings, ∀ k, q.ring g.1 = some k → k.filled ≠ 0) →
        exec i s = .next (s.waits (.matrixQueue (rings.map Prod.fst)))) ∧
      (q.matrix.length < 8 → (∀ g ∈ rings, ∀ k, q.ring g.1 = some k → k.filled ≠ 0) →
        ∃ t, exec i s = .next t ∧ s.coreOnly t ∧ t.me = { s.me with pc := s.me.pc + 4 } ∧ s.keepsOthers t ∧
          t.myCore = { q with slots := t.myCore.slots, rings := t.myCore.rings,
                              matrix := q.matrix ++ [{ slot := s.cur.slot, z := z, form := bound }] } ∧
          ∀ g, t.myCore.ring g = if popped g then (q.ring g).map fun k => k.pop s.cur.slot s.me.flightNo else q.ring g)) ∧
    (i = .mzero z →
      (q.matrix.length ≥ 8 → exec i s = .next (s.waits (.matrixQueue []))) ∧
      (q.matrix.length < 8 → exec i s = .next ((s.setMyCore
        { q with matrix := q.matrix ++ [{ slot := s.cur.slot, z := z, form := .zero }] }).past 4)))

/-- mldz or mstz that issues, whose slot owns the accumulator, at an address that is a multiple of 64, outside a run-ahead, with room in the queue, is queued with its address and word and waits in engwait at its pc until the engine has performed it; without room it waits for it, and at another address it traps with 0x04 and the address (R171, R174). -/
def Obligations.MatrixImages : Prop :=
  ∀ (s : State) (z : BitVec 2) (r : BitVec 5) (f : Fmt) (i : Instr) (op : Word → BitVec 32 → MatrixForm),
    let va := s.me.getX r
    (i, op) ∈ [(Instr.mldz r z f, MatrixForm.load f), (.mstz r z f, .store f)] →
    s.issues i → s.owns z = true → s.aheadOf s.cur.core s.cur.slot = none →
    (va.toNat % 64 ≠ 0 → exec i s = .next (s.traps 0x04 va)) ∧
    (va.toNat % 64 = 0 → 8 ≤ s.myCore.matrix.length → exec i s = .next (s.waits (.matrixQueue []))) ∧
    (va.toNat % 64 = 0 → s.myCore.matrix.length < 8 → exec i s = .next ((s.setMyCore { s.myCore with
      matrix := s.myCore.matrix ++ [{ slot := s.cur.slot, z := z, form := op va (wordOf i) }] }).waits .image))

/-- When the matrix engine completes, its oldest operation leaves the queue and has its effect, and every other accumulator is as before; only mstz changes memory. mzero zeroes the accumulator. mmac and mmacs, on ring slots without an uncorrectable word, give each element, for i8 its old value plus the products of the steps whose block the bitmap does not skip, modulo 2^32; for mk8 and bf16 the f32 sum, group after group that is not skipped, of it and the group sum, which mk8 first scales by the product of its xd8 scales; for f32 and f64 the fused multiply-adds of its steps in order. mldz, where every block passes the checks of R306 and holds no uncorrectable word, gives each element its value in the image, and mstz stores each byte of the image: codes of mk8, bf16 halves, and else the bytes of the accumulator; the slot then goes on. An image of which a block traps has no effect, and its slot is to take that cause. (An image at an address of H that the layout does not have is left out: there the model stops with a fault, its own reading, log 40, DEDUCED.) (R164, R171, R174, R28 to R32, R307). -/
def Obligations.MatrixEngine : Prop :=
  ∀ (s : State) (o : MatrixOp) (r : List MatrixOp),
    let c := s.args.core
    let q := s.core c
    let t0 := s.slot c o.slot
    let old32 (e : Nat) : Nat := ((q.acc o.z).extractLsb' (32 * e) 32 : BitVec 32).toNat
    q.matrix = o :: r →
    (∀ f va w acc, (o.form, acc) ∈ [(MatrixForm.load f va w, Access.load), (.store f va w, .store)] → t0.wait = .engine .image →
      ∀ k < imageBytes f / 64, ∀ x, s.locate c t0 (va + BitVec.ofNat 64 (64 * k)) 64 acc ≠ .error (.fault x)) →
    ∃ t, exec .matrixOpComplete s = .next t ∧ (t.core c).matrix = r ∧ (∀ z ≠ o.z, (t.core c).acc z = q.acc z) ∧
      ((∀ f va w, o.form ≠ .store f va w) → s.keepsBytes t ∧ s.keepsFull t) ∧
      (o.form = .zero → (t.core c).acc o.z = 0) ∧
      (∀ f a b sc bm, o.form = .mac f a b sc bm → t.core c = { q with za := (t.core c).za, matrix := r }) ∧
      (∀ f a b sc bm, o.form = .mac f a b sc bm → q.slotBad a 2048 = false → q.slotBad b 2048 = false →
        (∀ p, sc = some p → q.slotBad p 128 = false) →
        let A (w k : Nat) : Nat := q.slotBytes a 2048 / 256 ^ (w * k) % 256 ^ w
        let B (w k : Nat) : Nat := q.slotBytes b 2048 / 256 ^ (w * k) % 256 ^ w
        let new32 (e : Nat) : BitVec 32 := (t.core c).acc o.z |>.extractLsb' (32 * e) 32
        (f = .i8 → ∀ i < 32, ∀ j < 32, new32 (32 * i + j) = BitVec.ofNat 32 (old32 (32 * i + j)) + BitVec.ofInt 32
          (((List.range 64).filter fun k => !bm.getLsbD (8 * (i / 8) + k / 8)).map fun k =>
            (BitVec.ofNat 8 (A 1 (64 * i + k))).toInt * (BitVec.ofNat 8 (B 1 (32 * k + j))).toInt).sum) ∧
        (∀ p, f = .mk8 → sc = some p → ∀ i < 32, ∀ j < 32, new32 (32 * i + j) = BitVec.ofNat 32
          (((List.range 8).filter fun g => !bm.getLsbD (8 * (i / 8) + g)).foldl (fun v g =>
            let scale (n : Nat) : Nat := xd8Decode (q.slotBytes p 128 / 256 ^ n % 256)
            let sum := groupSum ((List.range 8).map fun h => exactProduct (f32.decode (mk8Decode (A 1 (64 * i + (8 * g + h)))))
              (f32.decode (mk8Decode (B 1 (32 * (8 * g + h) + j)))))
            (f32.add v (f32.mul sum (f32.mul (scale (2 * i + g / 4)) (scale (64 + 2 * j + g / 4))).1).1).1) (old32 (32 * i + j)))) ∧
        (f = .bf16 → ∀ i < 32, ∀ j < 32, new32 (32 * i + j) = BitVec.ofNat 32
          (((List.range 4).filter fun g => !bm.getLsbD (4 * (i / 8) + g)).foldl (fun v g =>
            (f32.add v (groupSum ((List.range 8).map fun h => exactProduct (bf16.decode (A 2 (32 * i + (8 * g + h))))
              (bf16.decode (B 2 (32 * (8 * g + h) + j)))))).1) (old32 (32 * i + j)))) ∧
        (f = .f32 → ∀ i < 32, ∀ j < 32, new32 (32 * i + j) = BitVec.ofNat 32
          ((List.range 16).foldl (fun v k => (f32.fma (A 4 (16 * i + k)) (B 4 (32 * k + j)) v false).1) (old32 (32 * i + j)))) ∧
        (f = .f64 → ∀ i < 16, ∀ j < 16, ((t.core c).acc o.z |>.extractLsb' (64 * (16 * i + j)) 64 : BitVec 64) = BitVec.ofNat 64
          ((List.range 16).foldl (fun v k => (f64.fma (A 8 (16 * i + k)) (B 8 (16 * k + j)) v false).1)
            ((q.acc o.z).extractLsb' (64 * (16 * i + j)) 64 : BitVec 64).toNat))) ∧
      (∀ f va w (l : List Loc) acc, (o.form, acc) ∈ [(MatrixForm.load f va w, Access.load), (.store f va w, .store)] → t0.wait = .engine .image →
        l.length = imageBytes f / 64 →
        (∀ k p, l[k]? = some p → s.locate c t0 (va + BitVec.ofNat 64 (64 * k)) 64 acc = .ok p ∧
          ∀ n < 8, s.isBad (p.place.plus (8 * n)) = false) →
        let byte (u : State) (n : Nat) : Nat := u.readLoc (((l[n / 64]?).getD { place := .mem 0, tag := { tenant := 0, line := 0 }, home := 0 }).place.plus (n % 64)) 1
        (t.slot c o.slot).state = .run ∧ (t.slot c o.slot).wait = .none ∧ (t.slot c o.slot).pc = t0.pc + 4 ∧
        (acc = .load → s.aheadOf c o.slot = none → ∀ e < 1024,
          ((t.core c).acc o.z |>.extractLsb' (32 * e) 32 : BitVec 32) = BitVec.ofNat 32 (match f with
            | .mk8 => mk8Decode (byte s e)
            | .bf16 => (byte s (2 * e) + 256 * byte s (2 * e + 1)) * 2 ^ 16
            | _ => if f = .f64 ∧ 512 ≤ e then old32 e
                else byte s (4 * e) + 256 * byte s (4 * e + 1) + 256 ^ 2 * byte s (4 * e + 2) + 256 ^ 3 * byte s (4 * e + 3))) ∧
        (acc = .store → (t.core c).acc o.z = q.acc o.z) ∧
        (acc = .store → s.aheadOf c o.slot = none →
          (∀ n < imageBytes f, (∀ n' < imageBytes f, ∀ p p', l[n / 64]? = some p → l[n' / 64]? = some p' → n / 64 < n' / 64 →
              p'.place.plus (n' % 64) ≠ p.place.plus (n % 64)) →
            byte t n = match f with
              | .mk8 => (f32.toMk8 (old32 n)).1 % 256
              | .bf16 => (f32.convert bf16 .rne (old32 (n / 2))).1 / 256 ^ (n % 2) % 256
              | _ => (q.acc o.z).toNat / 256 ^ n % 256) ∧
          (∀ m, (∀ p ∈ l, ∀ n < 64, m ≠ p.place.plus n) → t.readLoc m 1 = s.readLoc m 1))) ∧
      (∀ f va w (l : List Loc) acc cause x, (o.form, acc) ∈ [(MatrixForm.load f va w, Access.load), (.store f va w, .store)] →
        t0.wait = .engine .image → t0.cause = none → l.length < imageBytes f / 64 →
        (∀ k p, l[k]? = some p → s.locate c t0 (va + BitVec.ofNat 64 (64 * k)) 64 acc = .ok p ∧
          ∀ n < 8, s.isBad (p.place.plus (8 * n)) = false) →
        s.locate c t0 (va + BitVec.ofNat 64 (64 * l.length)) 64 acc = .error (.trap cause x) →
        t.slot c o.slot = { t0 with state := .run, wait := .none, cause := some (cause, x) } ∧ (t.core c).acc o.z = q.acc o.z ∧ s.keepsBytes t)

/-- macq that issues makes the slot the owner of an accumulator that nobody owns and nobody before it waits for, its bits zeroed when the previous owner was of another tenant and else as they were; it does nothing for the owner, and waits when another slot owns it. mrel by the owner releases it, or waits while an operation on it is queued; mrel by another traps with 0x11, sub 2. mscl names the scale ring in mfmt (R165, R173). -/
def Obligations.Accumulators : Prop :=
  ∀ (s : State) (z : BitVec 2) (a : BitVec 3),
    let q := s.myCore
    (s.issues (.macq z) →
      (s.owns z = true → exec (.macq z) s = .next (s.past 4)) ∧
      (q.owner z = none → (q.zaWaiters[z.toNat]'z.isLt).head? ∈ [none, some s.cur.slot] →
        ∃ t, exec (.macq z) s = .next t ∧ t.owns z = true ∧ t.me = { s.me with pc := s.me.pc + 4 } ∧ s.coreOnly t ∧ s.keepsOthers t ∧
          (∀ y ≠ z, t.myCore.owner y = q.owner y ∧ t.myCore.acc y = q.acc y) ∧
          t.myCore.acc z = (match q.zaTenant[z.toNat]'z.isLt with | some p => if p = s.me.tenant then q.acc z else 0 | none => q.acc z)) ∧
      (∀ k, q.owner z = some k → s.owns z = false →
        ∃ t, exec (.macq z) s = .next t ∧ t.me = s.me.park .engwait (.engine (.accumulator z)) ∧ s.coreOnly t ∧ s.keepsOthers t ∧
          t.myCore.zaOwner = q.zaOwner ∧ t.myCore.za = q.za ∧ s.cur.slot ∈ t.myCore.zaWaiters[z.toNat]'z.isLt)) ∧
    (s.issues (.mrel z) →
      (s.owns z = false → exec (.mrel z) s = .next (s.traps 0x11 (xvalUnit (.mrel z) (z.setWidth 8) 2))) ∧
      (s.owns z = true → (∃ o ∈ q.matrix, o.z = z) → exec (.mrel z) s = .next (s.waits (.release z))) ∧
      (s.owns z = true → (∀ o ∈ q.matrix, o.z ≠ z) →
        exec (.mrel z) s = .next ((s.setMyCore { q with zaOwner := q.zaOwner.set z.toNat none z.isLt }).past 4))) ∧
    (s.issues (.mscl a) → exec (.mscl a) s = .next (s.modMe fun t => { t with mfmt := 1#1 ++ a, pc := t.pc + 4 }))

/-- rpbeg takes a buffer that nobody holds or waits for, or starts afresh in one it holds, and begins a recording; while another slot holds it, it waits in engwait, last in the list. While a slot records, every form that may be recorded is stored and not performed, until 32 are, when it traps with 0x10, sub 7; rpend ends a recording that holds something. rpgo with a count starts the sequence and waits in engwait at its pc, rpgoa checkpoints the registers and goes on; a count of 0 releases the buffer at once; a suspended sequence goes on where it stopped. rpjoin outside a run-ahead goes on at once, and in one waits for the join (R105, R175, R176, R177, R299, R338). -/
def Obligations.RepetitionForms : Prop :=
  ∀ (s : State) (x : BitVec 5) (n : BitVec 4),
    let q := s.myCore
    let b := q.rep
    let c := (s.me.getX x).extractLsb' 0 32
    (s.issues .rpbeg →
      (b.holder = some s.cur.slot ∨ (b.holder = none ∧ b.waiters = []) →
        ∃ t, exec .rpbeg s = .next t ∧ t.me = { s.me with pc := s.me.pc + 4 } ∧ s.coreOnly t ∧ s.keepsOthers t ∧
          t.myCore.rep.holder = some s.cur.slot ∧ t.myCore.rep.phase = .recording ∧ t.myCore.rep.words = []) ∧
      (∀ k, b.holder = some k → k ≠ s.cur.slot → s.cur.slot ∉ b.waiters →
        exec .rpbeg s = .next ((s.setMyCore { q with rep := { b with waiters := b.waiters ++ [s.cur.slot] } }).waits .buffer))) ∧
    (∀ i : Instr, (shapeOf i).recordable = true → b.holder = some s.cur.slot → b.phase = .recording →
      mustJoin i s = false → refusal i s = none →
      (b.words.length < 32 → exec i s = .next ((s.setMyCore { q with rep := { b with words := b.words ++ [i] } }).past 4)) ∧
      (32 ≤ b.words.length → exec i s = .next (s.traps 0x10 (xvalUnit i 0 7)))) ∧
    (s.issues .rpend → b.holder = some s.cur.slot → b.phase = .recording → b.words ≠ [] →
      exec .rpend s = .next ((s.setMyCore { q with rep := { b with phase := .ended } }).past 4)) ∧
    (∀ f ∈ [Instr.rpgo x n, .rpgoa x n], s.issues f → b.holder = some s.cur.slot →
      (b.phase = .ended → c = 0 →
        ∃ t, exec f s = .next t ∧ t.me = { s.me with pc := s.me.pc + 4 } ∧ t.myCore.rep.holder = none ∧ s.coreOnly t ∧ s.keepsOthers t) ∧
      (b.phase = .ended ∧ c ≠ 0 ∨ b.phase = .suspended ∧ b.iter < b.count.toNat → ∃ t, exec f s = .next t ∧ s.coreOnly t ∧ s.keepsOthers t ∧
        t.myCore.rep = (if b.phase = .ended then { b with phase := .running, count := c, stride := n, iter := 0, pos := 0, start := s.me.pc }
          else { b with phase := .running, start := s.me.pc }) ∧
        (f = .rpgo x n → t.me = s.me.park .engwait (.engine .sequence) ∧ t.myCore.ahead = q.ahead) ∧
        (f = .rpgoa x n → t.me = { s.me with pc := s.me.pc + 4 } ∧ t.myCore.ahead =
          some { slot := s.cur.slot, x := s.me.x, v := s.me.v, m := s.me.m, lb := s.me.lb, fflags := s.me.fflags, stores := [],
                 storeCount := 0, insn := 0, seqFlags := 0 }))) ∧
    (s.issues .rpjoin → exec .rpjoin s = .next (s.past 4)) ∧
    (∀ a, s.aheadOf s.cur.core s.cur.slot = some a → exec .rpjoin s = .next (s.waits .join))

/-- When the repetition buffer that runs a sequence has the vector unit for the cycle (R10, R176) and issues a vector arithmetic, logical, shift, compare, select, permute, slide, broadcast or conversion form of its slot, whose vector fields are moved on by the iteration number times the stride, modulo 16, the slot's registers and flags become what that renamed instruction makes of them, its pc stays, and the buffer goes on to the next instruction or iteration; one that names a pending register stalls the buffer alone. After the last iteration the buffer is released and the slot goes on, or, under a run-ahead, is kept as finished until the join, which releases it (R176; that a run-ahead keeps it is the model's reading, log 15, DEDUCED). When a run-ahead whose sequence has ended joins for its waiting slot, and each buffered store passes the checks of R306 and, where its elements are narrower than a word, touches no uncorrectable word, the stores become visible in program order, the checkpoint and the buffer are released and the slot runs again at its pc with its registers as they are (R105). -/
def Obligations.BufferIssues : Prop :=
  (∀ (s : State) (k : SlotId) (d a b n : BitVec 4) (r : BitVec 5) (ty src : VType) (m mn : BitVec 3) (cc : CmpCond) (rm : RMode) (T j : Nat)
      (i i' : Instr),
      let c := s.args.core
      let p := (s.core c).rep
      let t := s.slot c k
      let move (r : BitVec 4) : BitVec 4 := r + BitVec.ofNat 4 (T * n.toNat)
      let z := ({ s with cur := { core := c, slot := k } } : State).modCore c fun q => { q with ahead := none }
      (i, i') ∈ [
        (Instr.vadd d a b ty m, .vadd (move d) (move a) (move b) ty m), (.vsub d a b ty m, .vsub (move d) (move a) (move b) ty m),
        (.vmul d a b ty m, .vmul (move d) (move a) (move b) ty m), (.vdiv d a b ty m, .vdiv (move d) (move a) (move b) ty m),
        (.vmin d a b ty m, .vmin (move d) (move a) (move b) ty m), (.vmax d a b ty m, .vmax (move d) (move a) (move b) ty m),
        (.vfma d a b ty m, .vfma (move d) (move a) (move b) ty m), (.vfms d a b ty m, .vfms (move d) (move a) (move b) ty m),
        (.vand d a b ty m, .vand (move d) (move a) (move b) ty m), (.vor d a b ty m, .vor (move d) (move a) (move b) ty m),
        (.vxor d a b ty m, .vxor (move d) (move a) (move b) ty m), (.vshl d a b ty m, .vshl (move d) (move a) (move b) ty m),
        (.vshr d a b ty m, .vshr (move d) (move a) (move b) ty m), (.vsra d a b ty m, .vsra (move d) (move a) (move b) ty m),
        (.vsel d a b ty m, .vsel (move d) (move a) (move b) ty m), (.vperm d a b ty m, .vperm (move d) (move a) (move b) ty m),
        (.vabs d a ty m, .vabs (move d) (move a) ty m), (.vneg d a ty m, .vneg (move d) (move a) ty m),
        (.vsqrt d a ty m, .vsqrt (move d) (move a) ty m), (.vcmp cc mn a b ty m, .vcmp cc mn (move a) (move b) ty m),
        (.vslide d a r ty m, .vslide (move d) (move a) r ty m), (.vbcast d r ty m, .vbcast (move d) r ty m),
        (.vcvt d a src ty rm m, .vcvt (move d) (move a) src ty rm m)] →
      p.holder = some k → p.phase = .running → p.words[j]? = some i → p.pos = j → p.stride = n → p.iter = T → T < p.count.toNat →
      p.issueAt ≤ s.now → s.vectorFree c = true → ((s.core c).ahead = none ∨ ∃ a, (s.core c).ahead = some a ∧ a.slot = k) → t.stopped = false →
      s.handingOver c k = false →
      (z.issues i' → ∃ u v, exec .bufferIssue s = .next u ∧ exec i' z = .next v ∧ (u.slot c k).x = (v.slot c k).x ∧ (u.slot c k).v = (v.slot c k).v ∧
        (u.slot c k).m = (v.slot c k).m ∧ (u.slot c k).lb = t.lb ∧ (u.slot c k).fflags = (v.slot c k).fflags ∧ s.keepsBytes u ∧ s.keepsFull u ∧
        (j + 1 < p.words.length → (u.core c).rep.holder = some k ∧ (u.core c).rep.pos = j + 1 ∧ (u.core c).rep.iter = T ∧ (u.slot c k).pc = t.pc) ∧
        (j + 1 = p.words.length → T + 1 < p.count.toNat →
          (u.core c).rep.holder = some k ∧ (u.core c).rep.pos = 0 ∧ (u.core c).rep.iter = T + 1 ∧ (u.slot c k).pc = t.pc) ∧
        (j + 1 = p.words.length → p.count.toNat ≤ T + 1 →
          ((s.core c).ahead = none → (u.core c).rep.holder = none ∧ (u.slot c k).pc = t.pc + 4 ∧ (u.slot c k).state = .run) ∧
          ((s.core c).ahead ≠ none → (u.core c).rep.phase = .finished ∧ (u.core c).rep.holder = some k ∧ (u.slot c k).pc = t.pc))) ∧
      (∀ g, refusal i' z = none → z.me.firstPending (shapeOf i').names = some g → exec .bufferIssue s = .next s)) ∧
  (∀ (s : State) (a : RunAhead) (loc : Nat → Loc),
      let c := s.args.core
      let t := s.slot c a.slot
      (s.core c).ahead = some a → (s.core c).rep.heldBy a.slot .running = false → t.wait = .engine .join → t.cause = none →
      (∀ i st, a.stores[i]? = some st → st.bytes.length ∈ [1, 2, 4, 8, 16, 64] ∧
        s.locate c t st.va st.bytes.length .store = .ok (loc i) ∧
        (st.narrow = true → s.badWord (loc i).place st.va st.bytes.length = none)) →
      ∃ u, exec .runaheadJoin s = .next u ∧ (u.core c).ahead = none ∧ (u.core c).rep.holder = none ∧
        u.slot c a.slot = { t with state := .run, wait := .none } ∧
        (∀ i st k w, a.stores[i]? = some st → st.bytes[k]? = some w →
          (∀ i' st' k', i < i' → a.stores[i']? = some st' → k' < st'.bytes.length → (loc i').place.plus k' ≠ (loc i).place.plus k) →
          u.readLoc ((loc i).place.plus k) 1 = w.toNat) ∧
        (∀ q, (∀ i st k, a.stores[i]? = some st → k < st.bytes.length → (loc i).place.plus k ≠ q) → u.readLoc q 1 = s.readLoc q 1))

/-- lbcp copies a label register; lbxg exchanges a half of one with a general register; lblm loads and lbsm stores the 16 bytes at an address that passes the checks of R306, outside a run-ahead and with room; each goes on to the next instruction, and everything else is as before (R189). -/
def Obligations.LabelRegisters : Prop :=
  ∀ (s : State) (d a : BitVec 3) (x : BitVec 5) (l : Loc),
    let w := s.me.getL a
    (s.issues (.lbcp d a) → exec (.lbcp d a) s = .next ((s.modMe fun t => t.setL d w).past 4)) ∧
    (s.issues (.lbxg x a 0) → exec (.lbxg x a 0) s = .next
      ((s.modMe fun t => (t.setL a (w.extractLsb' 64 64 ++ s.me.getX x)).setX x (w.extractLsb' 0 64)).past 4)) ∧
    (s.issues (.lbxg x a 1) → exec (.lbxg x a 1) s = .next
      ((s.modMe fun t => (t.setL a (s.me.getX x ++ w.extractLsb' 0 64)).setX x (w.extractLsb' 64 64)).past 4)) ∧
    (s.issues (.lblm d x) → s.me.outstanding < 128 → s.aheadOf s.cur.core s.cur.slot = none →
      (s.locate s.cur.core s.me (s.me.getX x) 16 .load).toOption = some l → s.badWord l.place (s.me.getX x) 16 = none →
      ∃ t, exec (.lblm d x) s = .next t ∧ t.me.getL d = BitVec.ofNat 128 (s.readLoc l.place 16) ∧ t.me.pc = s.me.pc + 4 ∧
        t.me.isPending (.lb d) = true ∧ s.keepsL [d] t ∧ s.keepsX [] t ∧ s.keepsV [] t ∧ s.keepsM [] t ∧ t.me.fflags = s.me.fflags ∧
        s.keepsMore t ∧ s.keepsBytes t ∧ s.keepsFull t) ∧
    (s.issues (.lbsm x a) → s.me.outstanding < 128 → s.aheadOf s.cur.core s.cur.slot = none →
      (s.locate s.cur.core s.me (s.me.getX x) 16 .store).toOption = some l →
      ∃ t, exec (.lbsm x a) s = .next t ∧ t.readLoc l.place 16 = w.toNat ∧ t.me.pc = s.me.pc + 4 ∧ s.keepsX [] t ∧ s.keepsRest t ∧
        s.keepsBytesBut l.place 16 t ∧ (∀ m, s.isBad m = false → t.isFull m = s.isFull m))

/-- When the label operands of lbpar, lbdep, lbanc, lbcmp or lbfix pass the checks of R323 and forward to paths at the region's generation, the form writes the parent's label, the number of codes, whether the first is ancestor-or-self of the second in one region, the order of (tree, path) as -1, 0 or 1, or the forwarded label; it goes on to the next instruction, and no register but its destination changes. The parent of a path has all its codes but the last (R184, R189, R38, R39). -/
def Obligations.LabelQueries : Prop :=
  (∀ (s s1 s2 : State) (d a : BitVec 3) (x : BitVec 5) (o : Operand) (p : Nat) (c : ControlBlock) (f : Instr) (path : Nat),
    (f, path) ∈ [(Instr.lbpar d a, parentPath p), (.lbfix a, p)] → s.issues f → (oneLabel f false a).run s = .ok (o, p) s1 →
    readControl o.region s1 = .ok c s2 →
    ∃ t, exec f s = .next t ∧ t.me.getL (if f = .lbfix a then a else d) = labelOf o.region.index c.gen path ∧
      s.keepsL [if f = .lbfix a then a else d] t ∧ t.me.pc = s.me.pc + 4 ∧ s.keepsX [] t ∧ s.keepsV [] t ∧ s.keepsM [] t ∧
      t.me.fflags = s.me.fflags ∧ s.keepsMoreWork t) ∧
  (∀ (s s1 : State) (a : BitVec 3) (x : BitVec 5) (o : Operand) (p : Nat), s.issues (.lbdep x a) →
    (oneLabel (.lbdep x a) false a).run s = .ok (o, p) s1 → exec (.lbdep x a) s = .next (s1.wrote x (BitVec.ofNat 64 (depth p))) ∧
    s1.me.pc = s.me.pc ∧ s.keepsX [] s1 ∧ s.keepsRestWork s1) ∧
  (∀ (s s1 : State) (a b : BitVec 3) (x : BitVec 5) (o q : Operand) (y z : Nat) (f : Instr) (w : Word),
    let u := (o.region.index.toNat, y)
    let v := (q.region.index.toNat, z)
    let cut := 2 ^ (104 - filled y)
    (f, w) ∈ [(Instr.lbanc x a b, if u.1 = v.1 ∧ y / cut = z / cut then 1 else 0),
      (.lbcmp x a b, if u = v then 0 else if u.1 < v.1 ∨ (u.1 = v.1 ∧ u.2 < v.2) then BitVec.allOnes 64 else 1)] → s.issues f →
    y < 2 ^ 104 → z < 2 ^ 104 → (twoLabels f a b).run s = .ok ((o, y), (q, z)) s1 → exec f s = .next (s1.wrote x w) ∧
    s1.me.pc = s.me.pc ∧ s.keepsX [] s1 ∧ s.keepsRestWork s1) ∧
  (∀ p l, p < 2 ^ 104 → codesOf p = some l → depth p = l.length ∧ codesOf (parentPath p) = some l.dropLast)

/-- With room, and once the checks of R323 pass: lbroot gives the label of the root, with the use right where it is present and with the modify right where it is absent, when it makes it (the model's reading, log 16, DEDUCED); lbkid gives the label of the child of the number in its register, and traps with 0x0E, sub 5, at or above the child count; lbres gives the record address of the node; lbld and lbst read and write its doubleword at their offset. Each goes on to the next instruction, and the destination of each is pending (R184, R188). An offset that is not a multiple of 8 within the record traps with 0x0A, sub 5, in the operand field the number of the label register (R323; that field is the model's reading, log 16, DEDUCED). -/
def Obligations.LabelResolution : Prop :=
  ∀ (s s0 s1 s2 s3 s4 : State) (d a : BitVec 3) (x : BitVec 5) (i : BitVec 12) (o : Operand) (r : Region) (p n : Nat) (e : Shard)
      (kids : List Code) (c : ControlBlock) (l : Loc),
    s.me.outstanding < 128 →
    (s.issues (.lbroot d x) → openRegion (.lbroot d x) 15 ((s.me.getX x).toNat % 2 ^ 16) s = .ok r s → r.sparse = false →
      (objUse r.entry = true ∧ resolvePath r 0 s = .ok (some (e, n)) s2 ∨
        objModify r.entry = true ∧ resolvePath r 0 s = .ok none s1 ∧ makeRoot r s1 = .ok () s2) →
      readControl r s2 = .ok c s3 →
      ∃ t, exec (.lbroot d x) s = .next t ∧ t.me.getL d = labelOf r.index c.gen 0 ∧ t.me.isPending (.lb d) = true ∧
        t.me.pc = s.me.pc + 4 ∧ t.mem = s3.mem ∧ s.keepsX [] t ∧ s.keepsL [d] t ∧ s.keepsMoreWork t) ∧
    (s.issues (.lbkid d a x) → (oneLabel (.lbkid d a x) false a).run s = .ok (o, p) s1 → resolve o p s1 = .ok (e, n) s2 →
      children o.region p (filled p) s2 = .ok kids s3 → readControl o.region s3 = .ok c s4 →
      (∀ k q, kids[(s.me.getX x).toNat]? = some k → childPath p (filled p) k = some q →
        ∃ t, exec (.lbkid d a x) s = .next t ∧ t.me.getL d = labelOf o.region.index c.gen q ∧ t.me.isPending (.lb d) = true ∧
          t.me.pc = s.me.pc + 4 ∧ s.keepsX [] t ∧ s.keepsL [d] t ∧ s.keepsMoreWork t) ∧
      (kids.length ≤ (s.me.getX x).toNat →
        exec (.lbkid d a x) s = .next (s.traps 0x0E (xvalKeyed (.lbkid d a x) o.region.index o.op 5)))) ∧
    (s.issues (.lbres x a) → recordOf (.lbres x a) false a none s = .ok n s1 →
      ∃ t, exec (.lbres x a) s = .next t ∧ t.me.getX x = (if x = 0 then 0 else BitVec.ofNat 64 n) ∧ t.me.pc = s.me.pc + 4 ∧
        (x ≠ 0 → t.me.isPending (.x x) = true) ∧ s.keepsX [x] t ∧ s.keepsRestWork t) ∧
    (s.issues (.lbld x a i) → recordOf (.lbld x a i) false a (some i) s = .ok n s1 → s.aheadOf s.cur.core s.cur.slot = none →
      (s1.locate s1.cur.core s1.me (BitVec.ofNat 64 (n + i.toNat)) 8 .load).toOption = some l →
      s1.badWord l.place (BitVec.ofNat 64 (n + i.toNat)) 8 = none →
      ∃ t, exec (.lbld x a i) s = .next t ∧ t.me.getX x = (if x = 0 then 0 else BitVec.ofNat 64 (s1.readLoc l.place 8)) ∧
        t.me.pc = s.me.pc + 4 ∧ (x ≠ 0 → t.me.isPending (.x x) = true) ∧ s.keepsX [x] t ∧ s.keepsRestWork t) ∧
    (s.issues (.lbst i a x) → recordOf (.lbst i a x) true a (some i) s = .ok n s1 → s.aheadOf s.cur.core s.cur.slot = none →
      (s1.locate s1.cur.core s1.me (BitVec.ofNat 64 (n + i.toNat)) 8 .store).toOption = some l →
      ∃ t, exec (.lbst i a x) s = .next t ∧ t.readLoc l.place 8 = (s.me.getX x).toNat ∧ t.me.pc = s.me.pc + 4 ∧
        s.keepsX [] t ∧ s.keepsRestWork t) ∧
    (∀ (f : Instr) (ch : Bool), (f, ch) ∈ [(Instr.lbld x a i, false), (.lbst i a x, true)] → s.issues f →
      labelOperands f ch [a] s = .ok [o] s0 → (i.toNat % 8 ≠ 0 ∨ 8 * o.region.rsize < i.toNat) →
      exec f s = .next (s.traps 0x0A (xvalKeyed f o.region.index (0#1 ++ a) 5)))

/-- With room, and once the checks of R323 pass and the node is present: lbapp and lbins put in a node whose path is its parent's followed by one code, with its record, and give its label at the new generation; lbdel deletes the subtree as one region event; lbmov to a parent that has a code for it, of a subtree that is an entry's own, moves it as one region event and gives its new label. Each goes on to the next instruction (R185, R186, R187); while a move of the region is under way it is held (R49; log 30, DEDUCED). In a steady region whose shards are single leaves, a lookup after lbapp or lbins finds the new node with its new record, after lbdel no node of the subtree, after lbmov the subtree's node at its new path and none at the old one; after lbapp, lbins and lbdel it finds every other node as before. -/
def Obligations.TreeChanges : Prop :=
  (∀ (s s1 s2 s3 s4 s5 : State) (d a : BitVec 3) (o : Operand) (p y n : Nat) (e : Shard) (kids : List Code) (c : ControlBlock),
    s.me.outstanding < 128 →
    (∀ f, f ∈ [Instr.lbapp d a, .lbins d a, .lbdel a] → s.issues f → (oneLabel f true a).run s = .ok (o, p) s1 →
      s1.moveUnderWay o.region.agent.tenant o.region.index = true →
      exec f s = .next (s.modMe fun t => t.park .memwait (.region o.region.index))) ∧
    (s1.moveUnderWay o.region.agent.tenant o.region.index = false →
    (s.issues (.lbapp d a) → (oneLabel (.lbapp d a) true a).run s = .ok (o, p) s1 → resolve o p s1 = .ok (e, n) s2 →
      children o.region p (filled p) s2 = .ok kids s3 → insertChild o p kids kids.length true s3 = .ok y s4 →
      readControl o.region s4 = .ok c s5 →
      (∃ k, childPath p (filled p) k = some y) ∧
      ∃ t, exec (.lbapp d a) s = .next t ∧ t.me.getL d = labelOf o.region.index c.gen y ∧ t.me.isPending (.lb d) = true ∧
        t.me.pc = s5.me.pc + 4 ∧ t.mem = s5.mem) ∧
    (s.issues (.lbins d a) → (oneLabel (.lbins d a) true a).run s = .ok (o, p) s1 → resolve o p s1 = .ok (e, n) s2 → p ≠ 0 →
      children o.region (parentPath p) (filled (parentPath p)) s2 = .ok kids s3 →
      (∃ k, codeAt p (filled (parentPath p)) = some k ∧ insertChild o (parentPath p) kids (positionOf k kids + 1) false s3 = .ok y s4) →
      readControl o.region s4 = .ok c s5 →
      (∃ k, childPath (parentPath p) (filled (parentPath p)) k = some y) ∧
      ∃ t, exec (.lbins d a) s = .next t ∧ t.me.getL d = labelOf o.region.index c.gen y ∧ t.me.isPending (.lb d) = true ∧
        t.me.pc = s5.me.pc + 4 ∧ t.mem = s5.mem) ∧
    (s.issues (.lbdel a) → (oneLabel (.lbdel a) true a).run s = .ok (o, p) s1 → resolve o p s1 = .ok (e, n) s2 → p ≠ 0 →
      deleteEvent o.region p (filled p) s2 = .ok () s3 →
      ∃ t, exec (.lbdel a) s = .next t ∧ t.me.pc = s3.me.pc + 4 ∧ t.mem = s3.mem ∧ (∀ r, t.me.getL r = s3.me.getL r)))) ∧
  (∀ (s s1 s2 s3 s4 s5 s6 s7 s8 : State) (d a b : BitVec 3) (o q : Operand) (x y new : Nat) (e g : Shard) (kids others : List Code)
      (c : ControlBlock) (r : Region) (k : Code) (l : List Shard), r = o.region → s.me.outstanding < 128 →
    s.issues (.lbmov d a b) → moveLabels (.lbmov d a b) a b s = .ok ((o, x, e), (q, y, g)) s1 → x ≠ 0 → starts y x (filled x) = false →
    s1.moveUnderWay r.agent.tenant r.index = false → children r y (filled y) s1 = .ok kids s2 →
    others = (if parentPath x = y then keepIf (fun c => some c ≠ codeAt x (filled y)) kids else kids) → others.length < 16384 →
    (do shardsOf r (← readControl r) : M (List Shard)) s2 = .ok l s3 →
    appendCode r.gap others.getLast? = some k → childPath y (filled y) k = some new → moveFits r l x (filled new) s3 = .ok true s4 →
    (∃ f ∈ l, f.stem = x ∧ f.plen = filled x) → reserve r o.op 0 (packedNodes 0 levels) false false s4 = .ok () s5 →
    moveEvent r x (filled x) new (filled new) s5 = .ok () s6 → readControl r s6 = .ok c s7 →
    ∃ t, exec (.lbmov d a b) s = .next t ∧ t.me.getL d = labelOf r.index c.gen new ∧ t.me.isPending (.lb d) = true ∧
      t.me.pc = s7.me.pc + 4 ∧ t.mem = s7.mem) ∧
  (∀ (s s1 s2 s3 : State) (f : Instr) (d a : BitVec 3) (o : Operand) (p n top y v : Nat) (e h : Shard) (kids : List Code)
      (c : ControlBlock) (k : Code) (l : List (Nat × Nat)) (place : Nat → Nat) (r : Region), r = o.region → s.me.outstanding < 128 →
    s.issues f → (oneLabel f true a).run s = .ok (o, p) s1 → s1.moveUnderWay r.agent.tenant r.index = false →
    resolve o p s1 = .ok (e, n) s2 →
    (f = .lbapp d a ∧ top = p ∧ appendCode r.gap kids.getLast? = some k ∨
      f = .lbins d a ∧ p ≠ 0 ∧ top = parentPath p ∧ ∃ j, codeAt p (filled top) = some j ∧
        insertCode kids[positionOf j kids]? kids[positionOf j kids + 1]? = some k) →
    children r top (filled top) s2 = .ok kids s3 → kids.length < 16384 → childPath top (filled top) k = some y → y < 2 ^ 104 →
    r.oneLeaf place s3 c h l → h.stem = 0 → h.plen = 0 → c.nodefree = noNode → 2 ≤ r.nodeRoom c → c.records + 1 < 2 ^ 40 →
    v = (if c.recfree = 0 then c.recbump else c.recfree) → r.rpbase ≤ v → v + r.recordBytes ≤ r.rplim → v % 8 = 0 →
    ∃ t, exec f s = .next t ∧ t.me.getL d = labelOf r.index c.gen y ∧ r.recordAt t y = some (some v) ∧
      ∀ z, z < 2 ^ 104 → z ≠ y → r.recordAt t z = r.recordAt s3 z) ∧
  (∀ (s s1 s2 s3 : State) (a : BitVec 3) (o : Operand) (p n : Nat) (e h : Shard) (c : ControlBlock) (l : List (Nat × Nat))
      (place : Nat → Nat) (old : RegionEvent) (r : Region), r = o.region → s.me.outstanding < 128 →
    s.issues (.lbdel a) → (oneLabel (.lbdel a) true a).run s = .ok (o, p) s1 → s1.moveUnderWay r.agent.tenant r.index = false →
    resolve o p s1 = .ok (e, n) s2 → p ≠ 0 → p < 2 ^ 104 →
    p % 2 ^ (104 - filled p) = 0 → r.oneLeaf place s2 c h l → h.stem = 0 → h.plen = 0 → l.Pairwise (fun x y => x.1 < y.1) →
    (∀ q ∈ l, r.rpbase ≤ q.2 ∧ q.2 + 8 ≤ r.rplim ∧ q.2 % 8 = 0) → readEvent r (c.gen + 1) s2 = .ok old s3 → old.kind ≠ 2 →
    ∃ t, exec (.lbdel a) s = .next t ∧
      ∀ z, z < 2 ^ 104 → r.recordAt t z = if starts z p (filled p) = true then some none else r.recordAt s2 z) ∧
  (∀ (s s1 s2 s3 s4 : State) (d a b : BitVec 3) (o q : Operand) (x y new v : Nat) (e g f0 f1 : Shard) (kids others : List Code)
      (c : ControlBlock) (r : Region) (k : Code) (l : List Shard) (l0 l1 : List (Nat × Nat)) (place : Nat → Nat) (old : RegionEvent),
    r = o.region →
    s.me.outstanding < 128 → s.issues (.lbmov d a b) → moveLabels (.lbmov d a b) a b s = .ok ((o, x, e), (q, y, g)) s1 →
    x ≠ 0 → x < 2 ^ 104 → new < 2 ^ 104 → starts y x (filled x) = false →
    s1.moveUnderWay r.agent.tenant r.index = false → children r y (filled y) s1 = .ok kids s2 →
    others = (if parentPath x = y then keepIf (fun c => some c ≠ codeAt x (filled y)) kids else kids) → others.length < 16384 →
    appendCode r.gap others.getLast? = some k → childPath y (filled y) k = some new →
    x % 2 ^ (104 - filled x) = 0 → new % 2 ^ (104 - filled new) = 0 → starts x new (filled new) = false →
    r.steady place s2 → readControl r s2 = .ok c s2 → shardsOf r c s2 = .ok l s2 → l = [f0, f1] ∨ l = [f1, f0] →
    moveFits r l x (filled new) s2 = .ok true s2 →
    f0.stem = 0 → f0.plen = 0 → f1.stem = x → f1.plen = filled x → r.isLeaf s2 f0 l0 → r.isLeaf s2 f1 l1 →
    placeOf x ∉ l0.map Prod.fst → firstOf (fun p => p.1 = 0) l1 = some (0, v) → readEvent r (c.gen + 1) s2 = .ok old s3 → old.kind ≠ 2 →
    ∃ t, exec (.lbmov d a b) s = .next t ∧ t.me.getL d = labelOf r.index ((c.gen + 1) % 2 ^ 32) new ∧
      r.recordAt t new = some (some v) ∧ r.recordAt t x = some none)

/-- Once the checks of R323 pass: skey packs the coordinates of its pair, scoord writes those of a key, each dimension's field from a key made of coordinates within their extents being that coordinate again, and absent dimensions 0; sld writes the element, or 0 where there is none, i32 sign-extended; sst and sadd store a value that is not zero at the key, or its sum by the format, leave memory as the search left it where the value is zero and the element absent, and go on; in a steady region of one shard whose tree is a leaf, a load then gives the stored value, or finds no element where the value is zero, and every other element as before (R53, R55, R56, R193, R194). -/
def Obligations.SparseForms : Prop :=
  (∀ (e : BitVec 512) (coord : Nat → Nat), (dimOrder e).Nodup → (∀ d ∈ dimOrder e, coord d < dimExtent e d) →
    keyValid e (packKey e coord) = true ∧ ∀ d ∈ dimOrder e, coordOf e (packKey e coord) d = coord d) ∧
  (∀ (s : State) (d : BitVec 3) (x : BitVec 5) (k : BitVec 12) (r : Region) (e : BitVec 512), s.issues (.skey d x k) →
    namedRegion (.skey d x k) k false .sparse s = .ok r s → s.shapeOf s.me r.shape r.efmt = some e →
    (∀ i ∈ dimOrder e, coordField (s.me.getX x) (s.me.getX (x + 1)) i < dimExtent e i) →
    exec (.skey d x k) s = .next ((s.modMe fun t =>
      t.setL d (BitVec.ofNat 128 (packKey e (coordField (s.me.getX x) (s.me.getX (x + 1)))))).past 4)) ∧
  (∀ (s : State) (a : BitVec 3) (x : BitVec 5) (k : BitVec 12) (r : Region) (e : BitVec 512), s.issues (.scoord x a k) →
    namedRegion (.scoord x a k) k false .sparse s = .ok r s → s.shapeOf s.me r.shape r.efmt = some e → keyValid e (s.me.getL a).toNat = true →
    let v (i : Nat) : BitVec 32 := if i < dimCount e then BitVec.ofNat 32 (coordOf e (s.me.getL a).toNat i) else 0
    exec (.scoord x a k) s = .next ((s.modMe fun t => (t.setX x (v 1 ++ v 0)).setX (x + 1) (v 3 ++ v 2)).past 4)) ∧
  (∀ (s s1 : State) (a : BitVec 3) (x : BitVec 5) (k : BitVec 12) (r : Region) (e : BitVec 512) (f : Instr) (old : Option Nat),
    let key := (s.me.getL a).toNat
    let v := elemOf r.efmt (s.me.getX x)
    s.me.outstanding < 128 → s.issues f → s.shapeOf s.me r.shape r.efmt = some e → keyValid e key = true → r.agent = s.me →
    (f = .sld x a k → namedRegion f k false .sparse s = .ok r s → loadElem r key s = .ok old s1 →
      ∃ t, exec f s = .next t ∧ t.me.getX x = (if x = 0 then 0 else if r.efmt = 4 then (BitVec.ofNat 32 (old.getD 0)).signExtend 64
          else BitVec.ofNat 64 (old.getD 0)) ∧ t.me.pc = s.me.pc + 4 ∧ (x ≠ 0 → t.me.isPending (.x x) = true) ∧ s.keepsX [x] t ∧
        s.keepsRestWork t) ∧
    (∀ (put : Nat) (job : Option Nat) (s0 s2 : State),
      (f = .sst x a k ∧ put = v ∧ s0 = s) ∨
        (f = .sadd x a k ∧ put = elemAdd r.efmt (old.getD 0) v ∧ loadElem r key s = .ok old s0) →
      namedRegion f k true .sparse s = .ok r s → storeElem r (opNo a) key put s0 = .ok job s2 →
      ∃ t, exec f s = .next t ∧ t.me.pc = s2.me.pc + 4 ∧ t.mem = s2.mem ∧
        (∀ (sh : Shard) (s3 s4 : State), elemZero r.efmt put = true → reach r key s0 = .ok (some sh) s3 →
          lookupKey r sh key s3 = .ok none s4 → t.mem = s4.mem) ∧
        (∀ s3 : State, elemZero r.efmt put = true → reach r key s0 = .ok none s3 → t.mem = s3.mem)) ∧
    (∀ (put : Nat) (sh : Shard) (c : ControlBlock) (l : List (Nat × Nat)) (place : Nat → Nat) (s0 : State),
      (f = .sst x a k ∧ put = v ∧ s0 = s) ∨
        (f = .sadd x a k ∧ put = elemAdd r.efmt (old.getD 0) v ∧ loadElem r key s = .ok old s0) →
      namedRegion f k true .sparse s = .ok r s → r.oneLeaf place s0 c sh l → sh.holds key = true → c.nodefree = noNode →
      2 ≤ r.nodeRoom c → c.records + 1 < 2 ^ 40 → put < 2 ^ 64 →
      ∃ t, exec f s = .next t ∧ r.elemAt t key = some (if elemZero r.efmt put then none else some put) ∧
        ∀ z, z < 2 ^ 128 → z ≠ key → r.elemAt t z = r.elemAt s0 z) ∧
    (r.efmt = 4 → elemAdd r.efmt (old.getD 0) v = (old.getD 0 + (s.me.getX x).toNat % 2 ^ 32) % 2 ^ 32))

/-- Once the checks of R323 pass, kfirst and knext write 1 and the least key of the range (for knext above the cursor) to their destination and the lower register of the pair, or 0 and leave the pair; the destination and the cursor register are pending (R181, R191). kred forks a reduction with its range and waits in engwait at its pc (R60, R62, R192); the reduction adds the next record of its range in key order, one at a time, and with none left writes sum and count and lets the slot go on. A key engine's answer makes the register usable, a held keyed form is issued again unless a move is under way, an acknowledged prefix-cache invalidation drops the core's entries of the region, and once nobody owes one the entry is made valid and the form that made it is answered, or its move follows (R45, R48, R49, R290). That a reduction goes move by move is log 31, that a form is held and that a move waits for its entry is log 30: both DEDUCED readings of the model's. -/
def Obligations.KeyScans : Prop :=
  (∀ (s s1 s2 s3 : State) (x : BitVec 5) (a : BitVec 3) (k : BitVec 12) (f : Instr) (above : Nat) (r : Region) (lo hi : Nat)
      (found : Option (Shard × Nat × Nat)),
    (f, above) ∈ [(Instr.kfirst x a k, 0), (.knext x a k, 1)] → s.issues f → s.me.outstanding < 128 →
    scanRegion f a k s = .ok r s → scanBounds r a s = .ok (lo, hi) s1 →
    (do nextIn r (← shardsOf r (← readControl r)) (r.firstOf lo + above) (r.lastOf hi) : M (Option (Shard × Nat × Nat))) s1 = .ok found s2 →
    (found = none → ∃ t, exec f s = .next t ∧ t.me.getX x = 0 ∧ t.me.pc = s.me.pc + 4 ∧ t.me.isPending (.lb a) = true ∧
      (x ≠ 0 → t.me.isPending (.x x) = true) ∧ s.keepsX [x] t ∧ s.keepsRestWork t) ∧
    (∀ q w, found = some q → scanWord r q.2.1 s2 = .ok w s3 →
      ∃ t, exec f s = .next t ∧ t.me.getX x = (if x = 0 then 0 else 1) ∧ t.me.getL a = w ∧ t.me.pc = s.me.pc + 4 ∧
        t.me.isPending (.lb a) = true ∧ (x ≠ 0 → t.me.isPending (.x x) = true) ∧ s.keepsX [x] t ∧
        s.keepsL [a] t ∧ s.keepsV [] t ∧ s.keepsM [] t ∧ t.me.fflags = s.me.fflags ∧ s.keepsMoreWork t)) ∧
  (∀ (s s1 : State) (x : BitVec 5) (c : BitVec 3) (k : BitVec 12) (f : Instr) (n efmt lo hi : Nat) (r : Region),
    (f, efmt, n) ∈ [(Instr.kredI32 x c k, 4, 4), (.kredI64 x c k, 5, 8), (.kredF32 x c k, 1, 4), (.kredF64 x c k, 0, 8)] →
    s.issues f → s.me.flights = [] → scanRegion f c k s = .ok r s →
    (if r.sparse then s.me.getX x = 0 ∧ r.efmt = efmt
      else (s.me.getX x).toNat % n = 0 ∧ (s.me.getX x).toNat + n ≤ r.recordBytes) → scanBounds r c s = .ok (lo, hi) s1 →
    ∃ t, exec f s = .next t ∧ t.me = s1.me.park .engwait (.engine .kred) ∧ t.mem = s1.mem ∧
      ∃ g : Reduction, t.reductions = s1.reductions ++ [g] ∧ g.core = s.cur.core ∧ g.slot = s.cur.slot ∧ g.region = k ∧
        g.entry = r.entry ∧ g.era = r.era ∧ g.off = (s.me.getX x).toNat ∧ g.lo = lo ∧ g.hi = hi ∧ g.last = none ∧ g.sum = 0 ∧ g.count = 0) ∧
  (∀ (s s1 s2 : State) (g : Reduction) (i : Instr) (d : BitVec 5) (efmt lo : Nat) (combs : List CombId) (r : Region)
      (found : Option (Shard × Nat × Nat)),
    let s0 : State := { s with cur := { core := s.args.core, slot := s.args.slot } }
    s0.me.wait = .engine .kred → firstOf (fun f : Reduction => f.place s.args.core s.args.slot) s.reductions = some g →
    (decode g.insn).toOption.bind kredParts = some (i, d, efmt) → readCombs g.agent g.entry causeConverted 0 s0 = .ok combs s0 →
    r = { form := i, index := g.region, agent := g.agent, entry := g.entry, combs := combs, era := g.era } →
    lo = (match g.last with | some p => r.firstOf p + 1 | none => r.firstOf g.lo) →
    (do nextIn r (← shardsOf r (← readControl r)) lo (r.lastOf g.hi) : M (Option (Shard × Nat × Nat))) s0 = .ok found s1 →
    (found = none → ∃ t, exec .kredComplete s = .next t ∧ t.me.getX d = (if d = 0 then 0 else kredValue efmt g.sum) ∧
      t.me.getX (d + 1) = (if d + 1 = 0 then 0 else BitVec.ofNat 64 g.count) ∧ t.me.pc = s0.me.pc + 4 ∧ t.me.state = .run ∧
      t.mem = s1.mem ∧ ∀ f ∈ t.reductions, f.place s.args.core s.args.slot = false) ∧
    (∀ (e : Shard) (p v x : Nat), found = some (e, p, v) → kredField r efmt g.off v s1 = .ok x s2 →
      let h : Reduction := { g with
        last := some (if r.sparse then p else p / 2 ^ 24), sum := elemAdd efmt g.sum x, count := g.count + 1, heldSince := none }
      let t : State := { s2 with reductions := replaceFirst (fun f : Reduction => f.place g.core g.slot) h s2.reductions }
      exec .kredComplete s = .next (t.post .kredComplete s.args 1))) ∧
  (∀ s : State, ∃ t, exec .keyEngineAnswer s = .next t ∧
    (t.slot s.args.core s.args.slot).flights =
      removeFirst (fun f => f.reg = s.args.reg && f.line.isNone) (s.slot s.args.core s.args.slot).flights ∧
    (t.slot s.args.core s.args.slot).x = (s.slot s.args.core s.args.slot).x ∧ t.mem = s.mem) ∧
  (∀ (s : State) (r : BitVec 12), (s.slot s.args.core s.args.slot).wait = .region r →
    s.moveUnderWay (s.slot s.args.core s.args.slot).tenant r = false →
    exec .heldKeyedRequest s = .next (s.modSlot s.args.core s.args.slot Slot.unpark)) ∧
  (∀ (s s1 : State) (j : PrefixJob), s.prefixJobs = [j] → j.id = s.args.num →
    (∃ t, exec .prefixInvalidate s = .next t ∧ (∀ p ∈ (t.core s.args.core).prefixes, ¬(p.tenant = j.tenant ∧ p.region = j.region)) ∧
      (∀ u ∈ t.prefixJobs, s.args.core ∉ u.owed) ∧ t.mem = s.mem) ∧
    (∀ a new, j.move = some (a, new) → j.entry < shardLimit →
      (setValid j).run { s with prefixJobs := [], cur := { core := j.core, slot := j.slot } } = .ok () s1 → s1.prefixJobs = [] →
      ∃ t, exec .prefixEntryActivate s = .next t ∧ t.mem = s1.mem ∧ t.prefixJobs = [{ j with entry := shardLimit }] ∧
        ∃ d ∈ t.agenda, d.event.kind = .prefixEntryActivate ∧ d.event.args = s.args) ∧
    (∀ a new, j.move = some (a, new) → shardLimit ≤ j.entry →
      (finishMove j a new).run { s with prefixJobs := [], cur := { core := j.core, slot := j.slot } } = .ok () s1 →
      exec .prefixEntryActivate s = .next s1) ∧
    (j.move = none → (setValid j).run { s with prefixJobs := [], cur := { core := j.core, slot := j.slot } } = .ok () s1 →
      exec .prefixEntryActivate s = .next (match j.answer with
        | some q => s1.modSlot j.core j.slot fun t => t.land q
        | none => s1)))

/-- A request, write-back, forward, answer, invalidation, acknowledgement, grant, discovery, directory drop or eviction, and a core that power-gates or is up again, changes no byte of memory, scratchpad or mailbox, no full/empty bit and nothing of any slot but its results in flight. A request, write-back, answer or acknowledgement that carries an old incarnation is discarded and counted, and does nothing else; an invalidation or a grant that carries one does nothing (R79 to R85, R304, R320; of these two R320 says nothing, and it is the model's reading, log 19, DEDUCED). -/
def Obligations.CoherenceFrame : Prop :=
  ∀ (s : State) (f : Instr),
    f ∈ [Instr.rds, .rdx, .upg, .wb, .forward, .ownerAnswer, .invalidation, .invalidationAck, .grant, .discoveryProbe, .discoveryAnswer,
      .directoryDrop, .lineEviction, .powerGate, .powerUpComplete] →
    ∃ t, exec f s = .next t ∧ s.keepsBytes t ∧ s.keepsFull t ∧ s.keepsWork t ∧
      ((s.core s.args.core).inc4 ≠ s.args.inc →
        (f ∈ [Instr.rds, .rdx, .upg, .wb] → t = { s.noteArrival with
          controller := { s.controller with discarded := s.controller.discarded + 1 } }) ∧
        (f ∈ [Instr.ownerAnswer, .invalidationAck] → t = { s with
          controller := { s.controller with discarded := s.controller.discarded + 1 } }) ∧
        (f ∈ [Instr.invalidation, .grant] → t = s))

/-- At a quiet directory entry a request goes to a live owner elsewhere, or is granted: E to a read and M to a write of a line that nobody holds. A forwarded read leaves the owner with O or S, a forwarded write with no copy; an invalidation leaves no copy, and its acknowledgement says whether an upgrade in flight lost one; a grant puts the line there in the state granted, or leaves the state of a line that is there and gets sectors alone (the model's choice, log 55, DESIGN CHOICE); an owner's answer that it gave the line up, the last acknowledgement and the last empty discovery make the requester the owner; a write-back to a quiet entry ends the ownership; an entry in X may be dropped; an evicted line leaves the core, written back when dirty; a core that is at rest power-gates without lines or TLB entries, and is powered again when it is up (R79 to R85, R304). -/
def Obligations.CoherenceEffects : Prop :=
  ∀ (s : State) (d : DirEntry) (r : LineRequest) (o : CoreId) (n : BitVec 4) (l : CacheLine),
    let a := s.args
    let q := s.core a.core
    let owns (t : State) (c : CoreId) (i : BitVec 4) : Prop :=
      ∃ e, t.findDir a.tag a.comb = some e ∧ e.state = .x ∧ e.owner = some (c, i) ∧ e.serving = none
    (q.inc4 = a.inc → s.findDir a.tag a.comb = some d → d.quiet = true →
      (∀ f ∈ [Instr.rds, .rdx, .upg], d.state = .x → d.owner = some (o, n) → (s.core o).dead = false → (s.core o).inc4 = n →
        ∃ t e, exec f s = .next t ∧ t.findDir a.tag a.comb = some e ∧ e.state = .fwd ∧
          (∃ m ∈ t.agenda, m.event.kind = .forward ∧ m.event.args.core = o ∧ m.event.args.tag = a.tag ∧ m.event.args.flag = decide (f ≠ .rds))) ∧
      (∀ f ∈ [Instr.rds, .rdx, .upg], d.state = .u → d.owner = none → d.sharers = 0 →
        ∃ t, exec f s = .next t ∧ owns t a.core a.inc ∧ (∃ m ∈ t.agenda, m.event.kind = .grant ∧ m.event.args.core = a.core ∧
          m.event.args.tag = a.tag ∧ m.event.args.st = if f = .rds then .e else .m)) ∧
      (d.state = .x → d.owner = some (a.core, n) → ∃ t e, exec .wb s = .next t ∧ t.findDir a.tag a.comb = some e ∧ e.owner = none ∧
        e.state = if d.sharers = 0 then .u else .s) ∧
      (d.state = .x → ∃ t, exec .directoryDrop s = .next t ∧
        t = { s with dir := removeFirst (fun e => e.tag = a.tag && e.home = a.comb) s.dir })) ∧
    (q.inc4 = a.inc → s.findDir a.tag a.comb = some d → d.serving = some r → d.queue = [] →
      (d.state = .fwd → d.owner = some (a.core, n) → a.reply = .gaveUp → ∃ t, exec .ownerAnswer s = .next t ∧ owns t r.core r.inc) ∧
      (d.state = .inv → d.owner = none → d.owed = [a.core] → r.want ≠ .read →
        ∃ t, exec .invalidationAck s = .next t ∧ owns t r.core r.inc) ∧
      (d.state = .dsc → a.num = a.comb.toNat → d.owedCombs = [a.comb] → a.owner = none → d.foundOwner = none → d.sharers = 0 →
        ∃ t, exec .discoveryAnswer s = .next t ∧ owns t r.core r.inc)) ∧
    (q.dead = false → q.inc4 = a.inc → a.owner ≠ some a.core → q.findLine a.tag = some l →
      ∃ t, exec .forward s = .next t ∧
        (a.flag = false → l.state ∈ [LineState.m, .o] → (t.core a.core).findLine a.tag = some { l with state := .o }) ∧
        (a.flag = false → l.state = .e → (t.core a.core).findLine a.tag = some { l with state := .s }) ∧
        (a.flag = true → l.state ∈ [LineState.m, .o, .e] → (t.core a.core).findLine a.tag = none)) ∧
    (q.dead = false → q.inc4 = a.inc → ∃ t, exec .invalidation s = .next t ∧ (t.core a.core).findLine a.tag = none ∧
      t.agenda = s.agenda ++ [{ after := s.now, event := { kind := .invalidationAck, args :=
        { core := a.core, inc := q.inc4, tag := a.tag, comb := a.comb,
          flag := someOf (fun m : Miss => m.tag = a.tag && m.want = .upgrade) q.misses } } }]) ∧
    (q.dead = false → q.inc4 = a.inc → ∃ t e, exec .grant s = .next t ∧ (t.core a.core).findLine a.tag = some e ∧
      e.state = match q.findLine a.tag with | some k => if a.st = .m then a.st else k.state | none => a.st) ∧
    ((∀ c ∈ coresOfComb a.comb, ∀ e, (s.core c).findLine a.tag = some e → e.state = .s ∨ e.state = .i) →
      exec .discoveryProbe s = .next (s.post .discoveryAnswer { comb := a.comb, num := a.num, tag := a.tag, owner := none })) ∧
    (q.findLine a.tag = some l → (∀ m ∈ q.misses, m.tag ≠ a.tag) → ∃ t, exec .lineEviction s = .next t ∧ (t.core a.core).findLine a.tag = none ∧
      t.agenda.length = s.agenda.length + (if l.state = .m ∨ l.state = .o then 1 else 0)) ∧
    (q.power = .on → q.dead = false → (∀ k, gateable (s.slot a.core k).state = true ∧ (s.slot a.core k).stopped = false) → q.enginesIdle = true → q.inbox = [] → q.misses = [] →
      ∃ t, exec .powerGate s = .next t ∧ (t.core a.core).power = .gated ∧ (t.core a.core).lines = [] ∧ (t.core a.core).tlb = []) ∧
    (∃ t, exec .powerUpComplete s = .next t ∧ (t.core a.core).power = .on ∧ (t.core a.core).heldAtComb = [])

/-- Declaring a core dead advances its incarnation, retires its slots, empties its caches and removes its waiters, and every word of a line it held in M or O, or was writing back, is uncorrectable from then on, with every other byte kept; a corrected error is counted and changes no register and no byte; a home whose wait for the one core that owes an acknowledgement runs out declares it dead; a dead-core record is written once its area's notice word is empty, with the count of discarded messages beside it (R319, R320, R321). Which events bring a dead core and a corrected error in (coreDeclaredDead, with args.num 0 for a corrected error) is the model's choice (log 45, DESIGN CHOICE). -/
def Obligations.DeadCores : Prop :=
  (∀ s : State,
    let c := s.args.core
    (s.args.num = 0 → ∃ t, exec .coreDeclaredDead s = .next t ∧ t.controller.corrected = s.controller.corrected + 1 ∧
      t.cores = s.cores ∧ t.mem = s.mem) ∧
    ((s.core c).dead = false → s.args.num ≠ 0 → s.args.code ≠ 3 →
    ∃ t, exec .coreDeclaredDead s = .next t ∧ (t.core c).dead = true ∧ (t.core c).inc4 = (s.core c).inc4 + 1 ∧ (t.core c).lines = [] ∧
      (∀ k, (t.slot c k).state = .idle) ∧ (∀ w ∈ t.waiters, w.ofCore c = false) ∧ (∀ d, (t.core d).mail = (s.core d).mail) ∧
      (∀ m, (∀ l ∈ s.lostWith c, ∀ a, s.lineAddr l = some a → ∀ i < 128, m ≠ .mem (a + i)) → t.readLoc m 1 = s.readLoc m 1) ∧
      (∀ l ∈ s.lostWith c, ∀ a, s.lineAddr l = some a → ∀ i < 16, t.isBad (.mem (a + 8 * i)) = true) ∧
      (∀ l ∈ (s.core c).lines, l.state = .m ∨ l.state = .o → l.tag ∈ s.lostWith c))) ∧
  (∀ (s : State) (d : DirEntry) (c : CoreId), s.findDir s.args.tag s.args.comb = some d → d.since = s.args.num → d.state = .inv → d.owed = [c] →
    ∃ t, exec .answerTimeout s = .next t ∧ (t.core c).dead = true) ∧
  (∀ (s : State) (c : CoreId) (notice : Word) (lost : List LineTag) (r : List (CoreId × Word × List LineTag)),
    let a := deadArea (s.core c).pbase
    s.controller.deadRecords = (c, notice, lost) :: r →
    (s.memFull a = true → exec .deadCoreRecord s = .next s) ∧
    (s.memFull a = false → (∀ w ∈ s.waiters, w.loc ≠ .line { tenant := hvTenant, line := BitVec.ofNat 33 (a / 128) } (a % 128)) →
      ∃ t, exec .deadCoreRecord s = .next t ∧ t.controller.deadRecords = r ∧ t.memFull a = true ∧ t.memRead a 8 = notice.toNat ∧
        t.memRead (a + 8) 8 = s.controller.discarded % 2 ^ 64))

/-- spawn adds a record of the parent's continuation at the bottom of a deque with room and counts it in the frame, or, with the deque full, notes an inline call in x1, and goes to its target; sret returns from an inline call, takes the newest record of its own frame back, or, with the frame's count at its last and no record, lets the slot that waits in joinwait for the frame go on and ends the slot's work; sync goes on at count 0 and else records the slot in the frame and waits; yield marks the slot; hop, and hopk to a region homed elsewhere, send the light thread's state to the core, hopk by way of its home comb's router, and leave the slot idle at a new incarnation, and hopk within its own comb, or to a comb with no core of its partition, goes on; stop outside a chain frees the accumulators and ends the slot's work, once no operation of an accumulator it owns is queued (R93, R101 to R103, R201 to R204). What sync records in frame word 1, the slot's own checked destination word, and how sret reads it is the model's reading (log 28, DEDUCED), and so is that a hop takes an entry of the interface (log 61, DESIGN CHOICE). -/
def Obligations.TasksAndHops : Prop :=
  (∀ (s : State) (x : BitVec 5) (i : BitVec 12),
    let f := s.me.getX x
    s.issues (.spawn x i) → f.toNat % 16 = 0 →
    (256 ≤ s.myCore.deque.length →
      ∃ t, exec (.spawn x i) s = .next t ∧ t.me.getX 1 = (s.me.pc + 4) ||| 1 ∧ t.me.pc = s.me.pc + i.signExtend 64 * 4 ∧
        t.myCore.deque = s.myCore.deque ∧ s.keepsX [1] t ∧ s.keepsRest t ∧ s.keepsBytes t ∧ s.keepsFull t) ∧
    (∀ l, s.myCore.deque.length < 256 → (s.locate s.cur.core s.me f 8 .rmw).toOption = some l → s.badWord l.place f 8 = none →
      ∃ t r, exec (.spawn x i) s = .next t ∧ t.me.getX 1 = f ∧ t.me.pc = s.me.pc + i.signExtend 64 * 4 ∧
        t.readLoc l.place 8 = (s.readLoc l.place 8 + 1) % 2 ^ 64 ∧ t.myCore.deque = s.myCore.deque ++ [r] ∧
        r.pc = s.me.pc + 4 ∧ r.frame = f ∧ r.slot = s.cur.slot ∧ r.inc = s.me.inc ∧ r.tenant = s.me.tenant ∧ r.priv = s.me.priv ∧
        r.x3 = s.me.getX 3 ∧ r.x4 = s.me.getX 4 ∧ (∀ n : Fin 8, r.h[n] = s.me.getX (24 + BitVec.ofNat 5 n.val)) ∧
        s.keepsX [1] t ∧ s.keepsRestWork t ∧
        (∀ m, (∀ n < 8, m ≠ l.place.plus n) → (∀ c o, m = .spad c o → o < (s.core c).dequeBase) → t.readLoc m 1 = s.readLoc m 1))) ∧
  (∀ s : State, s.issues .sret →
    let f := s.me.getX 1
    let mine (r : Continuation) : Bool := r.slot = s.cur.slot && r.inc = s.me.inc && r.tenant = s.me.tenant && r.frame = f
    (f.getLsbD 0 = true → f.getLsbD 1 = false →
      ∃ t, exec .sret s = .next t ∧ t.me.pc = f - 1 ∧ s.keepsX [] t ∧ s.keepsRest t ∧ s.keepsBytes t ∧ s.keepsFull t) ∧
    (∀ l, f.toNat % 16 = 0 → (s.locate s.cur.core s.me f 8 .rmw).toOption = some l → s.badWord l.place f 8 = none →
      (∀ q r, s.readLoc l.place 8 ≠ 1 → s.myCore.deque = q ++ [r] → mine r = true →
        ∃ t, exec .sret s = .next t ∧ t.me.pc = r.pc ∧ t.me.mfmt = r.mfmt.setWidth 4 ∧ t.myCore.deque = q ∧
          t.readLoc l.place 8 = (s.readLoc l.place 8 + (2 ^ 64 - 1)) % 2 ^ 64 ∧ s.keepsX [] t ∧ s.keepsOthersWork t) ∧
      (∀ w, s.readLoc l.place 8 = 1 → (∀ r ∈ s.myCore.deque, mine r = false) → w = BitVec.ofNat 64 (s.readLoc (l.place.plus 8) 8) → w ≠ 0 →
        s.isBad (l.place.plus 8) = false → s.me.gang = none → s.parked = [] → (s.core (destCore w)).forwarding = [] →
        (s.core (destCore w)).power = .on → s.heldLeft (destCore w) = false → ¬(destCore w = s.cur.core ∧ destSlot w = s.cur.slot) →
        (s.slot (destCore w) (destSlot w)).state = .joinwait → (s.slot (destCore w) (destSlot w)).wait = .frame f →
        (s.slot (destCore w) (destSlot w)).inc = destInc w →
        ∃ t, exec .sret s = .next t ∧ t.me.state = .idle ∧ t.me.inc = s.me.inc + 1 ∧ t.readLoc l.place 8 = 0 ∧
          t.readLoc (l.place.plus 8) 8 = 0 ∧ (t.slot (destCore w) (destSlot w)).state = .run ∧
          (t.slot (destCore w) (destSlot w)).pc = (s.slot (destCore w) (destSlot w)).pc + 4))) ∧
  (∀ (s : State) (x : BitVec 5) (l : Loc),
    let f := s.me.getX x
    s.issues (.sync x) → f.toNat % 16 = 0 → (s.locate s.cur.core s.me f 8 .rmw).toOption = some l → s.badWord l.place f 8 = none →
    (s.readLoc l.place 8 = 0 →
      ∃ t, exec (.sync x) s = .next t ∧ t.me.pc = s.me.pc + 4 ∧ s.keepsX [] t ∧ s.keepsRestWork t ∧ s.keepsBytes t ∧ s.keepsFull t) ∧
    (s.readLoc l.place 8 ≠ 0 →
      ∃ t, exec (.sync x) s = .next t ∧ { t.me with flights := [] } = { s.me.park .joinwait (.frame f) with flights := [] } ∧
        s.keepsBytesBut (l.place.plus 8) 8 t ∧
        t.readLoc (l.place.plus 8) 8 = (s.checkedWord s.cur.core s.cur.slot).toNat)) ∧
  (∀ s : State, s.issues .yield → exec .yield s = .next ((s.modMe fun t => { t with yielded := true }).past 4)) ∧
  (∀ (s u : State) (f : Instr) (c : CoreId) (x : BitVec 5) (a : BitVec 3) (k : BitVec 12) (home : Option CombId),
    s.issues f → s.me.light = true → s.holdsClass s.cur.core s.cur.slot = false → s.me.form = none → s.cur.slot ≠ forager →
    u.me.flights = [] → u.myCore.iface.length < 8 →
    (f = .hop x ∧ u = s ∧ home = none ∧ s.me.getX x = c.setWidth 64 ∧ s.inPartition s.cur.core c = true) ∨
      (f = .hopk a k ∧ ∃ r b, namedRegion f k false .either s = .ok r s ∧ checkPlace r a s = .ok () s ∧ homeComb r a s = .ok b u ∧
        home = some b ∧ b ≠ combOf s.cur.core ∧ firstOf (u.inPartition s.cur.core) (coresOfComb b) = some c) →
    ∃ t, exec f s = .next t ∧ t.me.state = .idle ∧ t.me.inc = s.me.inc + 1 ∧
      ∃ d ∈ t.agenda, d.event.kind = .messageArrival ∧ d.event.args.core = c ∧
        ∃ m, d.event.args.msg = some m ∧ m.body = .hop u.me.pack home ∧ m.tenant = u.me.tenant ∧ m.cls = 0) ∧
  (∀ (s u : State) (a : BitVec 3) (k : BitVec 12) (r : Region) (b : CombId),
    s.issues (.hopk a k) → s.me.light = true → s.holdsClass s.cur.core s.cur.slot = false → s.me.form = none → s.cur.slot ≠ forager →
    namedRegion (.hopk a k) k false .either s = .ok r s → checkPlace r a s = .ok () s → homeComb r a s = .ok b u →
    b = combOf s.cur.core ∨ firstOf (u.inPartition s.cur.core) (coresOfComb b) = none →
    ∃ t, exec (.hopk a k) s = .next t ∧ t.me.pc = u.me.pc + 4 ∧ t.me.state = u.me.state ∧ t.mem = u.mem) ∧
  (∀ s : State, s.issues .stop → s.me.flights = [] → s.me.form = none →
    (∀ z, s.myCore.busyAccumulator s.cur.slot = some z → exec .stop s = .next (s.waits (.release z))) ∧
    (s.myCore.busyAccumulator s.cur.slot = none →
      ∃ t, exec .stop s = .next t ∧ t.me.state = .idle ∧ t.me.inc = s.me.inc + 1 ∧
        ∀ (z : Fin 4) o, t.myCore.zaOwner[z] = some o → o.1 ≠ s.cur.slot))

/-- The lowest idle general slot takes, as the row says, the oldest class-0 message (a launch, with its arguments and the sender in registers; a hop, with the thread it carries), the newest record of its own deque, or the oldest record of a victim's that has power; a launch for the forager starts it when it is idle. ganggo queues its gang at its die, and traps with 0x0A, sub 7, where an entry breaks the layout of R98 (R341); once every slot and barrier is there the members begin together, each with its rank, and until then the gang keeps what it has reserved. gbar waits in barwait, and with the last active member every waiting one goes on behind its gbar (R88, R90, R98 to R104, R205, R206). That a gang's members begin at its pc with bits [1:0] cleared is the model's choice (log 56, DESIGN CHOICE). -/
def Obligations.WorkStarts : Prop :=
  (∀ (s : State) (m : Message) (k : SlotId) (r : Continuation),
    let c := s.args.core
    let q := s.core c
    (s.args.slot ≠ forager → (s.freeSlots c).head? = some k → s.oldestWork c = some m → m.body = .plain →
      ∃ t, exec .launch s = .next t ∧ (t.slot c k).state = .run ∧ (t.slot c k).pc = m.payload[0] &&& ~~~3 ∧
        (t.slot c k).getX 2 = q.stackTop k ∧ (t.slot c k).getX 10 = m.payload[1] ∧ (t.slot c k).getX 11 = m.payload[2] ∧
        (t.slot c k).getX 14 = m.sender ∧ (t.slot c k).tenant = m.tenant ∧ (t.slot c k).light = m.payload[0].getLsbD 0 ∧
        (t.slot c k).inc = (s.slot c k).inc) ∧
    (s.args.slot = forager → s.foragerWork c = some m → s.isFree c forager = true →
      ∃ t, exec .launch s = .next t ∧ (t.slot c forager).state = .run ∧ (t.slot c forager).pc = m.payload[0] &&& ~~~3) ∧
    (∀ h b, (s.freeSlots c).head? = some k → s.oldestWork c = some m → m.body = .hop h b →
      ∃ t, exec .hopArrival s = .next t ∧ (t.slot c k).state = .run ∧ (t.slot c k).pc = h.pc ∧ (t.slot c k).light = true ∧
        (t.slot c k).fflags = h.fflags ∧ (t.slot c k).getX 1 = h.xs[0] ∧ (t.slot c k).getX 2 = q.stackTop k ∧
        (∀ n : Fin 13, (t.slot c k).getX (3 + BitVec.ofNat 5 n.val) = h.xs[n.val + 1]) ∧
        (∀ n : Fin 4, (t.slot c k).getL (BitVec.ofNat 3 n.val) = h.lbs[n])) ∧
    (∀ l, (s.freeSlots c).head? = some k → q.deque = l ++ [r] → s.serves c r.tenant = true →
      ∃ t, exec .dequePop s = .next t ∧ (t.core c).deque = l ∧ (t.slot c k).state = .run ∧ (t.slot c k).pc = r.pc ∧
        (t.slot c k).getX 2 = q.stackTop k ∧ (t.slot c k).getX 3 = r.x3 ∧ (t.slot c k).getX 4 = r.x4 ∧
        (∀ n : Fin 8, (t.slot c k).getX (24 + BitVec.ofNat 5 n.val) = r.h[n]) ∧ (t.slot c k).tenant = r.tenant) ∧
    (∀ l v, (s.freeSlots c).head? = some k → s.victim c = some v → (s.core v).deque = r :: l → s.serves c r.tenant = true →
      (s.core v).power = .on → s.heldLeft v = false →
      ∃ t, exec .steal s = .next t ∧ (t.core v).deque = l ∧ (t.slot c k).state = .run ∧ (t.slot c k).pc = r.pc ∧
        (t.slot c k).getX 3 = r.x3 ∧ (t.slot c k).tenant = r.tenant)) ∧
  (∀ (s : State) (x : BitVec 5) (e : BitVec 512),
    let idx : BitVec 16 := (s.me.getX x).extractLsb' 0 16
    let first := gangFirst e
    s.issues (.ganggo x) → useObject (.ganggo x) idx 5 s = .ok e s → first + gangCores e ≤ 2048 →
    first / 512 = (first + gangCores e - 1) / 512 → (∀ c, first ≤ c → c < first + gangCores e → s.inPartition s.cur.core (BitVec.ofNat 11 c) = true) →
    field e 355 7 = 0 → gangSpc e ≠ 0 → gangNbar e ≤ 4 →
    ∃ t, exec (.ganggo x) s = .next t ∧ t.gangs = s.gangs ++ [gangOf e s.fresh idx s.me] ∧ t.fresh = s.fresh + 1 ∧
      t.admission[first / 512]? = (s.admission[first / 512]?).map (fun l => l ++ [s.fresh]) ∧ t.me.pc = s.me.pc + 4 ∧
      s.keepsX [] t ∧ s.keepsRest t ∧ s.keepsBytes t ∧ s.keepsFull t) ∧
  (∀ (s : State) (x : BitVec 5) (e : BitVec 512),
    let idx : BitVec 16 := (s.me.getX x).extractLsb' 0 16
    s.issues (.ganggo x) → useObject (.ganggo x) idx 5 s = .ok e s → field e 355 7 ≠ 0 ∨ gangSpc e = 0 ∨ 4 < gangNbar e →
    exec (.ganggo x) s = .next (s.traps 0x0A (xvalObject (.ganggo x) idx 7))) ∧
  (∀ (s : State) (g : Gang) (l : List (CoreId × SlotId)),
    s.headGang s.args.die = some g → l = (s.collect g).members →
    let full := allOf (fun c => ((s.collect g).heldAt c).length = g.spc) g.cores && allOf (fun b => s.barriersHeld b + g.nbar ≤ 16) (combsOf g.cores)
    (full = false → exec .gangAdmission s = .next (s.putGang (s.collect g))) ∧
    (full = true → l.Nodup →
      ∃ t, exec .gangAdmission s = .next t ∧ t.admission[s.args.die.toNat]? = (s.admission[s.args.die.toNat]?).map List.tail ∧
        ∀ m r, (m, r) ∈ l.zipIdx → (t.slot m.1 m.2).state = .run ∧ (t.slot m.1 m.2).pc = g.pc &&& ~~~3#64 ∧ (t.slot m.1 m.2).gang = some (g.id, r) ∧
          (t.slot m.1 m.2).getX 10 = g.arg ∧ (t.slot m.1 m.2).getX 11 = BitVec.ofNat 64 r ∧ (t.slot m.1 m.2).priv = g.priv)) ∧
  (∀ (s : State) (n : BitVec 2) (id rank : Nat) (g : Gang),
    let here := (g.arrived[n.toNat]?).getD []
    s.issues (.gbar n) → s.me.gang = some (id, rank) → s.findGang id = some g → n.toNat < g.nbar →
    (here.length + 1 ≠ g.active.length → ∃ t, exec (.gbar n) s = .next t ∧ t.me = s.me.park .barwait (.barrier id n)) ∧
    (here.length + 1 = g.active.length → s.parked = [] → (here ++ [(s.cur.core, s.cur.slot)]).Nodup →
      ∃ t, exec (.gbar n) s = .next t ∧ ∀ m ∈ here ++ [(s.cur.core, s.cur.slot)], (t.slot m.1 m.2).state = .run ∧
        (t.slot m.1 m.2).pc = (s.slot m.1 m.2).pc + 4))

/-- A send that passes its checks (tenant 0xFFFF, H, sends to any core and endpoint: the model's reading, log 17, DEDUCED) leaves when the interface has room, for its core if that is in this package, and msendnb writes 0; with no room msend waits and msendnb writes 1. mdone ends a handler and wfm waits for a message, both in msgwait; mbind binds a class to the slot with its handler, waiting for a message unless told not to, or unbinds it, leaving no message of the class in the queue. mbput fills an empty mailbox word, and mbget takes a full one, each with fewer than 128 accesses outstanding (R133). wake sends its message, to a peer in a packet unless the tenant does not reach it (the model's choice, log 63, DESIGN CHOICE), from S only where its word holds no operation (R96, R207 to R210, R228, R229, R296, R297). -/
def Obligations.MessageForms : Prop :=
  (∀ (s : State) (d x p : BitVec 5) (c : BitVec 3) (f : Instr),
    let w := s.me.getX x
    let last := s.me.getX (p + 3)
    f ∈ [Instr.msend x p c, .msendnb d x p c] → s.issues f → destZero w = true → (f = .msend x p c → s.holdsClass s.cur.core s.cur.slot = false) →
    (destPackage w = s.endpoint → s.me.tenant ≠ hvTenant → s.inPartition s.cur.core (destCore w) = true) →
    (c = 0 → last.toNat < 4 ∧ (last.extractLsb' 0 2).toNat ≤ s.me.priv.code.toNat) →
    s.reaches s.cur.core s.me.tenant (destPackage w) = true →
    (s.myCore.iface.length < 8 → ∃ t, exec f s = .next t ∧ t.me.pc = s.me.pc + 4 ∧ (f = .msendnb d x p c → t.me.getX d = 0) ∧
      (destPackage w = s.endpoint → ∃ e ∈ t.agenda, e.event.kind = .messageArrival ∧ e.event.args.core = destCore w ∧
        ∃ m, e.event.args.msg = some m ∧ m.dest = w ∧ m.cls = c ∧ m.sender = s.senderWord s.cur.core s.cur.slot ∧ m.tenant = s.me.tenant ∧
          m.payload = #v[s.me.getX p, s.me.getX (p + 1), s.me.getX (p + 2), last]) ∧
      s.keepsX (if f = .msend x p c then [] else [d]) t ∧ s.keepsRest t ∧ s.keepsBytes t ∧ s.keepsFull t) ∧
    (8 ≤ s.myCore.iface.length →
      (f = .msend x p c → exec f s = .next (s.modMe fun t => t.park .memwait .interface)) ∧
      (f = .msendnb d x p c → exec f s = .next (s.wrote d 1)))) ∧
  (∀ (s : State) (k : BitVec 3), s.issues .mdone →
    (s.me.handler = some k → exec .mdone s = .next (s.modMe fun t => { t.park .msgwait .none with handler := none })) ∧
    (s.me.handler = none → exec .mdone s = .next (s.traps 0x12 (xvalUnit .mdone 0 2)))) ∧
  (∀ s : State, s.issues .wfm → s.me.handler = none →
    (s.holdsClass s.cur.core s.cur.slot = true → exec .wfm s = .next (s.modMe fun t => t.park .msgwait .none)) ∧
    (s.holdsClass s.cur.core s.cur.slot = false → exec .wfm s = .next (s.traps 0x12 (xvalUnit .wfm 0 4)))) ∧
  (∀ (s : State) (x : BitVec 5) (c : BitVec 3) (n : Fin 8) (pc : Word),
    let w := s.me.getX x
    s.issues (.mbind x c) → c ≠ 0 → n.val = c.toNat → (s.me.priv = .u → c = 7) →
    (4 ≤ w.toNat → s.myCore.bindings[n] = none →
      ∃ t, exec (.mbind x c) s = .next t ∧ t.myCore.bindings[n] = some (s.cur.slot, w &&& ~~~3) ∧ s.keepsX [] t ∧
        (w.getLsbD 0 = true → t.me.pc = s.me.pc + 4 ∧ t.me.state = s.me.state) ∧
        (w.getLsbD 0 = false → t.me.pc = s.me.pc ∧ t.me.state = .msgwait)) ∧
    (w.toNat < 4 → s.myCore.bindings[n] = some (s.cur.slot, pc) →
      ∃ t, exec (.mbind x c) s = .next t ∧ t.myCore.bindings[n] = none ∧ (∀ m ∈ t.myCore.inbox, m.cls ≠ c) ∧ t.me.pc = s.me.pc + 4 ∧
        s.keepsX [] t)) ∧
  (∀ (s : State) (d x : BitVec 5) (b : BitVec 3) (w : BitVec 2),
    let l := WordLoc.mail s.cur.core b w
    (∀ q ∈ s.waiters, q.loc ≠ .mail s.cur.core b w) →
    (s.issues (.mbput b x w) → s.me.outstanding < 128 → s.isFull l = false →
      ∃ t, exec (.mbput b x w) s = .next t ∧ t.readLoc l 8 = (s.me.getX x).toNat ∧ t.isFull l = true ∧ t.me.pc = s.me.pc + 4 ∧ s.keepsX [] t) ∧
    (s.issues (.mbget d b w) → s.cur.slot = forager → s.me.outstanding < 128 → s.isFull l = true →
      ∃ t, exec (.mbget d b w) s = .next t ∧ t.me.getX d = (if d = 0 then 0 else BitVec.ofNat 64 (s.readLoc l 8)) ∧ t.isFull l = false ∧
        t.me.pc = s.me.pc + 4 ∧ s.keepsX [d] t) ∧
    (s.issues (.mbget d b w) → s.cur.slot ≠ forager →
      exec (.mbget d b w) s = .next (s.traps 0x12 (xvalUnit (.mbget d b w) (b.setWidth 8) 6)))) ∧
  (∀ (s : State) (x : BitVec 5),
    let w := s.me.getX x
    let op := w.extractLsb' 44 2
    s.issues (.wake x) →
    (op = 0 ∨ (s.me.priv = .h ∧ w.getLsbD 46 = false) → destPackage w = s.endpoint →
      exec (.wake x) s = .next ((s.post (wakeEvent w) { core := destCore w, slot := destSlot w, word := w, tenant := s.me.tenant } 1).past 4)) ∧
    (op = 0 ∨ (s.me.priv = .h ∧ w.getLsbD 46 = false) → destPackage w ≠ s.endpoint →
      exec (.wake x) s = .next ((if s.reaches s.cur.core s.me.tenant (destPackage w) then
        s.sendPacket { barePacket (destPackage w) .message s.me.tenant with wake := some w } else s).past 4)) ∧
    (op ≠ 0 → s.me.priv = .s → exec (.wake x) s = .next (s.past 4)) ∧
    (op ≠ 0 → s.me.priv = .h → w.getLsbD 46 = true → exec (.wake x) s = .next (s.traps 0x02 (xvalSub (.wake x) 7))))

/-- A message for a core that serves its tenant and can take it joins the inbound queue; one that cannot be delivered bounces to class 1 of the first core of its sender's partition, and the queue stays. A bound slot in msgwait takes its oldest message: its handler runs with payload and sender in registers. A hop on its way by its home comb goes to the core that the comb's router names, keeping its entry of its core's interface (R94; that it has one is the model's choice, log 61, DESIGN CHOICE). A wake message returns a slot in xlwait to run, one that names a channel lets its stalled transfer go on, a convert gives it cause 0x14 with the address waited for, a halt stops a slot, a resume lets it go on in the state it holds, and a stop request makes cause 1 pending: each at the incarnation named only. A batch whose oldest message has waited long enough leaves (R96, R97, R229, R277, R297, R302, R310). -/
def Obligations.MessageEvents : Prop :=
  (∀ (s : State) (m : Message),
    let c := s.args.core
    s.args.msg = some m → s.args.flag = false → (∀ h b, m.body ≠ .hop h (some b)) → (s.core c).dead = false → s.isReset c m.tenant = false → s.forwardingOf c m.tenant = none →
    (s.core c).vacatedFor m.tenant = false → (s.core c).power = .on → s.heldLeft c = false → s.meshWaits (combOf c) = false →
    s.serves c m.tenant = true → s.pool (combOf c) = [] → (s.core c).inbox.length < 32 →
    (s.refuses c m = none → ∃ t, exec .messageArrival s = .next t ∧ (t.core c).inbox = (s.core c).inbox ++ [m] ∧ s.keepsWork t) ∧
    (∀ r, s.refuses c m = some r → m.origin ≠ .engine → destPackage m.sender = s.endpoint →
      ∃ t, exec .messageArrival s = .next t ∧ (t.core c).inbox = (s.core c).inbox ∧ s.keepsWork t ∧
        ∃ e ∈ t.agenda, e.event.kind = .messageArrival ∧ e.event.args.core = (s.core (destCore m.sender)).pbase ∧
          ∃ b, e.event.args.msg = some b ∧ b.cls = 1 ∧ b.tenant = m.tenant ∧
            b.payload = #v[bounceWord m.cls r, m.dest, m.payload[0], m.payload[1]])) ∧
  (∀ (s : State) (m : Message) (h : HopState) (b : CombId) (d : CoreId), s.args.msg = some m → s.args.flag = false →
    m.body = .hop h (some b) → s.hopTarget (destCore m.sender) b = some d →
    let n : Message := { m with dest := retarget m.dest s.endpoint d, body := .hop h none }
    exec .messageArrival s = .next ((s.modCore (destCore m.sender) fun q => { q with iface := replaceFirst (fun l => l = m) n q.iface }).post
      .messageArrival { core := d, msg := some n })) ∧
  (∀ (s : State) (m : Message) (n : Fin 8) (k : SlotId) (pc : Word),
    let c := s.args.core
    (s.slot c s.args.slot).state = .msgwait → s.pendingFor c s.args.slot = some m → n.val = m.cls.toNat → (s.core c).bindings[n] = some (k, pc) →
    ∃ t, exec .messageDelivery s = .next t ∧
      let u := t.slot c s.args.slot
      u.state = .run ∧ u.pc = pc ∧ u.handler = some m.cls ∧ u.getX 10 = m.payload[0] ∧ u.getX 11 = m.payload[1] ∧ u.getX 12 = m.payload[2] ∧
        u.getX 13 = m.payload[3] ∧ u.getX 14 = m.sender) ∧
  (∀ s : State,
    let w := s.args.word
    let c := s.args.core
    let k := destSlot w
    let u := s.slot c k
    c = destCore w → s.args.flag = false → (s.core c).dead = false → s.forwardingOf c s.args.tenant = none → (s.core c).power = .on →
    s.heldLeft c = false → s.parked = [] →
    (∀ ch, wakeChannel w = some ch →
      exec .wakeMessage s = .next (s.modChannel c ch fun h => h.modHead fun t => { t with stalled := none })) ∧
    (wakeChannel w = none → u.inc = destInc w →
      (u.state = .xlwait → exec .wakeMessage s = .next (s.modSlot c k Slot.unpark)) ∧
      (∀ va acc, u.state = .xlwait → u.wait = .translation va acc →
        exec .convert s = .next (s.modSlot c k fun t => { t.unpark with cause := some (0x14, va) })) ∧
      (u.stopped = false → exec .halt s = .next (s.modSlot c k fun t => { t with stopped := true, stoppedAt := s.now })) ∧
      (u.stopped = true → ∃ t, exec .slotResume s = .next t ∧ t.slot c k = { u with stopped := false } ∧ s.keepsBytes t) ∧
      exec .stopRequest s = .next (s.modSlot c k fun t => { t with pendStop := true })) ∧
    (wakeChannel w = none → u.inc ≠ destInc w → ∀ f ∈ [Instr.wakeMessage, .convert, .halt, .slotResume, .stopRequest], exec f s = .next s)) ∧
  (∀ (s : State) (b : Batch) (r : List Batch), s.batches = b :: r → b.pbase = s.args.core → b.endpoint = s.args.endpoint →
    b.tenant = s.args.tenant → b.oldest = s.args.num →
    ∃ t p, exec .hostBatchTimeout s = .next t ∧ t.batches = r ∧ t.outbox = s.outbox ++ [.packet p] ∧ t.kept = s.kept ++ [p] ∧
      p.cls = .message ∧ p.dest = b.endpoint ∧ p.tenant = b.tenant ∧ p.msgs = b.msgs)

/-- chgo starts the chain of its object: its stages wait, and a stage-start message leaves for each core (for the first alone in folded form), whose lowest idle general slot begins there. get and vget pop from the upstream link, branch at its end, and in spread form wait for it in engwait; put and vput push on the downstream link, and discard where that stage has ended; a word arrives in order, and the close behind the last. chend closes the downstream link, discards what is upstream, and ends the slot's work; the last stage writes 1 to the done word and leaves it full. chsw of a chain in the other form waits for it; the stop message halts each stage, and after the last the chain has the other form (R211 to R216, R233, R292). -/
def Obligations.Chains : Prop :=
  (∀ (s : State) (x y : BitVec 5) (f : ChainForm) (e : BitVec 512),
    let idx : BitVec 16 := (s.me.getX x).extractLsb' 0 16
    let first : CoreId := (s.me.getX y).extractLsb' 0 11
    let ref : ChainRef := { tenant := s.me.tenant, index := idx, first := first }
    s.issues (.chgo x y f) → useObject (.chgo x y f) idx 4 s = .ok e s → chainFormed e = true →
    (if f = .spread then s.spreadFits s.cur.core first (chainNst e) else s.inPartition s.cur.core first) = true →
    ∃ t, exec (.chgo x y f) s = .next t ∧ t.chains = s.chains ++ [chainOf e ref f s.me.priv] ∧ t.me.pc = s.me.pc + 4 ∧ s.keepsX [] t ∧
      s.keepsRest t ∧ s.keepsBytes t ∧ ∀ i, i ≤ (if f = .spread then chainNst e else 0) →
        ∃ d ∈ t.agenda, d.event.kind = .messageArrival ∧ d.event.args.core = first + BitVec.ofNat 11 i ∧
          ∃ m, d.event.args.msg = some m ∧ m.cls = 0 ∧ m.body = .stage ref (BitVec.ofNat 2 i)) ∧
  (∀ (s : State) (m : Message) (k : SlotId) (ref : ChainRef) (i : BitVec 2) (h : Chain),
    let c := s.args.core
    (s.freeSlots c).head? = some k → s.oldestWork c = some m → m.body = .stage ref i → s.findChain ref = some h →
    ∃ t g, exec .stageStart s = .next t ∧ t.findChain ref = some g ∧ (t.slot c k).form = some h.form ∧ (t.slot c k).chain = some ref ∧
      (h.form = .spread → (t.slot c k).state = .run ∧ (t.slot c k).pc = (h.stage i).pc ∧ (t.slot c k).stage = i ∧
        (g.stage i).status = .live ∧ (g.stage i).place = some (c, k)) ∧
      (h.form = .folded → (t.core c).foldBank = some ref ∧ g.folder = some (c, k))) ∧
  (∀ (s : State) (ref : ChainRef) (h : Chain) (d : BitVec 5) (v : BitVec 4) (i : BitVec 12) (f : Instr) (n : Nat) (ws r : List Word),
    (f, n) ∈ [(Instr.get d i, 1), (.vget v i, 8)] → s.issues f → s.me.chain = some ref → s.me.form.isSome = true → s.me.nesting = 0 →
    s.findChain ref = some h → s.me.stage ≠ 0 →
    let l := s.me.stage.toNat - 1
    ((h.link l).words = ws ++ r → ws.length = n →
      ∃ t g, exec f s = .next t ∧ t.findChain ref = some g ∧ (g.link l).words = r ∧ t.me.pc = s.me.pc + 4 ∧
        (f = .get d i → t.me.getX d = (if d = 0 then 0 else ws.headD 0) ∧ s.keepsX [d] t ∧ s.keepsV [] t) ∧
        (f = .vget v i → (∀ j, j < 8 → some ((t.me.getV v).extractLsb' (64 * j) 64) = ws[j]?) ∧ s.keepsX [] t ∧ s.keepsV [v] t)) ∧
    ((h.link l).words.length < n → (h.link l).closed = true →
      exec f s = .next (s.modMe fun t => { t with pc := s.me.pc + i.signExtend 64 * 4 })) ∧
    ((h.link l).words.length < n → (h.link l).closed = false → h.form = .spread →
      exec f s = .next (s.waits (.link h.ref (BitVec.ofNat 2 l) true n)))) ∧
  (∀ (s : State) (ref : ChainRef) (h : Chain) (x : BitVec 5) (a : BitVec 4) (f : Instr) (ws : List Word),
    (f, ws) ∈ [(Instr.put x, [s.me.getX x]), (.vput a, (List.range 8).map fun j => (s.me.getV a).extractLsb' (64 * j) 64)] → s.issues f →
    s.me.chain = some ref → s.me.form.isSome = true → s.me.nesting = 0 → s.findChain ref = some h → s.me.stage.toNat < h.nst → h.nst ≤ 3 →
    let l := s.me.stage.toNat
    ((h.stage (s.me.stage + 1)).status = .ended → exec f s = .next (s.past 4)) ∧
    ((h.stage (s.me.stage + 1)).status ≠ .ended → (h.link l).words.length + (h.link l).transit.length + ws.length ≤ 16 →
      ∃ t g, exec f s = .next t ∧ t.findChain ref = some g ∧ t.me.pc = s.me.pc + 4 ∧ s.keepsX [] t ∧ s.keepsV [] t ∧
        (h.form = .spread → (g.link l).words = (h.link l).words ∧ (g.link l).transit = (h.link l).transit ++ ws) ∧
        (h.form = .folded → (g.link l).words = (h.link l).words ++ ws))) ∧
  (∀ (s : State) (h : Chain) (w : Word) (r : List Word),
    let l := s.args.link.toNat
    s.findChain s.args.chain = some h →
    ((h.link l).transit = w :: r → ∃ t g, exec .neighbourQueueArrival s = .next t ∧ t.findChain s.args.chain = some g ∧
      (g.link l).words = (h.link l).words ++ [w] ∧ (g.link l).transit = r) ∧
    ((h.link l).transit = [] → (h.link l).closing = true → ∃ t g, exec .neighbourQueueArrival s = .next t ∧
      t.findChain s.args.chain = some g ∧ (g.link l).closed = true)) ∧
  (∀ (s : State) (ref : ChainRef) (h : Chain) (l : Loc),
    let i := s.me.stage
    let last := allOf (fun j => j = i || (h.stage j).status = .ended) h.downstreamFirst
    s.issues .chend → s.me.chain = some ref → s.me.form.isSome = true → s.me.nesting = 0 → s.findChain ref = some h → h.nst ≤ 3 →
    (last = false → h.form = .spread →
      ∃ t g, exec .chend s = .next t ∧ t.me.state = .idle ∧ t.me.inc = s.me.inc + 1 ∧ t.findChain ref = some g ∧
        (g.stage i).status = .ended ∧ (i.toNat < h.nst → (g.link i.toNat).closing = true) ∧ (i ≠ 0 → (g.link (i.toNat - 1)).words = [])) ∧
    (last = true → s.me.gang = none → h.switching = none → (s.locate s.cur.core s.me h.done 8 .rmw).toOption = some l →
      (∀ q ∈ s.waiters, q.loc ≠ l.point) →
      ∃ t, exec .chend s = .next t ∧ t.me.state = .idle ∧ t.chains = removeFirst (fun g => g.ref = ref) s.chains ∧
        t.readLoc l.place 8 = 1 ∧ t.isFull l.place = true)) ∧
  (∀ (s : State) (x : BitVec 5) (f : ChainForm) (e : BitVec 512) (h : Chain),
    let w := s.me.getX x
    let idx : BitVec 16 := w.extractLsb' 0 16
    let ref : ChainRef := { tenant := s.me.tenant, index := idx, first := w.extractLsb' 16 11 }
    s.issues (.chsw x f) → w.toNat < 2 ^ 27 → useObject (.chsw x f) idx 4 s = .ok e s → s.findChain ref = some h → h.switching = none →
    (h.form = f → exec (.chsw x f) s = .next (s.past 4)) ∧
    (h.form ≠ f → (f = .spread → s.spreadFits s.cur.core ref.first h.nst = true) →
      ∃ t g, exec (.chsw x f) s = .next t ∧ t.me = s.me.park .engwait (.engine (.chainSwitch ref)) ∧ t.findChain ref = some g ∧
        g.switching = some (f, s.cur.core, s.cur.slot, 0))) ∧
  (∀ (s : State) (h : Chain) (f : ChainForm) (c : CoreId) (k : SlotId) (n : Nat) (i : BitVec 2) (need : Option (BitVec 2 × Bool × Nat)),
    s.findChain s.args.chain = some h → h.switching = some (f, c, k, n) →
    (h.nextStop n = some i → s.stagePoint h i = some need →
      ∃ t g, exec .chainStopMessage s = .next t ∧ t.findChain s.args.chain = some g ∧ (g.stage i).halted = true ∧
        g.switching = some (f, c, k, i.toNat + 1)) ∧
    (h.nextStop n = none → s.canHandOver h = true →
      ∃ t g, exec .chainStopMessage s = .next t ∧ t.findChain s.args.chain = some g ∧ g.form = f ∧ g.switching = none))

/-- An instruction with a cause of steps 3 and 4 of R331 takes it and has no other effect: 0x02 sub 2 for a form or system register above the level, sub 3 for a vector, matrix, ring or repetition form or a register of light threads' other halves in a light thread, sub 4 for a mover form off the forager, sub 5 for spawn, sret and sync at the forager, in a light thread or by a holder of a class; 0x0F sub 4 and 3 in a stage at U for a form that R213 excludes and a register outside its own, and sub 1 for a link form outside a stage (that the form comes before the register is log 14, DEDUCED) (R93, R200, R213, R217, R296, R332). A misaligned load or store takes 0x04 with the address. ecall and ebreak of a drained slot, a drained asynchronous cause with ie set, and a trap at the fetch enter their handler: pc, cause word and value saved at the target level, the handler's address from that level's xvec with its low two bits 0, ie 0, registers kept; ebreak at S is taken at H (log 10, DEDUCED); a slot with results in flight first waits. A notice pending comes before a stop, and a stop before the timer. xret restores pc, level and ie. tnow at or past tcmp makes cause 2 pending, and a management notice cause 3 at the notice slot (R225, R234, R293 to R295, R306, R331, R332, R335). -/
def Obligations.Traps : Prop :=
  (∀ (s : State) (i : Instr) (c : BitVec 8) (x : Word), mustJoin i s = false → refusal i s = some (c, x) →
    exec i s = .next (s.traps c x)) ∧
  (∀ (s : State) (f : Instr) (d a b : BitVec 5) (i r k : BitVec 12) (v u w : BitVec 4) (l h : BitVec 3) (m n p : BitVec 3) (z : BitVec 2)
      (ty : VType) (fm : Fmt) (cf : ChainForm) (cc : CmpCond) (ch : BitVec 2),
    let t := s.me
    let class_ : Prop := ∃ (j : Fin 8) (pc : Word), s.myCore.bindings[j] = some (s.cur.slot, pc)
    let high : Prop := 16 ≤ d.toNat ∨ 16 ≤ a.toNat ∨ 16 ≤ b.toNat
    let stage : Prop := t.form.isSome = true ∧ t.priv = .u ∧ t.light = false
    mustJoin f s = false →
    ((f ∈ [Instr.tlbinv a b, .dtwr a b, .dtrd a b, .wake a, .chsw a cf, .pshare d a b, .xret] ∧ t.priv = .u) ∨
      (f ∈ [Instr.srd d r, .swr d a r, .sset d a r, .sclr d a r] ∧
        (if 0x200 ≤ r.toNat ∨ (0x011 ≤ r.toNat ∧ r.toNat ≤ 0x015) then t.priv ≠ .h
          else (0x100 ≤ r.toNat ∨ (0x001 ≤ r.toNat ∧ r.toNat ≤ 0x005)) ∧ t.priv = .u)) →
      exec f s = .next (s.traps 0x02 (xvalSub f 2))) ∧
    (t.light = true →
      (f ∈ [Instr.vadd v u w ty m, .vld v a ty m, .vst v a ty m, .vcmp cc n v u ty m, .vcvt v u ty ty .rne m, .mand n p m, .mzero z, .macq z,
        .mldz a z fm, .rgset l a, .rgwf l, .rpbeg, .rpgo a v, .rpjoin]) ∨
      (f ∈ [Instr.addi d a i, .ld d a i] ∧ (16 ≤ d.toNat ∨ 16 ≤ a.toNat)) ∨ (f ∈ [Instr.add d a b, .amoadd d .sys a b .ar] ∧ high) ∨
      (f ∈ [Instr.lbcp l h, .lbpar l h] ∧ (4 ≤ l.toNat ∨ 4 ≤ h.toNat)) →
      exec f s = .next (s.traps 0x02 (xvalSub f 3))) ∧
    (f ∈ [Instr.mvcp d ch a b, .mv2d d ch a b, .mvgth d ch a b, .mvsct d ch a b, .mvfill d ch a b, .mvget d ch a b, .mvput d ch a b,
        .mvamo d ch a b, .mvring d ch a b, .sdense d ch a b, .ssparse d ch a b] → s.cur.slot ≠ forager → (t.light = true → ¬high) →
      exec f s = .next (s.traps 0x02 (xvalSub f 4))) ∧
    (f ∈ [Instr.spawn a i, .sret, .sync a] → s.cur.slot = forager ∨ t.light = true ∨ class_ → (t.light = true → a.toNat < 16) →
      exec f s = .next (s.traps 0x02 (xvalSub f 5))) ∧
    (stage → f ∈ [Instr.lbcp l h, .kfirst d l k, .vcmp cc n v u ty m, .mand n p m, .mzero z, .macq z, .rgwf l, .rpbeg, .hop a, .ganggo a, .gbar z] →
      exec f s = .next (s.traps 0x0F (xvalUnit f (t.stage.setWidth 8) 4))) ∧
    (stage → (f ∈ [Instr.addi d a i, .ld d a i] ∧ (16 ≤ d.toNat ∨ 16 ≤ a.toNat)) ∨ (f = .add d a b ∧ high) ∨
        (f = .vadd v u w ty m ∧ (4 ≤ v.toNat ∨ 4 ≤ u.toNat ∨ 4 ≤ w.toNat ∨ m ≠ 0)) →
      exec f s = .next (s.traps 0x0F (xvalUnit f (t.stage.setWidth 8) 3))) ∧
    (f ∈ [Instr.get d i, .put a, .vget v i, .vput v, .chend] → s.issues f → t.form = none → exec f s = .next (s.traps 0x0F (xvalUnit f 0 1)))) ∧
  (∀ (s : State) (d a b : BitVec 5) (i : BitVec 12) (f : Instr) (n : Nat),
    (f, n) ∈ [(Instr.lh d a i, 2), (.lw d a i, 4), (.ld d a i, 8), (.lhz d a i, 2), (.lwz d a i, 4), (.ldAq d a i, 8),
      (.sh i a b, 2), (.sw i a b, 4), (.sd i a b, 8), (.sdRl i a b, 8)] →
    s.issues f → s.me.outstanding < 128 → (s.me.getX a + i.signExtend 64).toNat % n ≠ 0 →
    exec f s = .next (s.traps 0x04 (s.me.getX a + i.signExtend 64))) ∧
  (∀ (s : State) (f : Instr) (cause : BitVec 8) (l : Level),
    (f, cause, l) ∈ (match s.me.priv with
      | .u => [(Instr.ecall, (0x06 : BitVec 8), Level.s), (.ebreak, 0x03, .s)]
      | .s => [(Instr.ecall, (0x07 : BitVec 8), Level.h), (.ebreak, 0x03, .h)]
      | .h => [(Instr.ecall, (0x08 : BitVec 8), Level.h), (.ebreak, 0x03, .h)]) →
    s.issues f →
    (s.me.flights ≠ [] → exec f s = .next (s.modMe fun t => t.park .memwait .earlier)) ∧
    (s.me.flights = [] → ∃ t, exec f s = .next t ∧ (t.me.bank l).xpc = s.me.pc ∧
      (t.me.bank l).xcause = 0#1 ++ s.me.priv.code ++ BitVec.ofBool s.me.ie ++ 0#52 ++ cause ∧ (t.me.bank l).xval = 0 ∧
      (t.me.bank l).xvec = (s.me.bank l).xvec ∧ (t.me.bank l).xscratch = (s.me.bank l).xscratch ∧
      t.me.priv = l ∧ t.me.ie = false ∧ t.me.pc = (s.me.bank l).xvec &&& ~~~3 ∧ t.me.state = .run ∧
      s.keepsX [] t ∧ s.keepsV [] t ∧ s.keepsM [] t ∧ s.keepsL [] t ∧ s.keepsOthers t ∧ s.keepsBytes t ∧ s.keepsFull t)) ∧
  (∀ (s : State) (cause : BitVec 8) (x : Word) (l : Level),
    let t := s.me
    (if t.pendNotice.isSome then t.pendNotice = some x ∧ cause = 3 ∧ l = .h
      else x = 0 ∧ l = (if t.priv = .h then .h else .s) ∧
        (if t.pendStop then cause = 1 else cause = 2 ∧ t.pendTimer = true ∧ s.timerDue s.cur.core s.cur.slot = true)) →
    t.ie = true →
    (t.flights ≠ [] → exec .asyncTrap s = .next (s.modMe fun t => t.park .memwait .earlier)) ∧
    (t.flights = [] → s.aheadOf s.cur.core s.cur.slot = none → s.myCore.rep.holder ≠ some s.cur.slot →
      ∃ u, exec .asyncTrap s = .next u ∧ (u.me.bank l).xpc = t.pc ∧
        (u.me.bank l).xcause = 1#1 ++ t.priv.code ++ 1#1 ++ 0#52 ++ cause ∧ (u.me.bank l).xval = x ∧ u.me.priv = l ∧ u.me.ie = false ∧
        u.me.pc = (t.bank l).xvec &&& ~~~3 ∧ s.keepsX [] u ∧ s.keepsOthers u ∧
        (cause = 1 → u.me.pendStop = false) ∧ (cause = 2 → u.me.pendTimer = false) ∧
        (cause = 3 → s.controller.notices = [] → u.me.pendNotice = none))) ∧
  (∀ s : State, (∀ c v, s.fetch s.cur.core s.cur.slot = .error (.trap c v) → exec .instructionFetchFault s = .next (s.traps c v)) ∧
    (∀ f, s.fetch s.cur.core s.cur.slot = .error (.translation f) → s.aheadOf s.cur.core s.cur.slot = none →
      ∃ t, exec .instructionFetchFault s = .next t ∧ t.me = s.me.park .xlwait (.translation f.va f.acc))) ∧
  (∀ (s : State) (p : Level),
    let b := s.me.bank s.me.priv
    s.issues .xret → b.xcause.extractLsb' 61 2 = p.code → p.code.toNat ≤ s.me.priv.code.toNat →
    (b.xpc.extractLsb' 0 2 ≠ 0 → exec .xret s = .next (s.traps 0x00 b.xpc)) ∧
    (b.xpc.extractLsb' 0 2 = 0 → ∃ t, exec .xret s = .next t ∧ t.me.pc = b.xpc ∧ t.me.priv = p ∧ t.me.ie = b.xcause.getLsbD 60 ∧
      s.keepsX [] t ∧ s.keepsV [] t ∧ s.keepsM [] t ∧ s.keepsL [] t ∧ t.me.bankS = s.me.bankS ∧ t.me.bankH = s.me.bankH ∧ s.keepsOthers t ∧
      s.keepsBytes t ∧ s.keepsFull t)) ∧
  (∀ s : State, (s.timerDue s.args.core s.args.slot = true →
      exec .timer s = .next (s.modSlot s.args.core s.args.slot fun t => { t with pendTimer := true })) ∧
    (s.timerDue s.args.core s.args.slot = false → exec .timer s = .next s)) ∧
  (∀ (s : State) (a : Nat),
    let w := s.readWord (a + 32)
    let n : Word := 0#36 ++ BitVec.ofNat 12 s.args.num ++ s.args.code
    s.controller.bootBlock = some a → (s.slot (destCore w) (destSlot w)).inc = destInc w →
    ((s.slot (destCore w) (destSlot w)).pendNotice = none →
      exec .managementNotice s = .next (s.modSlot (destCore w) (destSlot w) fun t => { t with pendNotice := some n })) ∧
    ((s.slot (destCore w) (destSlot w)).pendNotice ≠ none →
      ∃ t, exec .managementNotice s = .next t ∧ t.controller.notices.length = s.controller.notices.length + 1 ∧ s.keepsWork t))

/-- An instruction that names a pending register waits for it in memwait, and its result becoming usable ends the pending. A page walk that finds a leaf sets the bits it has to, fills the TLB and lets the slot go on, one that does not makes it wait in xlwait, and an uncorrectable entry gives it cause 0x15. A load held at the second stage waits in memwait; an access held there is issued again once its entry is valid (the model's reading of how it proceeds, log 23, DEDUCED), and after 2^22 cycles fails as a missing right. A full/empty wait that has lasted its limit ends with cause 0x09 (R66, R67, R76, R133, R313, R317, R322). -/
def Obligations.Waits : Prop :=
  (∀ (s : State) (i : Instr) (r : RegName), mustJoin i s = false → refusal i s = none → records i s = false →
    s.me.firstPending (shapeOf i).names = some r → exec i s = .next (s.modMe fun t => t.park .memwait (.register r))) ∧
  (∀ s : State, ∃ t, exec .resultUsable s = .next t ∧
    t.slot s.args.core s.args.slot = { s.slot s.args.core s.args.slot with
      flights := removeFirst (fun f => f.reg = s.args.reg && f.line.isNone) (s.slot s.args.core s.args.slot).flights } ∧
    s.keepsBytes t ∧ s.keepsFull t) ∧
  (∀ s : State,
    let c := s.args.core
    let k := s.args.slot
    let t := s.slot c k
    let w := s.args.word
    s.args.reg = .x 0 → s.args.flag = false → s.args.num = 0 → t.wait = .walk w s.args.acc →
    (∀ pte level a g, s.walk t w s.args.acc = .leaf pte level a g →
      ∃ u e, exec .pageWalk s = .next u ∧ { u.slot c k with flights := [] } = { t with state := .run, wait := .none, flights := [] } ∧
        (u.core c).tlbFind t w = some e ∧ e.bits = levelBits level ∧ e.pte = usedLeaf t.priv pte s.args.acc ∧ u.memRead a 8 = e.pte.toNat ∧
        s.keepsBytesBut (.mem a) (if e.pte = pte then 0 else 8) u) ∧
    (∀ f, s.walk t w s.args.acc = .wait f → s.aheadOf c k = none →
      ∃ u, exec .pageWalk s = .next u ∧ u.slot c k = { t with state := .xlwait, wait := .translation f.va f.acc } ∧ s.keepsBytes u) ∧
    (s.walk t w s.args.acc = .bad →
      ∃ u, exec .pageWalk s = .next u ∧ u.slot c k = { t with state := .run, wait := .none, cause := some (0x15, w) } ∧ s.keepsBytes u)) ∧
  (∀ (s : State) (d a : BitVec 5) (i : BitVec 12) (gpa : Nat) (cause : BitVec 8) (x : Word), s.issues (.ld d a i) →
    s.me.outstanding < 128 → s.locate s.cur.core s.me (s.me.getX a + i.signExtend 64) 8 .load = .error (.held gpa cause x) →
    ∃ t, exec (.ld d a i) s = .next t ∧ t.me = s.me.park .memwait (.secondStage gpa s.now) ∧ s.keepsBytes t ∧
      ∃ e ∈ t.agenda, e.event.kind = .secondStageHoldTimeout ∧ e.after = s.now + 4194304 ∧ e.event.args.num = s.now) ∧
  (∀ (s : State) (gpa since : Nat),
    let c := s.args.core
    let k := s.args.slot
    (s.slot c k).wait = .secondStage gpa since → (s.slot c k).state = .memwait →
    (stageTwoValid (s.stageTwo (s.slot c k).tenant gpa) = true → exec .secondStageResume s = .next (s.modSlot c k fun t => { t with state := .run })) ∧
    (stageTwoValid (s.stageTwo (s.slot c k).tenant gpa) = false → exec .secondStageResume s = .next s) ∧
    (s.args.reg = .x 0 → s.args.flag = false →
      (since = s.args.num → exec .secondStageHoldTimeout s = .next (s.modSlot c k fun t =>
        { t with state := .run, wait := .none, cause := some (s.args.code.setWidth 8, s.args.word) })) ∧
      (since ≠ s.args.num → exec .secondStageHoldTimeout s = .next s))) ∧
  (∀ (s : State) (w : Waiter),
    let c := s.args.core
    let k := s.args.slot
    s.waiters = [w] → w.since = s.args.num → w.va = s.args.word → w.tenant = s.args.tenant → w.agent = .slot c k → s.parked = [] →
    (s.slot c k).stopped = false →
    exec .waitLimit s = .next ({ s with waiters := [] }.modSlot c k fun t =>
      { t with state := .run, wait := .none, cause := some (0x09, w.va) }))

/-- srd writes a register's value; swr, sset and sclr write its old value to their destination and give it the new one, of which its fields are kept, and no register but it changes (nor does one of another bank); so does the event of such a write. A write of sramcfg asks for split 0 to 2, which takes effect once no tenant holds scratchpad and the deque is empty, and a write of pbase or plen once the core has no work. dtwr puts an image that keeps its layout in an entry, and dtrd copies an entry to memory; pshare adds to a frame's 16-bit count and writes it. tlbinv waits for its acknowledgements; a shootdown removes what it targets, once no access of the core that is held at the second stage uses it, and is acknowledged, and the last acknowledgement lets the slot go on (R75, R227, R230 to R232, R234, R235, R263, R311). -/
def Obligations.SystemRegisters : Prop :=
  (∀ (s : State) (d x : BitVec 5) (r : BitVec 12) (f : Instr) (new : Option (Word → Word)),
    let c := s.cur.core
    let k := s.cur.slot
    let w := s.me.getX x
    (f, new) ∈ [(Instr.srd d r, none), (.swr d x r, some fun _ => w), (.sset d x r, some fun o => o ||| w), (.sclr d x r, some fun o => o &&& ~~~w)] →
    s.issues f →
    ∃ t, exec f s = .next t ∧ t.me.getX d = (if d = 0 then 0 else s.sysRead c k r) ∧ t.me.pc = s.me.pc + 4 ∧ s.keepsX [d] t ∧
      s.keepsOthers t ∧
      (r.toNat ∈ [0x001, 0x002, 0x003, 0x004, 0x005, 0x008, 0x009, 0x00A, 0x011, 0x012, 0x013, 0x014, 0x015, 0x100, 0x102, 0x103, 0x104, 0x105,
        0x106, 0x108] → ∀ g, new = some g → t.sysRead c k r = g (s.sysRead c k r) &&& sysMask r ∧ s.keepsBytes t ∧
          ∀ q, q ≠ r → (isBanked q.toNat && isBanked r.toNat) = false → t.sysRead c k q = s.sysRead c k q)) ∧
  (∀ s : State,
    let a := s.args
    a.sr.toNat ∈ [0x001, 0x002, 0x003, 0x004, 0x005, 0x008, 0x009, 0x00A, 0x011, 0x012, 0x013, 0x014, 0x015, 0x100, 0x102, 0x103, 0x104, 0x105,
      0x106, 0x108] →
    ∃ t, exec .systemRegisterWrite s = .next t ∧ t.sysRead a.core a.slot a.sr = a.word &&& sysMask a.sr ∧ s.keepsBytes t) ∧
  (∀ s : State,
    let c := s.args.core
    let q := s.core c
    let v := s.args.word.extractLsb' 0 2
    (∃ t, exec .sramcfgWrite s = .next t ∧ (t.core c).splitWanted = (if v = 3 then q.splitWanted else some v) ∧ (t.core c).split = q.split) ∧
    (∀ v, q.splitWanted = some v → s.holdsSpad c = false → q.deque = [] →
      ∃ t, exec .splitTakesEffect s = .next t ∧ (t.core c).split = v ∧ (t.core c).splitWanted = none ∧
        ∀ o, o < spadSize q.split - 40960 → o < spadSize v - 40960 → (t.core c).spadByte o = q.spadByte o) ∧
    (∀ w w', q.unworked = true → q.partWrites = [(0x201, w), (0x202, w')] →
      ∃ t, exec .partitionRegisterWrite s = .next t ∧ (t.core c).pbase = w.extractLsb' 0 11 ∧ (t.core c).plen = w'.extractLsb' 0 12 ∧
        (t.core c).partWrites = []) ∧
    (q.unworked = false → exec .partitionRegisterWrite s = .next s)) ∧
  (∀ (s u : State) (x y : BitVec 5) (idx : BitVec 16) (old : BitVec 512) (v : Nat) (line : Option LineTag) (l : Loc),
    s.issues (.dtwr x y) → s.me.outstanding < 128 → namedEntry (.dtwr x y) (s.me.getX x) s = .ok (idx, old) s →
    loadVA (s.me.getX y) 64 s = .ok (v, line) u → imageOk (BitVec.ofNat 512 v) = true →
    u.changeRefused u.me idx.toNat old (BitVec.ofNat 512 v) = false → guestAccess (u.me.objectAddr idx.toNat) 64 .store u = .ok l u →
    ∃ t, exec (.dtwr x y) s = .next t ∧ t.readLoc l.place 64 = v ∧ t.me.pc = s.me.pc + 4 ∧ s.keepsX [] t ∧ s.keepsRestWork t ∧
      s.keepsBytesBut l.place 64 t) ∧
  (∀ (s : State) (x y : BitVec 5) (idx : BitVec 16) (e : BitVec 512) (l : Loc),
    s.issues (.dtrd x y) → s.me.outstanding < 128 → s.aheadOf s.cur.core s.cur.slot = none →
    namedEntry (.dtrd x y) (s.me.getX x) s = .ok (idx, e) s → (s.locate s.cur.core s.me (s.me.getX y) 64 .store).toOption = some l →
    ∃ t, exec (.dtrd x y) s = .next t ∧ t.readLoc l.place 64 = e.toNat ∧ t.me.pc = s.me.pc + 4 ∧ s.keepsX [] t ∧ s.keepsRest t ∧
      s.keepsBytesBut l.place 64 t) ∧
  (∀ (s : State) (d x y : BitVec 5) (l : Loc),
    let gpa := s.me.frbase.toNat + 2 * ((s.me.getX x).extractLsb' 14 26).toNat
    let n := (s.readLoc l.place 2 + (s.me.getX y).toNat) % 2 ^ 16
    s.issues (.pshare d x y) → s.me.outstanding < 128 → guestAccess gpa 2 .rmw s = .ok l s → s.badWord l.place (BitVec.ofNat 64 gpa) 2 = none →
    ∃ t, exec (.pshare d x y) s = .next t ∧ t.readLoc l.place 2 = n ∧ t.me.getX d = (if d = 0 then 0 else BitVec.ofNat 64 n) ∧
      t.me.pc = s.me.pc + 4 ∧ s.keepsX [d] t ∧ s.keepsRestWork t ∧ s.keepsBytesBut l.place 2 t ∧ s.keepsFull t) ∧
  (∀ (s : State) (x y : BitVec 5),
    let w := s.me.getX y
    let kind := (w.extractLsb' 16 3).toNat
    s.issues (.tlbinv x y) → w.extractLsb' 19 29 = 0 → kind < (if s.me.priv = .h then 6 else 4) → s.me.flights = [] →
    ∃ t d, exec (.tlbinv x y) s = .next t ∧ t.me = s.me.park .memwait (.acks s.fresh) ∧ t.shootdowns = s.shootdowns ++ [d] ∧ d.id = s.fresh ∧
      d.kind.toNat = kind ∧ d.addr = s.me.getX x ∧ d.owed = s.shootdownCores kind ∧
      ∀ c ∈ d.owed, ∃ e ∈ t.agenda, e.event.kind = .shootdown ∧ e.event.args.core = c ∧ e.event.args.num = s.fresh) ∧
  (∀ (s : State) (d : Shootdown),
    let c := s.args.core
    s.shootdowns = [d] → d.id = s.args.num →
    ((d.kind.toNat ≤ 2 → ∀ u ∈ (s.core c).slots.toList, u.tenant = d.tenant → u.holdsEntry = false) →
      ∃ t, exec .shootdown s = .next t ∧ (∀ e ∈ (t.core c).tlb, d.removes e = false) ∧ (∀ e ∈ (s.core c).tlb, d.removes e = false → e ∈ (t.core c).tlb) ∧
      s.keepsWork t ∧ s.keepsBytes t ∧ ((∀ u ∈ (s.core c).slots.toList, u.outstanding = 0) →
        ∃ e ∈ t.agenda, e.event.kind = .shootdownAck ∧ e.event.args.core = c ∧ e.event.args.num = d.id)) ∧
    (d.owed = [c] → (s.slot d.core d.slot).wait = .acks d.id → ∃ t, exec .shootdownAck s = .next t ∧ t.shootdowns = [] ∧
      t.slot d.core d.slot = { s.slot d.core d.slot with state := .run, wait := .none, pc := (s.slot d.core d.slot).pc + 4 }))

/-- A command form, once its region and descriptor have been read and its channel has room, gives its transfer the channel's next id, which it writes to its destination, and queues it last; a transfer whose contents break the layout of its form, or whose endpoint is out of reach, is bound to fail. mvid writes the watermark; mvwait goes on once it has passed the id, waits before that, and takes a failure that the latch holds for an id up to it as 0x18, which empties the latch. The transfer at the head of a ready channel performs a unit of its form, mvcp a word with its bit, and leaves the queue with its last, or with its failure, which the latch keeps if it held none; an mvring takes the tail slot of its ring once one is free (R217 to R223, R315, R342). That a command both malformed and out of reach fails with code 5 and not 3 is the model's reading (log 34, DEDUCED). -/
def Obligations.Transfers : Prop :=
  (∀ (s u v : State) (d x y : BitVec 5) (ch : BitVec 2) (f : Instr) (op : MoveOp) (entry shape : BitVec 512) (w : Vector Word 6) (lines : List LineTag),
    let arg := s.me.getX y
    (f, op) ∈ [(Instr.mvcp d ch x y, MoveOp.cp), (.mv2d d ch x y, .twoD), (.mvgth d ch x y, .gather), (.mvsct d ch x y, .scatter),
      (.mvfill d ch x y, .fill), (.mvget d ch x y, .remoteGet), (.mvput d ch x y, .remotePut), (.mvamo d ch x y, .remoteAmo),
      (.mvring d ch x y, .ring), (.sdense d ch x y, .dense), (.ssparse d ch x y, .sparse)] →
    s.issues f → s.me.outstanding ≤ 125 → boxShape f op arg s = .ok (entry, shape) u → readDescriptor (s.me.getX x) u = .ok (w, lines) v →
    ((op = .dense ∨ op = .sparse) → boxOk shape w = true) →
    let h := v.channel v.cur.core ch
    (16 ≤ h.queue.length → exec f s = .next (s.waits (.channelRoom ch))) ∧
    (h.queue.length < 16 → ∃ t a, exec f s = .next t ∧ t.me.getX d = (if d = 0 then 0 else h.next.setWidth 64) ∧ t.me.pc = s.me.pc + 4 ∧
      s.keepsX [d] t ∧ s.keepsV [] t ∧ s.keepsM [] t ∧ s.keepsL [] t ∧ (t.channel s.cur.core ch).next = h.next + 1 ∧
      (t.channel s.cur.core ch).queue = h.queue ++ [a] ∧ a.op = op ∧ a.id = h.next ∧ a.desc = w ∧ a.arg = arg ∧ a.entry = entry ∧ a.done = 0 ∧
      a.bad = (if v.commandBad v.cur.core op w arg then some 5 else if v.commandUnreached v.cur.core op w v.me.tenant then some 3 else none))) ∧
  (∀ (s : State) (d x : BitVec 5) (ch : BitVec 2),
    let h := s.channel s.cur.core ch
    let id : BitVec 32 := (s.me.getX x).extractLsb' 0 32
    (s.issues (.mvid d ch) → exec (.mvid d ch) s = .next (s.wrote d (h.watermark.setWidth 64))) ∧
    (s.issues (.mvwait ch x) →
      (h.reached id = false → exec (.mvwait ch x) s = .next (s.waits (.transfer ch id))) ∧
      (h.reached id = true → h.latch = none → exec (.mvwait ch x) s = .next (s.past 4)) ∧
      (∀ i code, h.reached id = true → h.latch = some (i, code) → (id - i).toNat < 2 ^ 31 → s.me.flights = [] →
        exec (.mvwait ch x) s = .next ((s.modChannel s.cur.core ch fun h => { h with latch := none }).traps 0x18
          (i ++ 0#8 ++ BitVec.ofNat 8 code ++ 0#14 ++ ch))) ∧
      (∀ i code, h.reached id = true → h.latch = some (i, code) → 2 ^ 31 ≤ (id - i).toNat → exec (.mvwait ch x) s = .next (s.past 4)))) ∧
  (∀ (s : State) (a : Transfer) (r : List Transfer),
    let c := s.args.core
    let ch := s.args.ch
    let z := { s with cur := { core := c, slot := forager } }
    (s.channel c ch).queue = a :: r →
    (∀ code, a.bad = some code → code ≠ 0 → ∃ t, exec .transferComplete s = .next t ∧ (t.channel c ch).queue = r ∧ s.keepsBytes t ∧
      (t.channel c ch).latch = (if (s.channel c ch).latch = none then some (a.id, code) else (s.channel c ch).latch)) ∧
    (∀ (i : Word) (w : Word × Bool) (u v : State), s.channelReady c ch = true → a.bad = none → a.op = .cp → a.done < a.total →
      (∀ w ∈ s.waiters, w.agent ≠ .channel c ch) →
      i = BitVec.ofNat 64 (8 * a.done) → fetchWord a.agent (a.desc[1] + i) z = .ok w u →
      depositWord a.agent (a.desc[0] + i) w.1 w.2 u = .ok () v →
      ∃ t, exec .transferComplete s = .next t ∧ t.mem = v.mem ∧ t.memEmpty = v.memEmpty ∧ (t.channel c ch).latch = (s.channel c ch).latch ∧
        (a.done + 1 = a.total → (t.channel c ch).queue = r) ∧
        (a.done + 1 < a.total → (t.channel c ch).queue = { a with done := a.done + 1, heldSince := none } :: r)) ∧
    (∀ (b : Transfer) (v : State), s.channelReady c ch = true → a.bad = none → a.done < a.total → (∀ w ∈ s.waiters, w.agent ≠ .channel c ch) →
      transferUnit ch a z = .ok b v →
      ∃ t, exec .transferComplete s = .next t ∧ t.mem = v.mem ∧ t.memEmpty = v.memEmpty ∧ (t.channel c ch).latch = (s.channel c ch).latch ∧
        (t.channel c ch).queue = if b.total ≤ b.done then r else { b with heldSince := none } :: r) ∧
    (a.bad = none → s.channelReady c ch = true → a.total ≤ a.done →
      ∃ t, exec .transferComplete s = .next t ∧ (t.channel c ch).queue = r ∧ (t.channel c ch).latch = (s.channel c ch).latch ∧ s.keepsBytes t) ∧
    (∀ g : Ring, a.op = .ring → a.bad = none → a.index = none → (s.core c).ring (a.desc[0].extractLsb' 0 3) = some g → g.filled + g.held.length < g.n →
      ∃ t, exec .mvringSlotFree s = .next t ∧ (t.channel c ch).queue = { a with index := some g.tail } :: r ∧ s.keepsBytes t))

/-- A request in a full request word is taken, leaving it empty, and its status is filled when it is done. A first commit of a set whose entries keep their layout and whose shares fit admits every valid entry, code 0; too great a sum has code 1, a broken or shared entry, or the loss of one that is not frozen, 2, an operation with no row or a reserved bit set 4 (that last is the model's reading, log 36, DEDUCED). The scheduler serves from its own copy of the committed entries (log 60, DESIGN CHOICE). A save first vacates the core for the tenant, and once its slots are out its messages are forwarded; a restore makes the core the tenant's again, and clearing ends the forwarding, as does its time. A freeze stops the entry's service and, once its transfers are done, marks it; a resume admits it again, its offset less by the time frozen where it hides it. A deadline makes the next one due; a spent budget hands over to the entry chosen, slot by slot, each context written to its area (R263 to R274, R346, R347). -/
def Obligations.Partitions : Prop :=
  (∀ (s : State) (w : Word) (f : Instr) (n : Nat) (e : BitVec 512) (c : CoreId),
    let p := s.args.core
    let a := controlPage p
    let d := s.scheduler p
    let answered (t : State) (code : Nat) : Prop :=
      t.memFull (a + 8) = true ∧ t.memRead (a + 8) 8 % 2 ^ 32 = code ∧ (t.scheduler p).request = none ∧ (d.request = none → t.memFull a = false)
    w = s.readWord a → (d.request = none ∧ s.memFull a = true ∨ d.request = some w) → d.status = none → s.memFull (a + 8) = false →
    (∀ q ∈ s.waiters, q.loc ≠ (physWord a).point ∧ q.loc ≠ (physWord (a + 8)).point) → n = requestEntry w → e = s.committed p n → c = requestCore w →
    (requestOp w = 1 → requestZero w = true → f = .commit →
      let entries := (List.range 16).map fun n => s.tenantEntry p n
      let refused := someOf entryMalformed entries || s.sharedTenant p || someOf (fun a => entryState a.2 ≠ 2) (s.lostEntries p)
      (refused = true → ∃ t, exec f s = .next t ∧ answered t 2) ∧
      (refused = false → 996147 < s.utilisation p → ∃ t, exec f s = .next t ∧ answered t 1) ∧
      (refused = false → s.utilisation p ≤ 996147 → d.admitted = [] → d.serving = none → d.handover = [] →
        ∃ t, exec f s = .next t ∧ answered t 0 ∧ ∀ n, n < 16 → entryValid (s.tenantEntry p n) = true →
          entryState (t.tenantEntry p n) = 1 ∧ entryTenant (t.committed p n) = entryTenant (s.tenantEntry p n) ∧
          entryDeadline (t.committed p n) = (s.reference.toNat + entryPeriod (s.tenantEntry p n)) % 2 ^ 64)) ∧
    (requestOp w = 0 ∨ 6 < requestOp w ∨ (requestOp w = 1 ∧ requestZero w = false) → f = .commit → ∃ t, exec f s = .next t ∧ answered t 4) ∧
    (s.requestNames p w = false → (f, requestOp w) ∈ [(Instr.saveCore, 2), (.restoreCore, 3), (.clearForwarding, 4)] →
      ∃ t, exec f s = .next t ∧ answered t 4) ∧
    (s.requestNames p w = true → requestOp w = 2 → f = .saveCore → d.handover = [] →
      ((s.core c).vacatedFor (entryTenant e) = false → d.serving ≠ some (BitVec.ofNat 4 n) →
        ∃ t, exec f s = .next t ∧ (t.core c).vacated = (s.core c).vacated ++ [(entryTenant e, w.extractLsb' 54 10)] ∧ (t.scheduler p).request = some w) ∧
      ((s.core c).vacatedFor (entryTenant e) = true →
        ∃ t g, exec f s = .next t ∧ answered t 0 ∧ (t.core c).forwarding.getLast? = some g ∧ g.tenant = entryTenant e ∧
          g.core = w.extractLsb' 43 11 ∧ g.package = w.extractLsb' 54 10 ∧ g.expires = s.now + 3300000)) ∧
    (s.requestNames p w = true → requestOp w = 3 → f = .restoreCore → d.handover = [] → d.serving ≠ some (BitVec.ofNat 4 n) →
      s.restoreRefused (s.areaOf p n c) (entrySpad e) c = none →
      ∃ t, exec f s = .next t ∧ answered t 0 ∧ (t.core c).dead = false ∧ (t.core c).vacatedFor (entryTenant e) = false ∧
        ∀ g ∈ (t.core c).forwarding, g.tenant ≠ entryTenant e) ∧
    (s.requestNames p w = true → requestOp w = 4 → f = .clearForwarding →
      ∃ t, exec f s = .next t ∧ answered t 0 ∧ ∀ g ∈ (t.core c).forwarding, g.tenant ≠ entryTenant e) ∧
    (requestOp w = 5 → f = .freeze → entryValid e = true → entryState e = 1 →
      (requestZero w = true → d.serving = none → (∀ z ∈ d.frozenAt, z.1 ≠ n) →
        ∃ t, exec f s = .next t ∧ (t.scheduler p).frozenAt = d.frozenAt ++ [(n, s.reference)] ∧ (t.scheduler p).request = some w) ∧
      (∀ began ops, d.frozenAt = [(n, began)] → d.serving = none → d.handover = [] → d.engineOps = some ops →
        s.transfersOf p (entryTenant e) = 0 →
        ∃ t, exec f s = .next t ∧ entryState (t.tenantEntry p n) = 2 ∧ entryState (t.committed p n) = 2)) ∧
    (∀ began, requestOp w = 6 → requestZero w = true → f = .resume → entryValid e = true → entryState e = 2 → d.frozenAt = [(n, began)] →
      s.parked = [] → ∃ t, exec f s = .next t ∧ answered t 0 ∧ entryState (t.tenantEntry p n) = 1 ∧
        entryOffset (t.committed p n) = if entryHide e then entryOffset e - (s.reference - began) else entryOffset e)) ∧
  (∀ s : State,
    let p := s.args.core
    let n := s.args.entry.toNat
    let e := s.committed p n
    entryValid e = true → entryState e ≠ 0 → entryDeadline e = s.args.word.toNat → s.args.word.toNat ≤ s.reference.toNat →
    ∃ t, exec .tenantDeadline s = .next t ∧ entryDeadline (t.committed p n) = (entryDeadline e + entryPeriod e) % 2 ^ 64 ∧
      entryDeadline (t.tenantEntry p n) = entryDeadline (t.committed p n)) ∧
  (∀ (s u : State) (d : Scheduler),
    let p := s.args.core
    (s.args.flag = true → (s.scheduler p).since ≠ s.args.num → exec .budgetExhausted s = .next s) ∧
    (s.args.flag = false → (s.charge p).scheduler p = d → d.handover = [] → (s.charge p).freezeHolds d = false → u = (s.charge p).giveUp d →
      u.choice d ≠ d.serving → u.livePartition p ≠ [] →
      ∃ t, exec .budgetExhausted s = .next t ∧ (t.scheduler p).serving = u.choice d ∧ (t.scheduler p).outgoing = d.serving ∧
        (t.scheduler p).handover = (u.livePartition p).flatMap fun c => allSlots.map fun k => (c, k))) ∧
  (∀ (s : State) (d : Scheduler) (o : BitVec 16) (area spad : Nat),
    let c := s.args.core
    let k := s.args.slot
    s.schedulerOf (s.core c).pbase = some d → (c, k) ∈ d.handover → (∃ r ∈ d.handover, r ≠ (c, k)) → d.coreWaits c = false →
    s.handoverReady d c k = true → (s.core c).dead = false → s.aheadOf c k = none → s.leavingArea d c = some (o, area, spad) →
    (s.slot c k).tenant = o → s.isLate c k = false →
    ∃ t, exec .slotHandover s = .next t ∧ (t.scheduler d.pbase).handover = keepIf (fun r => r ≠ (c, k)) d.handover ∧
      t.readWord (contextAddr area k + 1472) = (s.slot c k).pc ∧ (d.serving = none → (t.slot c k).state = .idle)) ∧
  (∀ (s : State) (g : Forwarding), (s.core s.args.core).forwarding = [g] → g.tenant = s.args.tenant → g.expires = s.args.num →
    ∃ t, exec .forwardingExpiry s = .next t ∧ (t.core s.args.core).forwarding = [] ∧ s.keepsBytes t ∧ s.keepsWork t)

/-- A one-sided packet is served once, in the address space of its local tenant: a read is answered with the words and their bits, a write stores them and is acknowledged, an atomic leaves its result at the word and answers with the old one; one that comes over a gap is not taken, and one received before is acknowledged again (both log 38, DEDUCED); its access that needs a walk comes to it only after the walk (R66); one that no tenant may receive, or that is stopped other than by the second stage, is refused with nothing performed. An answer lets the transfer go on, a refusal ends it with code 3. An acknowledged packet is kept no longer; one that is refused, or is not acknowledged within 10 ms of being sent again, returns: its message bounces with reason 7, or its transfer ends with code 3. A link's change is logged and noticed, and a retry is counted, from 0 where its operand says so (log 41, DEDUCED) (R222, R275, R276, R348 to R350, R354). The address space is the one of log 33, a DEDUCED reading. -/
def Obligations.Fabric : Prop :=
  (∀ (s u : State) (p : Packet) (t : Slot) (f : Instr) (cls : PacketClass),
    let z : State := { s with cur := { core := s.args.core, slot := s.args.slot } }
    let answers (base v : State) (ok : Bool) (w : Word) (data : List Byte) (full : List Bool) : Prop :=
      v.received = base.received ++ [(p.source, cls, p.seq, ok)] ∧
      if p.source = s.endpoint then
        ∃ e ∈ v.agenda, e.event.kind = .fabricReply ∧ e.event.args.num = p.seq ∧ e.event.args.flag = ok ∧ e.event.args.word = w ∧
          e.event.args.data = data ∧ e.event.args.full = full
      else
        ∃ q, v.outbox = base.outbox ++ [.packet q] ∧ q.dest = p.source ∧ q.cls = cls ∧ q.tenant = p.tenant ∧
          q.answer = some { seq := p.seq, ok := ok, word := w, data := data, full := full }
    let refused : Prop := ∃ v, exec f s = .next v ∧ s.keepsBytes v ∧ s.keepsFull v ∧ answers s v false 0 [] []
    (f, cls) ∈ [(Instr.oneSidedRead, PacketClass.read), (.oneSidedWrite, .write), (.remoteAtomic, .atomic)] → s.args.pkt = some p →
    (s.repeated p.source cls p.seq = true → exec f s = .next (s.sendAck p.source cls p.seq true)) ∧
    (s.repeated p.source cls p.seq = false → s.overGap p.source cls = true → exec f s = .next s) ∧
    (s.repeated p.source cls p.seq = false → s.overGap p.source cls = false →
      (s.servant p = none → refused) ∧
      (s.servant p = some t →
        (∀ ws, f = .oneSidedRead → fetchWords t p.addr ((p.len.toNat + 7) / 8) z = .ok ws u →
          ∃ v, exec f s = .next v ∧
            answers u v true 0 ((ws.flatMap fun w => bytesOfNat w.1.toNat 8).take p.len.toNat) (ws.map Prod.snd)) ∧
        (∀ e, f = .oneSidedRead → fetchWords t p.addr ((p.len.toNat + 7) / 8) z = .error e u → (∀ x, e ≠ .fault x) →
          (∀ g c w, e ≠ .held g c w) → refused) ∧
        (f = .oneSidedWrite → p.data.length % 8 = 0 → depositWords t p.addr (wordsOf p.data p.full (p.data.length / 8)) z = .ok () u →
          ∃ v, exec f s = .next v ∧ v.mem = u.mem ∧ v.memEmpty = u.memEmpty ∧ answers u v true 0 [] []) ∧
        (∀ e, f = .oneSidedWrite → depositWords t p.addr (wordsOf p.data p.full (p.data.length / 8)) z = .error e u → (∀ x, e ≠ .fault x) →
          (∀ g c w, e ≠ .held g c w) → refused) ∧
        (∀ a, f = .remoteAtomic → reachFor t p.addr 8 .rmw z = .ok a u → u.badWord a.place p.addr 8 = none →
          let old : Word := BitVec.ofNat 64 (u.readLoc a.place 8)
          ∃ v, exec f s = .next v ∧ answers u v true old [] [] ∧
            v.readLoc a.place 8 = ((amoValue p.op old p.operand p.expected).getD old).toNat ∧ v.isFull a.place = u.isFull a.place) ∧
        (∀ e, f = .remoteAtomic → reachFor t p.addr 8 .rmw z = .error e u → (∀ x, e ≠ .fault x) →
          (∀ g c w, e ≠ .held g c w) → refused)))) ∧
  (∀ (s : State) (c : CoreId) (ch : BitVec 2) (a : Transfer) (r : List Transfer),
    s.args.pkt = none → s.awaiting s.args.num = some (c, ch) → (s.channel c ch).queue = a :: r →
    (s.args.flag = true → a.op = .remotePut → ∃ t, exec .fabricReply s = .next t ∧ (∀ q ∈ s.kept, q.seq ≠ s.args.num → q ∈ t.kept) ∧
      (t.channel c ch).queue = { a with owed := [], done := a.done + a.got.length, got := [] } :: r) ∧
    (s.args.flag = false → ∃ t, exec .fabricReply s = .next t ∧ (t.channel c ch).queue = { a with owed := [], bad := some 3 } :: r)) ∧
  (∀ (s : State) (p : Packet) (cls : PacketClass), s.args.pkt = some p → s.args.code = BitVec.ofNat 16 cls.code →
    (s.repeated p.source cls p.seq = true → exec .fabricReply s = .next (s.sendAck p.source cls p.seq true)) ∧
    (s.repeated p.source cls p.seq = false → s.overGap p.source cls = true → exec .fabricReply s = .next s) ∧
    (s.repeated p.source cls p.seq = false → s.overGap p.source cls = false →
      ∃ t, exec .fabricReply s = .next t ∧ t.received = s.received ++ [(p.source, cls, p.seq, true)] ∧
        t.outbox = s.outbox ++ [.ack p.source cls p.seq true])) ∧
  (∀ (s : State) (p : KeptPacket), s.kept = [p] → p.seq = s.args.num →
    (s.args.flag = false → exec .packetAcknowledgement s = .next { s with kept := [] }) ∧
    (∀ m, s.args.flag = true → p.transfer = none → p.msgs = [m] → m.origin ≠ .engine → destPackage m.sender = s.endpoint →
      ∃ t, exec .packetAcknowledgement s = .next t ∧ t.kept = [] ∧ ∃ e ∈ t.agenda, e.event.kind = .messageArrival ∧
        ∃ b, e.event.args.msg = some b ∧ b.cls = 1 ∧ b.payload[0] = bounceWord m.cls 7) ∧
    (s.args.flag = true → p.transfer.isSome = true →
      exec .packetAcknowledgement s = .next (({ s with kept := [] } : State).failPacket s.args.num)) ∧
    (p.resent = false → ∃ t, exec .fabricResendTimeout s = .next t ∧ t.kept = [{ p with resent := true, sent := s.now, after := none }] ∧
      t.outbox = s.outbox ++ [.packet { p with resent := true, sent := s.now, after := none }]) ∧
    (p.resent = true → p.sent + 33000000 ≤ s.now → p.msgs = [] → p.transfer = none →
      ∃ t, exec .packetUndeliverable s = .next t ∧ t.kept = [] ∧ ∃ e ∈ t.agenda, e.event.kind = .managementNotice ∧ e.event.args.code = 0x0013)) ∧
  (∀ (s : State) (n : Fin 32), n.val = s.args.num →
    (∃ t, exec .linkStateChange s = .next t ∧ t.controller.linkUp[n] = s.args.flag ∧
      ∃ e ∈ t.agenda, e.event.kind = .managementNotice ∧ e.event.args.code = 0x0012) ∧
    (∃ t, exec .linkLevelRetry s = .next t ∧ t.controller.retries[n] = if s.args.flag then 0 else s.controller.retries[n] + 1))

/-- A power-on, the first or a later one, (what a later one keeps, the flash and the fused minima among it, is log 3, DESIGN CHOICE), with no valid bank leaves the package without one; else the bank with valid images, of the greater sum if both have, is used and start-up ends with a launch for core 0. A request before that is held, and so is one behind requests held, and they are answered in their order; one from an endpoint outside the list is refused but for attestation, which answers with the report; one of unknown code has status 2; a sensor read answers with a sample at most 1 ms old, a log read with 64 entries, a time exchange with the reference, which then goes toward the time asked for (what is replied and the target: DESIGN CHOICE, log 72) by at most 100 ppm and never back; a commit raises the fused minimum of each kind to that of the bank in use, never lowers it, and is logged. A sensor above its limit is kept, logged and noticed (R281 to R288, R295, R351 to R354). The sample that the controller takes itself is log 2, a DESIGN CHOICE; that a newer one may come with the read is log 41, DEDUCED; its width is log 94, and the zeros of entries not yet written are log 95, both DESIGN CHOICE. -/
def Obligations.Controller : Prop :=
  (∀ s : State,
    let b : State := if s.controller.started || s.controller.noBank then s.powerCycle else s
    let k := b.controller.program s.args.num s.args.data
    ∃ t, exec .powerOn s = .next t ∧ match k.choose with
      | none => t.controller.noBank = true ∧ t.controller.started = false ∧ t.mem = b.mem
      | some b => t.controller.started = true ∧ t.controller.bank = some b ∧ t.controller.bootBlock.isSome = true ∧
          ∃ e ∈ t.agenda, e.event.kind = .messageArrival ∧ e.event.args.core = 0 ∧ ∃ m, e.event.args.msg = some m ∧ m.cls = 0 ∧ m.tenant = hvTenant) ∧
  (∀ s : State, s.powerCycle.controller.flash = s.controller.flash ∧ s.powerCycle.controller.minSvn = s.controller.minSvn ∧
    s.powerCycle.controller.started = false ∧ s.powerCycle.mem = [] ∧ s.powerCycle.cores = State.reset.cores) ∧
  (∀ (s : State) (f : Instr) (code : Nat),
    let k := s.controller
    let r := requestOf s.args.endpoint s.args.data
    let e : Event := { kind := f, args := { s.args with num := 0 } }
    let up := k.started || k.noBank
    (f, code) ∈ [(Instr.attestation, 1), (.sensorRead, 2), (.logRead, 3), (.timeExchange, 4), (.commitUpdate, 5)] →
    (k.heldRequests = [] → up = false → exec f s = .next { s with controller := { k with heldRequests := [e] } }) ∧
    (∀ h l, k.heldRequests = h :: l → (s.args.num ≠ 1 ∨ h ≠ e ∨ up = false) →
      exec f s = .next { s with controller := { k with heldRequests := h :: l ++ [e] } }) ∧
    (∀ l u, k.heldRequests = [] ∧ u = s ∨ s.args.num = 1 ∧ k.heldRequests = e :: l ∧ u = { s with controller := { k with heldRequests := l } } →
      (k.noBank = true → exec f s = .next (u.reply r 4 [])) ∧
      (k.noBank = false → k.started = true →
        (r.source ∉ k.allowed → r.code ≠ 1 → exec f s = .next (u.reply r 1 [])) ∧
        (r.source ∈ k.allowed → r.code = 0 ∨ 5 < r.code → exec f s = .next (u.reply r 2 [])) ∧
        (r.code = code → r.source ∈ k.allowed ∨ code = 1 →
          (f = .attestation → exec f s = .next (u.reply r 0 (u.report r.nonce))) ∧
          (∀ n : Fin 7, f = .sensorRead → r.arg.toNat = n.val →
            exec f s = .next ((u.sampled n.val).reply r 0 (bytesOfNat (u.sampled n.val).controller.sensors[n].toNat 2)) ∧
            (s.args.flag = true → (u.sampled n.val).controller.sensors[n] = s.args.code) ∧
            (s.args.flag = false → s.now - k.sampledAt[n] ≤ 3300000 → (u.sampled n.val).controller.sensors[n] = k.sensors[n]) ∧
            (u.sampled n.val).now - (u.sampled n.val).controller.sampledAt[n] ≤ 3300000) ∧
          (f = .sensorRead → 7 ≤ r.arg.toNat → exec f s = .next (u.reply r 3 [])) ∧
          (f = .logRead → r.arg.toNat < 4096 → ∃ l, exec f s = .next (u.reply r 0 l) ∧ l.length = 2048) ∧
          (f = .logRead → 4096 ≤ r.arg.toNat → exec f s = .next (u.reply r 3 [])) ∧
          (f = .timeExchange → ∃ t, exec f s = .next t ∧ t.timeRef = s.reference ∧ t.reference = s.reference ∧
            t.fineTime % timeUnits = s.fineTime % timeUnits ∧ t.controller.slew = timeUnits * (r.time - s.reference).toInt ∧
            t.outbox.length = s.outbox.length + 1) ∧
          (∀ b, f = .commitUpdate → k.bank = some b → ∃ t, exec f s = .next t ∧ t.outbox.length = s.outbox.length + 1 ∧
            ∀ i : Fin 3, (k.minSvn[i]).toNat ≤ (t.controller.minSvn[i]).toNat ∧
              (k.svns false ≠ k.svns true → (((k.svns b)[i.val]?).getD 0).toNat ≤ (t.controller.minSvn[i]).toNat)))))) ∧
  (∀ (s : State) (n m : Nat), s.controller.slewAt ≤ n → n ≤ m →
    let d := ({ s with now := m } : State).fineTime - ({ s with now := n } : State).fineTime
    9999 * ((m - n : Nat) : Int) ≤ d ∧ d ≤ 10001 * ((m - n : Nat) : Int)) ∧
  (∀ (s : State) (n : Fin 7), n.val = s.args.num →
    ∃ t, exec .sensorAboveLimit s = .next t ∧ t.controller.sensors[n] = s.args.code ∧ t.controller.sampledAt[n] = s.now ∧
      ∃ e ∈ t.agenda, e.event.kind = .managementNotice ∧ e.event.args.code = 0x0031)
end

