-- ==== Sys2Proof/Laws/Decode.lean ====
section
/-!
SUPPORT. The fields of a word and the word of its fields are one another's inverse, and so are the codes of the small enumerations
and their decoders (R107 to R120).
-/
namespace Sys2Proof

theorem Fields.ofWord_toWord (f : Fields) : Fields.ofWord f.toWord = f := by
  obtain ⟨op, rd, f3, rs1, rs2, f7⟩ := f
  simp only [Fields.ofWord, Fields.toWord, Fields.mk.injEq]
  refine ⟨?_, ?_, ?_, ?_, ?_, ?_⟩ <;>
  · apply BitVec.eq_of_getLsbD_eq
    intro i hi
    simp only [BitVec.getLsbD_extractLsb', BitVec.getLsbD_append]
    repeat' split
    all_goals first
      | omega
      | (simp only [hi, decide_true, Bool.true_and]; congr 1; omega)

theorem Fields.toWord_ofWord (w : BitVec 32) : (Fields.ofWord w).toWord = w := by
  apply BitVec.eq_of_getLsbD_eq
  intro i hi
  simp only [Fields.ofWord, Fields.toWord, BitVec.getLsbD_extractLsb', BitVec.getLsbD_append]
  repeat' split
  all_goals
    first
      | omega
      | (rw [decide_eq_true (by omega), Bool.true_and]; congr 1; omega)

/-- The halves of a 12-bit immediate put together (R108). -/
@[simp] theorem imm12_halves (i : BitVec 12) : i.extractLsb' 7 5 ++ i.extractLsb' 0 7 = i := by
  apply BitVec.eq_of_getLsbD_eq
  intro j hj
  simp only [BitVec.getLsbD_append, BitVec.getLsbD_extractLsb']
  split
  · simp_all
  · rw [decide_eq_true (by omega), Bool.true_and]
    congr 1
    omega

/-! Register fields narrower than five bits (R110), and the low field of a V-format word. -/

@[simp] theorem wide4_low (r : BitVec 4) : (wide4 r).extractLsb' 0 4 = r := by revert r; decide
@[simp] theorem wide4_top (r : BitVec 4) : (wide4 r)[4] = false := by revert r; decide
@[simp] theorem wide3_low (r : BitVec 3) : (wide3 r).extractLsb' 0 3 = r := by revert r; decide
@[simp] theorem wide3_high (r : BitVec 3) : (wide3 r).extractLsb' 3 2 = 0#2 := by revert r; decide
@[simp] theorem VType.code_mask (t : VType) (m : BitVec 3) : (t.code ++ m).extractLsb' 3 4 = t.code := by revert m; cases t <;> decide
@[simp] theorem VType.mask_code (t : VType) (m : BitVec 3) : (t.code ++ m).extractLsb' 0 3 = m := by revert m; cases t <;> decide

/-! Codes. -/

@[simp] theorem VType.ofCode_code (t : VType) : VType.ofCode t.code = some t := by cases t <;> rfl
@[simp] theorem Fmt.ofCode_code (f : Fmt) : Fmt.ofCode f.code = some f := by cases f <;> rfl
@[simp] theorem Scope.ofCode_code (c : Scope) : Scope.ofCode c.code = some c := by cases c <;> rfl
@[simp] theorem Order.ofCode_code (o : Order) : Order.ofCode o.code = o := by cases o <;> rfl
@[simp] theorem RMode.ofCode_code (r : RMode) : RMode.ofCode r.code = some r := by cases r <;> rfl
@[simp] theorem CmpCond.ofCode_code (c : CmpCond) : CmpCond.ofCode c.code = c := by cases c <;> rfl
@[simp] theorem AmoOp.ofCode_code (o : AmoOp) : AmoOp.ofCode o.code = some o := by cases o <;> rfl
@[simp] theorem ChainForm.ofBit_code (f : ChainForm) : ChainForm.ofBit (f.code.getLsbD 0) = f := by cases f <;> rfl

/-- A word of six fields decodes as its fields do. -/
theorem decode_toWord (f : Fields) :
    decode f.toWord = match decodeFields f with
      | .ok i => match i.formError with | none => .ok i | some e => .error (.form e)
      | .error e => .error e := by
  unfold decode
  rw [Fields.ofWord_toWord] <;> rfl

/-- What the decoder answers is well formed. -/
theorem decode_wellFormed (w : BitVec 32) (i : Instr) (h : decode w = .ok i) : i.WellFormed := by
  unfold decode at h
  split at h
  · split at h
    · injection h with h
      subst h
      assumption
    · cases h
  · cases h

end Sys2Proof
end

