-- ==== Sys2Proof/Laws/Dispatch.lean ====
section
/-!
SUPPORT. The meaning of each constructor, arm by arm.
-/
namespace Sys2Proof.Machine

theorem exec_lb (d s1 : BitVec 5) (imm : BitVec 12) (s : State) : exec (.lb d s1 imm) s = execLb d s1 imm s := rfl
theorem exec_lh (d s1 : BitVec 5) (imm : BitVec 12) (s : State) : exec (.lh d s1 imm) s = execLh d s1 imm s := rfl
theorem exec_lw (d s1 : BitVec 5) (imm : BitVec 12) (s : State) : exec (.lw d s1 imm) s = execLw d s1 imm s := rfl
theorem exec_ld (d s1 : BitVec 5) (imm : BitVec 12) (s : State) : exec (.ld d s1 imm) s = execLd d s1 imm s := rfl
theorem exec_lbz (d s1 : BitVec 5) (imm : BitVec 12) (s : State) : exec (.lbz d s1 imm) s = execLbz d s1 imm s := rfl
theorem exec_lhz (d s1 : BitVec 5) (imm : BitVec 12) (s : State) : exec (.lhz d s1 imm) s = execLhz d s1 imm s := rfl
theorem exec_lwz (d s1 : BitVec 5) (imm : BitVec 12) (s : State) : exec (.lwz d s1 imm) s = execLwz d s1 imm s := rfl
theorem exec_ldAq (d s1 : BitVec 5) (imm : BitVec 12) (s : State) : exec (.ldAq d s1 imm) s = execLdAq d s1 imm s := rfl
theorem exec_sb (imm : BitVec 12) (s1 t : BitVec 5) (s : State) : exec (.sb imm s1 t) s = execSb imm s1 t s := rfl
theorem exec_sh (imm : BitVec 12) (s1 t : BitVec 5) (s : State) : exec (.sh imm s1 t) s = execSh imm s1 t s := rfl
theorem exec_sw (imm : BitVec 12) (s1 t : BitVec 5) (s : State) : exec (.sw imm s1 t) s = execSw imm s1 t s := rfl
theorem exec_sd (imm : BitVec 12) (s1 t : BitVec 5) (s : State) : exec (.sd imm s1 t) s = execSd imm s1 t s := rfl
theorem exec_sdRl (imm : BitVec 12) (s1 t : BitVec 5) (s : State) : exec (.sdRl imm s1 t) s = execSdRl imm s1 t s := rfl
theorem exec_addi (d s1 : BitVec 5) (imm : BitVec 12) (s : State) : exec (.addi d s1 imm) s = execAddi d s1 imm s := rfl
theorem exec_slli (d s1 : BitVec 5) (h : BitVec 6) (s : State) : exec (.slli d s1 h) s = execSlli d s1 h s := rfl
theorem exec_clz (d s1 : BitVec 5) (s : State) : exec (.clz d s1) s = execClz d s1 s := rfl
theorem exec_ctz (d s1 : BitVec 5) (s : State) : exec (.ctz d s1) s = execCtz d s1 s := rfl
theorem exec_popc (d s1 : BitVec 5) (s : State) : exec (.popc d s1) s = execPopc d s1 s := rfl
theorem exec_sextw (d s1 : BitVec 5) (s : State) : exec (.sextw d s1) s = execSextw d s1 s := rfl
theorem exec_zextw (d s1 : BitVec 5) (s : State) : exec (.zextw d s1) s = execZextw d s1 s := rfl
theorem exec_rev8 (d s1 : BitVec 5) (s : State) : exec (.rev8 d s1) s = execRev8 d s1 s := rfl
theorem exec_slti (d s1 : BitVec 5) (imm : BitVec 12) (s : State) : exec (.slti d s1 imm) s = execSlti d s1 imm s := rfl
theorem exec_sltni (d s1 : BitVec 5) (imm : BitVec 12) (s : State) : exec (.sltni d s1 imm) s = execSltni d s1 imm s := rfl
theorem exec_xori (d s1 : BitVec 5) (imm : BitVec 12) (s : State) : exec (.xori d s1 imm) s = execXori d s1 imm s := rfl
theorem exec_srli (d s1 : BitVec 5) (h : BitVec 6) (s : State) : exec (.srli d s1 h) s = execSrli d s1 h s := rfl
theorem exec_srai (d s1 : BitVec 5) (h : BitVec 6) (s : State) : exec (.srai d s1 h) s = execSrai d s1 h s := rfl
theorem exec_ori (d s1 : BitVec 5) (imm : BitVec 12) (s : State) : exec (.ori d s1 imm) s = execOri d s1 imm s := rfl
theorem exec_andi (d s1 : BitVec 5) (imm : BitVec 12) (s : State) : exec (.andi d s1 imm) s = execAndi d s1 imm s := rfl
theorem exec_add (d s1 t : BitVec 5) (s : State) : exec (.add d s1 t) s = execAdd d s1 t s := rfl
theorem exec_sll (d s1 t : BitVec 5) (s : State) : exec (.sll d s1 t) s = execSll d s1 t s := rfl
theorem exec_slt (d s1 t : BitVec 5) (s : State) : exec (.slt d s1 t) s = execSlt d s1 t s := rfl
theorem exec_sltn (d s1 t : BitVec 5) (s : State) : exec (.sltn d s1 t) s = execSltn d s1 t s := rfl
theorem exec_xor (d s1 t : BitVec 5) (s : State) : exec (.xor d s1 t) s = execXor d s1 t s := rfl
theorem exec_srl (d s1 t : BitVec 5) (s : State) : exec (.srl d s1 t) s = execSrl d s1 t s := rfl
theorem exec_or (d s1 t : BitVec 5) (s : State) : exec (.or d s1 t) s = execOr d s1 t s := rfl
theorem exec_and (d s1 t : BitVec 5) (s : State) : exec (.and d s1 t) s = execAnd d s1 t s := rfl
theorem exec_sub (d s1 t : BitVec 5) (s : State) : exec (.sub d s1 t) s = execSub d s1 t s := rfl
theorem exec_sra (d s1 t : BitVec 5) (s : State) : exec (.sra d s1 t) s = execSra d s1 t s := rfl
theorem exec_orn (d s1 t : BitVec 5) (s : State) : exec (.orn d s1 t) s = execOrn d s1 t s := rfl
theorem exec_andn (d s1 t : BitVec 5) (s : State) : exec (.andn d s1 t) s = execAndn d s1 t s := rfl
theorem exec_min (d s1 t : BitVec 5) (s : State) : exec (.min d s1 t) s = execMin d s1 t s := rfl
theorem exec_max (d s1 t : BitVec 5) (s : State) : exec (.max d s1 t) s = execMax d s1 t s := rfl
theorem exec_minn (d s1 t : BitVec 5) (s : State) : exec (.minn d s1 t) s = execMinn d s1 t s := rfl
theorem exec_maxn (d s1 t : BitVec 5) (s : State) : exec (.maxn d s1 t) s = execMaxn d s1 t s := rfl
theorem exec_mul (d s1 t : BitVec 5) (s : State) : exec (.mul d s1 t) s = execMul d s1 t s := rfl
theorem exec_mulh (d s1 t : BitVec 5) (s : State) : exec (.mulh d s1 t) s = execMulh d s1 t s := rfl
theorem exec_mulhn (d s1 t : BitVec 5) (s : State) : exec (.mulhn d s1 t) s = execMulhn d s1 t s := rfl
theorem exec_div (d s1 t : BitVec 5) (s : State) : exec (.div d s1 t) s = execDiv d s1 t s := rfl
theorem exec_divn (d s1 t : BitVec 5) (s : State) : exec (.divn d s1 t) s = execDivn d s1 t s := rfl
theorem exec_rem (d s1 t : BitVec 5) (s : State) : exec (.rem d s1 t) s = execRem d s1 t s := rfl
theorem exec_remn (d s1 t : BitVec 5) (s : State) : exec (.remn d s1 t) s = execRemn d s1 t s := rfl
theorem exec_lhi (d : BitVec 5) (imm : BitVec 20) (s : State) : exec (.lhi d imm) s = execLhi d imm s := rfl
theorem exec_apc (d : BitVec 5) (imm : BitVec 20) (s : State) : exec (.apc d imm) s = execApc d imm s := rfl
theorem exec_jal (d : BitVec 5) (imm : BitVec 20) (s : State) : exec (.jal d imm) s = execJal d imm s := rfl
theorem exec_jalr (d s1 : BitVec 5) (imm : BitVec 12) (s : State) : exec (.jalr d s1 imm) s = execJalr d s1 imm s := rfl
theorem exec_beq (imm : BitVec 12) (s1 t : BitVec 5) (s : State) : exec (.beq imm s1 t) s = execBeq imm s1 t s := rfl
theorem exec_bne (imm : BitVec 12) (s1 t : BitVec 5) (s : State) : exec (.bne imm s1 t) s = execBne imm s1 t s := rfl
theorem exec_blt (imm : BitVec 12) (s1 t : BitVec 5) (s : State) : exec (.blt imm s1 t) s = execBlt imm s1 t s := rfl
theorem exec_bge (imm : BitVec 12) (s1 t : BitVec 5) (s : State) : exec (.bge imm s1 t) s = execBge imm s1 t s := rfl
theorem exec_bltn (imm : BitVec 12) (s1 t : BitVec 5) (s : State) : exec (.bltn imm s1 t) s = execBltn imm s1 t s := rfl
theorem exec_bgen (imm : BitVec 12) (s1 t : BitVec 5) (s : State) : exec (.bgen imm s1 t) s = execBgen imm s1 t s := rfl
theorem exec_fence (c : Scope) (s : State) : exec (.fence c) s = execFence c s := rfl
theorem exec_fenceK (c : Scope) (s : State) : exec (.fenceK c) s = execFenceK c s := rfl
theorem exec_amoswap (d : BitVec 5) (c : Scope) (s1 t : BitVec 5) (o : Order) (s : State) : exec (.amoswap d c s1 t o) s = execAmoswap d c s1 t o s := rfl
theorem exec_amoadd (d : BitVec 5) (c : Scope) (s1 t : BitVec 5) (o : Order) (s : State) : exec (.amoadd d c s1 t o) s = execAmoadd d c s1 t o s := rfl
theorem exec_amoand (d : BitVec 5) (c : Scope) (s1 t : BitVec 5) (o : Order) (s : State) : exec (.amoand d c s1 t o) s = execAmoand d c s1 t o s := rfl
theorem exec_amoor (d : BitVec 5) (c : Scope) (s1 t : BitVec 5) (o : Order) (s : State) : exec (.amoor d c s1 t o) s = execAmoor d c s1 t o s := rfl
theorem exec_amoxor (d : BitVec 5) (c : Scope) (s1 t : BitVec 5) (o : Order) (s : State) : exec (.amoxor d c s1 t o) s = execAmoxor d c s1 t o s := rfl
theorem exec_amomin (d : BitVec 5) (c : Scope) (s1 t : BitVec 5) (o : Order) (s : State) : exec (.amomin d c s1 t o) s = execAmomin d c s1 t o s := rfl
theorem exec_amomax (d : BitVec 5) (c : Scope) (s1 t : BitVec 5) (o : Order) (s : State) : exec (.amomax d c s1 t o) s = execAmomax d c s1 t o s := rfl
theorem exec_amominn (d : BitVec 5) (c : Scope) (s1 t : BitVec 5) (o : Order) (s : State) : exec (.amominn d c s1 t o) s = execAmominn d c s1 t o s := rfl
theorem exec_amomaxn (d : BitVec 5) (c : Scope) (s1 t : BitVec 5) (o : Order) (s : State) : exec (.amomaxn d c s1 t o) s = execAmomaxn d c s1 t o s := rfl
theorem exec_amocas (d : BitVec 5) (c : Scope) (s1 t : BitVec 5) (o : Order) (s : State) : exec (.amocas d c s1 t o) s = execAmocas d c s1 t o s := rfl
theorem exec_ldfe (d s1 : BitVec 5) (imm : BitVec 12) (s : State) : exec (.ldfe d s1 imm) s = execLdfe d s1 imm s := rfl
theorem exec_ldff (d s1 : BitVec 5) (imm : BitVec 12) (s : State) : exec (.ldff d s1 imm) s = execLdff d s1 imm s := rfl
theorem exec_ldfx (d s1 : BitVec 5) (imm : BitVec 12) (s : State) : exec (.ldfx d s1 imm) s = execLdfx d s1 imm s := rfl
theorem exec_sdef (imm : BitVec 12) (s1 t : BitVec 5) (s : State) : exec (.sdef imm s1 t) s = execSdef imm s1 t s := rfl
theorem exec_sdff (imm : BitVec 12) (s1 t : BitVec 5) (s : State) : exec (.sdff imm s1 t) s = execSdff imm s1 t s := rfl
theorem exec_fempty (s1 : BitVec 5) (imm : BitVec 12) (s : State) : exec (.fempty s1 imm) s = execFempty s1 imm s := rfl
theorem exec_fstate (d s1 : BitVec 5) (imm : BitVec 12) (s : State) : exec (.fstate d s1 imm) s = execFstate d s1 imm s := rfl
theorem exec_vld (d : BitVec 4) (s1 : BitVec 5) (t : VType) (m : BitVec 3) (s : State) : exec (.vld d s1 t m) s = execVld d s1 t m s := rfl
theorem exec_vlds (d : BitVec 4) (s1 g : BitVec 5) (t : VType) (m : BitVec 3) (s : State) : exec (.vlds d s1 g t m) s = execVlds d s1 g t m s := rfl
theorem exec_vldx (d : BitVec 4) (s1 : BitVec 5) (v : BitVec 4) (t : VType) (m : BitVec 3) (s : State) : exec (.vldx d s1 v t m) s = execVldx d s1 v t m s := rfl
theorem exec_vst (d : BitVec 4) (s1 : BitVec 5) (t : VType) (m : BitVec 3) (s : State) : exec (.vst d s1 t m) s = execVst d s1 t m s := rfl
theorem exec_vsts (d : BitVec 4) (s1 g : BitVec 5) (t : VType) (m : BitVec 3) (s : State) : exec (.vsts d s1 g t m) s = execVsts d s1 g t m s := rfl
theorem exec_vstx (d : BitVec 4) (s1 : BitVec 5) (v : BitVec 4) (t : VType) (m : BitVec 3) (s : State) : exec (.vstx d s1 v t m) s = execVstx d s1 v t m s := rfl
theorem exec_vadd (d a b : BitVec 4) (t : VType) (m : BitVec 3) (s : State) : exec (.vadd d a b t m) s = execVadd d a b t m s := rfl
theorem exec_vsub (d a b : BitVec 4) (t : VType) (m : BitVec 3) (s : State) : exec (.vsub d a b t m) s = execVsub d a b t m s := rfl
theorem exec_vmul (d a b : BitVec 4) (t : VType) (m : BitVec 3) (s : State) : exec (.vmul d a b t m) s = execVmul d a b t m s := rfl
theorem exec_vdiv (d a b : BitVec 4) (t : VType) (m : BitVec 3) (s : State) : exec (.vdiv d a b t m) s = execVdiv d a b t m s := rfl
theorem exec_vmin (d a b : BitVec 4) (t : VType) (m : BitVec 3) (s : State) : exec (.vmin d a b t m) s = execVmin d a b t m s := rfl
theorem exec_vmax (d a b : BitVec 4) (t : VType) (m : BitVec 3) (s : State) : exec (.vmax d a b t m) s = execVmax d a b t m s := rfl
theorem exec_vfma (d a b : BitVec 4) (t : VType) (m : BitVec 3) (s : State) : exec (.vfma d a b t m) s = execVfma d a b t m s := rfl
theorem exec_vfms (d a b : BitVec 4) (t : VType) (m : BitVec 3) (s : State) : exec (.vfms d a b t m) s = execVfms d a b t m s := rfl
theorem exec_vand (d a b : BitVec 4) (t : VType) (m : BitVec 3) (s : State) : exec (.vand d a b t m) s = execVand d a b t m s := rfl
theorem exec_vor (d a b : BitVec 4) (t : VType) (m : BitVec 3) (s : State) : exec (.vor d a b t m) s = execVor d a b t m s := rfl
theorem exec_vxor (d a b : BitVec 4) (t : VType) (m : BitVec 3) (s : State) : exec (.vxor d a b t m) s = execVxor d a b t m s := rfl
theorem exec_vshl (d a b : BitVec 4) (t : VType) (m : BitVec 3) (s : State) : exec (.vshl d a b t m) s = execVshl d a b t m s := rfl
theorem exec_vshr (d a b : BitVec 4) (t : VType) (m : BitVec 3) (s : State) : exec (.vshr d a b t m) s = execVshr d a b t m s := rfl
theorem exec_vsra (d a b : BitVec 4) (t : VType) (m : BitVec 3) (s : State) : exec (.vsra d a b t m) s = execVsra d a b t m s := rfl
theorem exec_vcmp (c : CmpCond) (n : BitVec 3) (a b : BitVec 4) (t : VType) (m : BitVec 3) (s : State) : exec (.vcmp c n a b t m) s = execVcmp c n a b t m s := rfl
theorem exec_vsel (d a b : BitVec 4) (t : VType) (k : BitVec 3) (s : State) : exec (.vsel d a b t k) s = execVsel d a b t k s := rfl
theorem exec_vperm (d a b : BitVec 4) (t : VType) (m : BitVec 3) (s : State) : exec (.vperm d a b t m) s = execVperm d a b t m s := rfl
theorem exec_vslide (d a : BitVec 4) (g : BitVec 5) (t : VType) (m : BitVec 3) (s : State) : exec (.vslide d a g t m) s = execVslide d a g t m s := rfl
theorem exec_vabs (d a : BitVec 4) (t : VType) (m : BitVec 3) (s : State) : exec (.vabs d a t m) s = execVabs d a t m s := rfl
theorem exec_vneg (d a : BitVec 4) (t : VType) (m : BitVec 3) (s : State) : exec (.vneg d a t m) s = execVneg d a t m s := rfl
theorem exec_vsqrt (d a : BitVec 4) (t : VType) (m : BitVec 3) (s : State) : exec (.vsqrt d a t m) s = execVsqrt d a t m s := rfl
theorem exec_vredsum (d : BitVec 5) (a : BitVec 4) (t : VType) (m : BitVec 3) (s : State) : exec (.vredsum d a t m) s = execVredsum d a t m s := rfl
theorem exec_vredmax (d : BitVec 5) (a : BitVec 4) (t : VType) (m : BitVec 3) (s : State) : exec (.vredmax d a t m) s = execVredmax d a t m s := rfl
theorem exec_vredmin (d : BitVec 5) (a : BitVec 4) (t : VType) (m : BitVec 3) (s : State) : exec (.vredmin d a t m) s = execVredmin d a t m s := rfl
theorem exec_vbcast (d : BitVec 4) (s1 : BitVec 5) (t : VType) (m : BitVec 3) (s : State) : exec (.vbcast d s1 t m) s = execVbcast d s1 t m s := rfl
theorem exec_vmvx (d : BitVec 5) (a : BitVec 4) (t : VType) (s : State) : exec (.vmvx d a t) s = execVmvx d a t s := rfl
theorem exec_mand (d a b : BitVec 3) (s : State) : exec (.mand d a b) s = execMand d a b s := rfl
theorem exec_mor (d a b : BitVec 3) (s : State) : exec (.mor d a b) s = execMor d a b s := rfl
theorem exec_mnot (d a : BitVec 3) (s : State) : exec (.mnot d a) s = execMnot d a s := rfl
theorem exec_vpopm (d : BitVec 5) (a : BitVec 3) (s : State) : exec (.vpopm d a) s = execVpopm d a s := rfl
theorem exec_vcvt (d a : BitVec 4) (src t : VType) (rm : RMode) (m : BitVec 3) (s : State) : exec (.vcvt d a src t rm m) s = execVcvt d a src t rm m s := rfl
theorem exec_mmac (z : BitVec 2) (a b : BitVec 3) (f : Fmt) (pa pb ps : Bool) (s : State) : exec (.mmac z a b f pa pb ps) s = execMmac z a b f pa pb ps s := rfl
theorem exec_mmacs (z : BitVec 2) (a b : BitVec 3) (s1 : BitVec 5) (f : Fmt) (pa pb ps : Bool) (s : State) : exec (.mmacs z a b s1 f pa pb ps) s = execMmacs z a b s1 f pa pb ps s := rfl
theorem exec_mzero (z : BitVec 2) (s : State) : exec (.mzero z) s = execMzero z s := rfl
theorem exec_mldz (s1 : BitVec 5) (z : BitVec 2) (f : Fmt) (s : State) : exec (.mldz s1 z f) s = execMldz s1 z f s := rfl
theorem exec_mstz (s1 : BitVec 5) (z : BitVec 2) (f : Fmt) (s : State) : exec (.mstz s1 z f) s = execMstz s1 z f s := rfl
theorem exec_mscl (a : BitVec 3) (s : State) : exec (.mscl a) s = execMscl a s := rfl
theorem exec_macq (z : BitVec 2) (s : State) : exec (.macq z) s = execMacq z s := rfl
theorem exec_mrel (z : BitVec 2) (s : State) : exec (.mrel z) s = execMrel z s := rfl
theorem exec_matrixOpComplete (s : State) : exec (.matrixOpComplete) s = execMatrixOpComplete s := rfl
theorem exec_rgset (g : BitVec 3) (s1 : BitVec 5) (s : State) : exec (.rgset g s1) s = execRgset g s1 s := rfl
theorem exec_rgwf (g : BitVec 3) (s : State) : exec (.rgwf g) s = execRgwf g s := rfl
theorem exec_rgwe (g : BitVec 3) (s : State) : exec (.rgwe g) s = execRgwe g s := rfl
theorem exec_rghd (g : BitVec 3) (s : State) : exec (.rghd g) s = execRghd g s := rfl
theorem exec_rgtl (g : BitVec 3) (s : State) : exec (.rgtl g) s = execRgtl g s := rfl
theorem exec_rgrd (d : BitVec 5) (g : BitVec 3) (s : State) : exec (.rgrd d g) s = execRgrd d g s := rfl
theorem exec_rpbeg (s : State) : exec (.rpbeg) s = execRpbeg s := rfl
theorem exec_rpend (s : State) : exec (.rpend) s = execRpend s := rfl
theorem exec_rpgo (s1 : BitVec 5) (t : BitVec 4) (s : State) : exec (.rpgo s1 t) s = execRpgo s1 t s := rfl
theorem exec_rpgoa (s1 : BitVec 5) (t : BitVec 4) (s : State) : exec (.rpgoa s1 t) s = execRpgoa s1 t s := rfl
theorem exec_rpjoin (s : State) : exec (.rpjoin) s = execRpjoin s := rfl
theorem exec_bufferIssue (s : State) : exec (.bufferIssue) s = execBufferIssue s := rfl
theorem exec_runaheadJoin (s : State) : exec (.runaheadJoin) s = execRunaheadJoin s := rfl
theorem exec_lbroot (d : BitVec 3) (s1 : BitVec 5) (s : State) : exec (.lbroot d s1) s = execLbroot d s1 s := rfl
theorem exec_lbkid (d a : BitVec 3) (t : BitVec 5) (s : State) : exec (.lbkid d a t) s = execLbkid d a t s := rfl
theorem exec_lbapp (d a : BitVec 3) (s : State) : exec (.lbapp d a) s = execLbapp d a s := rfl
theorem exec_lbins (d a : BitVec 3) (s : State) : exec (.lbins d a) s = execLbins d a s := rfl
theorem exec_lbdel (a : BitVec 3) (s : State) : exec (.lbdel a) s = execLbdel a s := rfl
theorem exec_lbanc (d : BitVec 5) (a b : BitVec 3) (s : State) : exec (.lbanc d a b) s = execLbanc d a b s := rfl
theorem exec_lbcmp (d : BitVec 5) (a b : BitVec 3) (s : State) : exec (.lbcmp d a b) s = execLbcmp d a b s := rfl
theorem exec_lbpar (d a : BitVec 3) (s : State) : exec (.lbpar d a) s = execLbpar d a s := rfl
theorem exec_lbdep (d : BitVec 5) (a : BitVec 3) (s : State) : exec (.lbdep d a) s = execLbdep d a s := rfl
theorem exec_lbres (d : BitVec 5) (a : BitVec 3) (s : State) : exec (.lbres d a) s = execLbres d a s := rfl
theorem exec_lbmov (d a b : BitVec 3) (s : State) : exec (.lbmov d a b) s = execLbmov d a b s := rfl
theorem exec_lbfix (d : BitVec 3) (s : State) : exec (.lbfix d) s = execLbfix d s := rfl
theorem exec_lbcp (d a : BitVec 3) (s : State) : exec (.lbcp d a) s = execLbcp d a s := rfl
theorem exec_lblm (d : BitVec 3) (s1 : BitVec 5) (s : State) : exec (.lblm d s1) s = execLblm d s1 s := rfl
theorem exec_lbsm (s1 : BitVec 5) (b : BitVec 3) (s : State) : exec (.lbsm s1 b) s = execLbsm s1 b s := rfl
theorem exec_lbxg (d : BitVec 5) (a : BitVec 3) (h : BitVec 1) (s : State) : exec (.lbxg d a h) s = execLbxg d a h s := rfl
theorem exec_lbld (d : BitVec 5) (a : BitVec 3) (imm : BitVec 12) (s : State) : exec (.lbld d a imm) s = execLbld d a imm s := rfl
theorem exec_lbst (imm : BitVec 12) (a : BitVec 3) (t : BitVec 5) (s : State) : exec (.lbst imm a t) s = execLbst imm a t s := rfl
theorem exec_kfirst (d : BitVec 5) (a : BitVec 3) (k : BitVec 12) (s : State) : exec (.kfirst d a k) s = execKfirst d a k s := rfl
theorem exec_knext (d : BitVec 5) (a : BitVec 3) (k : BitVec 12) (s : State) : exec (.knext d a k) s = execKnext d a k s := rfl
theorem exec_kredI32 (d : BitVec 5) (c : BitVec 3) (k : BitVec 12) (s : State) : exec (.kredI32 d c k) s = execKredI32 d c k s := rfl
theorem exec_kredI64 (d : BitVec 5) (c : BitVec 3) (k : BitVec 12) (s : State) : exec (.kredI64 d c k) s = execKredI64 d c k s := rfl
theorem exec_kredF32 (d : BitVec 5) (c : BitVec 3) (k : BitVec 12) (s : State) : exec (.kredF32 d c k) s = execKredF32 d c k s := rfl
theorem exec_kredF64 (d : BitVec 5) (c : BitVec 3) (k : BitVec 12) (s : State) : exec (.kredF64 d c k) s = execKredF64 d c k s := rfl
theorem exec_kredComplete (s : State) : exec (.kredComplete) s = execKredComplete s := rfl
theorem exec_skey (d : BitVec 3) (a : BitVec 5) (k : BitVec 12) (s : State) : exec (.skey d a k) s = execSkey d a k s := rfl
theorem exec_sld (d : BitVec 5) (a : BitVec 3) (k : BitVec 12) (s : State) : exec (.sld d a k) s = execSld d a k s := rfl
theorem exec_sst (d : BitVec 5) (a : BitVec 3) (k : BitVec 12) (s : State) : exec (.sst d a k) s = execSst d a k s := rfl
theorem exec_sadd (d : BitVec 5) (a : BitVec 3) (k : BitVec 12) (s : State) : exec (.sadd d a k) s = execSadd d a k s := rfl
theorem exec_scoord (d : BitVec 5) (a : BitVec 3) (k : BitVec 12) (s : State) : exec (.scoord d a k) s = execScoord d a k s := rfl
theorem exec_keyEngineAnswer (s : State) : exec (.keyEngineAnswer) s = execKeyEngineAnswer s := rfl
theorem exec_heldKeyedRequest (s : State) : exec (.heldKeyedRequest) s = execHeldKeyedRequest s := rfl
theorem exec_prefixInvalidate (s : State) : exec (.prefixInvalidate) s = execPrefixInvalidate s := rfl
theorem exec_prefixEntryActivate (s : State) : exec (.prefixEntryActivate) s = execPrefixEntryActivate s := rfl
theorem exec_spawn (s1 : BitVec 5) (imm : BitVec 12) (s : State) : exec (.spawn s1 imm) s = execSpawn s1 imm s := rfl
theorem exec_sret (s : State) : exec (.sret) s = execSret s := rfl
theorem exec_sync (s1 : BitVec 5) (s : State) : exec (.sync s1) s = execSync s1 s := rfl
theorem exec_yield (s : State) : exec (.yield) s = execYield s := rfl
theorem exec_hop (s1 : BitVec 5) (s : State) : exec (.hop s1) s = execHop s1 s := rfl
theorem exec_hopk (a : BitVec 3) (k : BitVec 12) (s : State) : exec (.hopk a k) s = execHopk a k s := rfl
theorem exec_ganggo (s1 : BitVec 5) (s : State) : exec (.ganggo s1) s = execGanggo s1 s := rfl
theorem exec_gbar (n : BitVec 2) (s : State) : exec (.gbar n) s = execGbar n s := rfl
theorem exec_stop (s : State) : exec (.stop) s = execStop s := rfl
theorem exec_gangAdmission (s : State) : exec (.gangAdmission) s = execGangAdmission s := rfl
theorem exec_msend (s1 t : BitVec 5) (c : BitVec 3) (s : State) : exec (.msend s1 t c) s = execMsend s1 t c s := rfl
theorem exec_msendnb (d s1 t : BitVec 5) (c : BitVec 3) (s : State) : exec (.msendnb d s1 t c) s = execMsendnb d s1 t c s := rfl
theorem exec_mdone (s : State) : exec (.mdone) s = execMdone s := rfl
theorem exec_mbput (b : BitVec 3) (t : BitVec 5) (w : BitVec 2) (s : State) : exec (.mbput b t w) s = execMbput b t w s := rfl
theorem exec_mbget (d : BitVec 5) (b : BitVec 3) (w : BitVec 2) (s : State) : exec (.mbget d b w) s = execMbget d b w s := rfl
theorem exec_chgo (s1 t : BitVec 5) (f : ChainForm) (s : State) : exec (.chgo s1 t f) s = execChgo s1 t f s := rfl
theorem exec_get (d : BitVec 5) (imm : BitVec 12) (s : State) : exec (.get d imm) s = execGet d imm s := rfl
theorem exec_put (s1 : BitVec 5) (s : State) : exec (.put s1) s = execPut s1 s := rfl
theorem exec_vget (d : BitVec 4) (imm : BitVec 12) (s : State) : exec (.vget d imm) s = execVget d imm s := rfl
theorem exec_vput (a : BitVec 4) (s : State) : exec (.vput a) s = execVput a s := rfl
theorem exec_chend (s : State) : exec (.chend) s = execChend s := rfl
theorem exec_stageStart (s : State) : exec (.stageStart) s = execStageStart s := rfl
theorem exec_mvcp (d : BitVec 5) (c : BitVec 2) (s1 t : BitVec 5) (s : State) : exec (.mvcp d c s1 t) s = execMvcp d c s1 t s := rfl
theorem exec_mv2d (d : BitVec 5) (c : BitVec 2) (s1 t : BitVec 5) (s : State) : exec (.mv2d d c s1 t) s = execMv2d d c s1 t s := rfl
theorem exec_mvgth (d : BitVec 5) (c : BitVec 2) (s1 t : BitVec 5) (s : State) : exec (.mvgth d c s1 t) s = execMvgth d c s1 t s := rfl
theorem exec_mvsct (d : BitVec 5) (c : BitVec 2) (s1 t : BitVec 5) (s : State) : exec (.mvsct d c s1 t) s = execMvsct d c s1 t s := rfl
theorem exec_mvfill (d : BitVec 5) (c : BitVec 2) (s1 t : BitVec 5) (s : State) : exec (.mvfill d c s1 t) s = execMvfill d c s1 t s := rfl
theorem exec_mvget (d : BitVec 5) (c : BitVec 2) (s1 t : BitVec 5) (s : State) : exec (.mvget d c s1 t) s = execMvget d c s1 t s := rfl
theorem exec_mvput (d : BitVec 5) (c : BitVec 2) (s1 t : BitVec 5) (s : State) : exec (.mvput d c s1 t) s = execMvput d c s1 t s := rfl
theorem exec_mvamo (d : BitVec 5) (c : BitVec 2) (s1 t : BitVec 5) (s : State) : exec (.mvamo d c s1 t) s = execMvamo d c s1 t s := rfl
theorem exec_mvring (d : BitVec 5) (c : BitVec 2) (s1 t : BitVec 5) (s : State) : exec (.mvring d c s1 t) s = execMvring d c s1 t s := rfl
theorem exec_sdense (d : BitVec 5) (c : BitVec 2) (s1 t : BitVec 5) (s : State) : exec (.sdense d c s1 t) s = execSdense d c s1 t s := rfl
theorem exec_ssparse (d : BitVec 5) (c : BitVec 2) (s1 t : BitVec 5) (s : State) : exec (.ssparse d c s1 t) s = execSsparse d c s1 t s := rfl
theorem exec_mvwait (c : BitVec 2) (s1 : BitVec 5) (s : State) : exec (.mvwait c s1) s = execMvwait c s1 s := rfl
theorem exec_mvid (d : BitVec 5) (c : BitVec 2) (s : State) : exec (.mvid d c) s = execMvid d c s := rfl
theorem exec_transferComplete (s : State) : exec (.transferComplete) s = execTransferComplete s := rfl
theorem exec_mvringSlotFree (s : State) : exec (.mvringSlotFree) s = execMvringSlotFree s := rfl
theorem exec_ecall (s : State) : exec (.ecall) s = execEcall s := rfl
theorem exec_ebreak (s : State) : exec (.ebreak) s = execEbreak s := rfl
theorem exec_xret (s : State) : exec (.xret) s = execXret s := rfl
theorem exec_wfm (s : State) : exec (.wfm) s = execWfm s := rfl
theorem exec_fenceI (s : State) : exec (.fenceI) s = execFenceI s := rfl
theorem exec_srd (d : BitVec 5) (r : BitVec 12) (s : State) : exec (.srd d r) s = execSrd d r s := rfl
theorem exec_swr (d s1 : BitVec 5) (r : BitVec 12) (s : State) : exec (.swr d s1 r) s = execSwr d s1 r s := rfl
theorem exec_sset (d s1 : BitVec 5) (r : BitVec 12) (s : State) : exec (.sset d s1 r) s = execSset d s1 r s := rfl
theorem exec_sclr (d s1 : BitVec 5) (r : BitVec 12) (s : State) : exec (.sclr d s1 r) s = execSclr d s1 r s := rfl
theorem exec_tlbinv (s1 t : BitVec 5) (s : State) : exec (.tlbinv s1 t) s = execTlbinv s1 t s := rfl
theorem exec_dtwr (s1 t : BitVec 5) (s : State) : exec (.dtwr s1 t) s = execDtwr s1 t s := rfl
theorem exec_dtrd (s1 t : BitVec 5) (s : State) : exec (.dtrd s1 t) s = execDtrd s1 t s := rfl
theorem exec_wake (s1 : BitVec 5) (s : State) : exec (.wake s1) s = execWake s1 s := rfl
theorem exec_mbind (s1 : BitVec 5) (c : BitVec 3) (s : State) : exec (.mbind s1 c) s = execMbind s1 c s := rfl
theorem exec_chsw (s1 : BitVec 5) (f : ChainForm) (s : State) : exec (.chsw s1 f) s = execChsw s1 f s := rfl
theorem exec_pshare (d s1 t : BitVec 5) (s : State) : exec (.pshare d s1 t) s = execPshare d s1 t s := rfl
theorem exec_systemRegisterWrite (s : State) : exec (.systemRegisterWrite) s = execSystemRegisterWrite s := rfl
theorem exec_sramcfgWrite (s : State) : exec (.sramcfgWrite) s = execSramcfgWrite s := rfl
theorem exec_splitTakesEffect (s : State) : exec (.splitTakesEffect) s = execSplitTakesEffect s := rfl
theorem exec_partitionRegisterWrite (s : State) : exec (.partitionRegisterWrite) s = execPartitionRegisterWrite s := rfl
theorem exec_chainStopMessage (s : State) : exec (.chainStopMessage) s = execChainStopMessage s := rfl
theorem exec_asyncTrap (s : State) : exec (.asyncTrap) s = execAsyncTrap s := rfl
theorem exec_timer (s : State) : exec (.timer) s = execTimer s := rfl
theorem exec_managementNotice (s : State) : exec (.managementNotice) s = execManagementNotice s := rfl
theorem exec_waitLimit (s : State) : exec (.waitLimit) s = execWaitLimit s := rfl
theorem exec_resultUsable (s : State) : exec (.resultUsable) s = execResultUsable s := rfl
theorem exec_pageWalk (s : State) : exec (.pageWalk) s = execPageWalk s := rfl
theorem exec_secondStageResume (s : State) : exec (.secondStageResume) s = execSecondStageResume s := rfl
theorem exec_secondStageHoldTimeout (s : State) : exec (.secondStageHoldTimeout) s = execSecondStageHoldTimeout s := rfl
theorem exec_launch (s : State) : exec (.launch) s = execLaunch s := rfl
theorem exec_hopArrival (s : State) : exec (.hopArrival) s = execHopArrival s := rfl
theorem exec_dequePop (s : State) : exec (.dequePop) s = execDequePop s := rfl
theorem exec_steal (s : State) : exec (.steal) s = execSteal s := rfl
theorem exec_messageArrival (s : State) : exec (.messageArrival) s = execMessageArrival s := rfl
theorem exec_messageDelivery (s : State) : exec (.messageDelivery) s = execMessageDelivery s := rfl
theorem exec_wakeMessage (s : State) : exec (.wakeMessage) s = execWakeMessage s := rfl
theorem exec_halt (s : State) : exec (.halt) s = execHalt s := rfl
theorem exec_slotResume (s : State) : exec (.slotResume) s = execSlotResume s := rfl
theorem exec_stopRequest (s : State) : exec (.stopRequest) s = execStopRequest s := rfl
theorem exec_convert (s : State) : exec (.convert) s = execConvert s := rfl
theorem exec_shootdown (s : State) : exec (.shootdown) s = execShootdown s := rfl
theorem exec_shootdownAck (s : State) : exec (.shootdownAck) s = execShootdownAck s := rfl
theorem exec_rds (s : State) : exec (.rds) s = execRds s := rfl
theorem exec_rdx (s : State) : exec (.rdx) s = execRdx s := rfl
theorem exec_upg (s : State) : exec (.upg) s = execUpg s := rfl
theorem exec_wb (s : State) : exec (.wb) s = execWb s := rfl
theorem exec_forward (s : State) : exec (.forward) s = execForward s := rfl
theorem exec_ownerAnswer (s : State) : exec (.ownerAnswer) s = execOwnerAnswer s := rfl
theorem exec_invalidation (s : State) : exec (.invalidation) s = execInvalidation s := rfl
theorem exec_invalidationAck (s : State) : exec (.invalidationAck) s = execInvalidationAck s := rfl
theorem exec_grant (s : State) : exec (.grant) s = execGrant s := rfl
theorem exec_discoveryAnswer (s : State) : exec (.discoveryAnswer) s = execDiscoveryAnswer s := rfl
theorem exec_directoryDrop (s : State) : exec (.directoryDrop) s = execDirectoryDrop s := rfl
theorem exec_lineEviction (s : State) : exec (.lineEviction) s = execLineEviction s := rfl
theorem exec_powerGate (s : State) : exec (.powerGate) s = execPowerGate s := rfl
theorem exec_answerTimeout (s : State) : exec (.answerTimeout) s = execAnswerTimeout s := rfl
theorem exec_coreDeclaredDead (s : State) : exec (.coreDeclaredDead) s = execCoreDeclaredDead s := rfl
theorem exec_deadCoreRecord (s : State) : exec (.deadCoreRecord) s = execDeadCoreRecord s := rfl
theorem exec_commit (s : State) : exec (.commit) s = execCommit s := rfl
theorem exec_saveCore (s : State) : exec (.saveCore) s = execSaveCore s := rfl
theorem exec_restoreCore (s : State) : exec (.restoreCore) s = execRestoreCore s := rfl
theorem exec_clearForwarding (s : State) : exec (.clearForwarding) s = execClearForwarding s := rfl
theorem exec_freeze (s : State) : exec (.freeze) s = execFreeze s := rfl
theorem exec_resume (s : State) : exec (.resume) s = execResume s := rfl
theorem exec_tenantDeadline (s : State) : exec (.tenantDeadline) s = execTenantDeadline s := rfl
theorem exec_budgetExhausted (s : State) : exec (.budgetExhausted) s = execBudgetExhausted s := rfl
theorem exec_slotHandover (s : State) : exec (.slotHandover) s = execSlotHandover s := rfl
theorem exec_forwardingExpiry (s : State) : exec (.forwardingExpiry) s = execForwardingExpiry s := rfl
theorem exec_hostBatchTimeout (s : State) : exec (.hostBatchTimeout) s = execHostBatchTimeout s := rfl
theorem exec_oneSidedRead (s : State) : exec (.oneSidedRead) s = execOneSidedRead s := rfl
theorem exec_oneSidedWrite (s : State) : exec (.oneSidedWrite) s = execOneSidedWrite s := rfl
theorem exec_remoteAtomic (s : State) : exec (.remoteAtomic) s = execRemoteAtomic s := rfl
theorem exec_fabricReply (s : State) : exec (.fabricReply) s = execFabricReply s := rfl
theorem exec_fabricResendTimeout (s : State) : exec (.fabricResendTimeout) s = execFabricResendTimeout s := rfl
theorem exec_packetUndeliverable (s : State) : exec (.packetUndeliverable) s = execPacketUndeliverable s := rfl
theorem exec_linkStateChange (s : State) : exec (.linkStateChange) s = execLinkStateChange s := rfl
theorem exec_powerOn (s : State) : exec (.powerOn) s = execPowerOn s := rfl
theorem exec_attestation (s : State) : exec (.attestation) s = execAttestation s := rfl
theorem exec_sensorRead (s : State) : exec (.sensorRead) s = execSensorRead s := rfl
theorem exec_logRead (s : State) : exec (.logRead) s = execLogRead s := rfl
theorem exec_timeExchange (s : State) : exec (.timeExchange) s = execTimeExchange s := rfl
theorem exec_commitUpdate (s : State) : exec (.commitUpdate) s = execCommitUpdate s := rfl
theorem exec_sensorAboveLimit (s : State) : exec (.sensorAboveLimit) s = execSensorAboveLimit s := rfl
theorem exec_discoveryProbe (s : State) : exec (.discoveryProbe) s = execDiscoveryProbe s := rfl
theorem exec_neighbourQueueArrival (s : State) : exec (.neighbourQueueArrival) s = execNeighbourQueueArrival s := rfl
theorem exec_linkLevelRetry (s : State) : exec (.linkLevelRetry) s = execLinkLevelRetry s := rfl
theorem exec_packetAcknowledgement (s : State) : exec (.packetAcknowledgement) s = execPacketAcknowledgement s := rfl
theorem exec_powerUpComplete (s : State) : exec (.powerUpComplete) s = execPowerUpComplete s := rfl
theorem exec_illegalInstruction (s : State) : exec (.illegalInstruction) s = execIllegalInstruction s := rfl
theorem exec_instructionFetchFault (s : State) : exec (.instructionFetchFault) s = execInstructionFetchFault s := rfl

end Sys2Proof.Machine
end

