-- ==== Sys2Proof/Laws/Tables.lean ====
section
/-!
SUPPORT. Laws of the lists that stand for tables, sets of numbers and memories: reading back, and the canonical form.
-/
namespace Sys2Proof.Machine

/-! Tables. -/

theorem Table.find_put_same {α : Type} (d : α) (k : Nat) (v : α) (l : List (Nat × α)) : Table.find d k (Table.put k v l) = v := by
  induction l with
  | nil => simp [Table.put, Table.find]
  | cons p r ih =>
    obtain ⟨k', w⟩ := p
    simp only [Table.put]
    split
    · simp [Table.find]
    · split
      · simp [Table.find]
      · rename_i h1 h2
        simp only [Table.find]
        rw [if_neg (fun e => h2 e.symm), ih]

theorem Table.find_put_other {α : Type} (d : α) (k j : Nat) (v : α) (l : List (Nat × α)) (h : j ≠ k) :
    Table.find d j (Table.put k v l) = Table.find d j l := by
  induction l with
  | nil => simp [Table.put, Table.find, Ne.symm h]
  | cons p r ih =>
    obtain ⟨k', w⟩ := p
    simp only [Table.put]
    split
    · simp [Table.find, Ne.symm h]
    · split
      · rename_i h1 h2
        subst h2
        simp [Table.find, Ne.symm h]
      · simp [Table.find, ih]

/-! Sets of numbers. -/

theorem NatSet.has_add (k j : Nat) (l : List Nat) : NatSet.has j (NatSet.add k l) = (decide (k = j) || NatSet.has j l) := by
  induction l with
  | nil => simp [NatSet.add, NatSet.has]
  | cons a r ih =>
    simp only [NatSet.add]
    split
    · simp [NatSet.has]
    · split
      · rename_i h1 h2
        subst h2
        simp [NatSet.has]
      · simp only [NatSet.has, ih]
        cases decide (a = j) <;> cases decide (k = j) <;> simp

theorem NatSet.has_del (k j : Nat) (l : List Nat) : NatSet.has j (NatSet.del k l) = (!decide (k = j) && NatSet.has j l) := by
  induction l with
  | nil => simp [NatSet.del, NatSet.has]
  | cons a r ih =>
    simp only [NatSet.del]
    split
    · rename_i h
      subst h
      simp only [ih, NatSet.has]
      by_cases e : a = j <;> simp [e]
    · rename_i h
      simp only [NatSet.has, ih]
      by_cases e : k = j
      · subst e
        simp [h]
      · simp [e]

theorem NatSet.has_set (k j : Nat) (b : Bool) (l : List Nat) :
    NatSet.has j (NatSet.set k b l) = if k = j then b else NatSet.has j l := by
  unfold NatSet.set
  cases b <;> simp [NatSet.has_add, NatSet.has_del] <;> split <;> simp_all

/-! Memories: reading back. -/

theorem Cells.read_erase (a j : Nat) (l : List Host.Cell) : Cells.read j (Cells.erase a l) = if a = j then 0 else Cells.read j l := by
  induction l with
  | nil => simp [Cells.erase, Cells.read]
  | cons p r ih =>
    obtain ⟨k, b⟩ := p
    simp only [Cells.erase]
    split
    · rename_i h
      subst h
      rw [ih]
      by_cases e : k = j <;> simp [Cells.read, e]
    · rename_i h
      simp only [Cells.read, ih]
      by_cases e : a = j
      · subst e
        simp [h]
      · simp [e]

theorem Cells.read_insert (a j : Nat) (b : Byte) (l : List Host.Cell) :
    Cells.read j (Cells.insert a b l) = if a = j then b else Cells.read j l := by
  induction l with
  | nil => simp [Cells.insert, Cells.read]
  | cons p r ih =>
    obtain ⟨k, v⟩ := p
    simp only [Cells.insert]
    split
    · simp [Cells.read]
    · split
      · rename_i h1 h2
        subst h2
        by_cases e : a = j <;> simp [Cells.read, e]
      · rename_i h1 h2
        simp only [Cells.read, ih]
        by_cases e : a = j
        · subst e
          rw [if_neg (fun e => h2 e.symm)]
          simp
        · simp [e]

/-- A read after a write of one byte. -/
@[simp] theorem Cells.read_write (a j : Nat) (b : Byte) (l : List Host.Cell) :
    Cells.read j (Cells.write a b l) = if a = j then b else Cells.read j l := by
  unfold Cells.write
  split
  · rename_i h
    rw [Cells.read_erase, h]
  · exact Cells.read_insert a j b l

/-- A byte outside the bytes written reads as before. -/
theorem Cells.read_writeNat_other (v a j n : Nat) (l : List Host.Cell) (h : j < a ∨ a + n ≤ j) :
    Cells.read j (Cells.writeNat v a l n) = Cells.read j l := by
  induction n generalizing v a l with
  | zero => rfl
  | succ n ih =>
    simp only [Cells.writeNat]
    rw [ih _ _ _ (by omega), Cells.read_write, if_neg (by omega)]

theorem Cells.readNat_congr (l l' : List Host.Cell) (a n : Nat) (h : ∀ j, a ≤ j → j < a + n → Cells.read j l = Cells.read j l') :
    Cells.readNat l a n = Cells.readNat l' a n := by
  induction n generalizing a with
  | zero => rfl
  | succ n ih =>
    simp only [Cells.readNat]
    rw [h a (Nat.le_refl a) (by omega), ih (a + 1) fun j h1 h2 => h j (by omega) (by omega)]

/-- A read of the bytes written gives the value, cut to their width. -/
theorem Cells.readNat_writeNat (v a n : Nat) (l : List Host.Cell) :
    Cells.readNat (Cells.writeNat v a l n) a n = v % 256 ^ n := by
  induction n generalizing v a l with
  | zero => simp [Cells.readNat, Nat.mod_one]
  | succ n ih =>
    simp only [Cells.readNat, Cells.writeNat]
    rw [ih, Cells.read_writeNat_other _ _ _ _ _ (Or.inl (Nat.lt_succ_self a)), Cells.read_write, if_pos rfl]
    rw [Nat.pow_succ, Nat.mul_comm (256 ^ n) 256, Nat.mod_mul]
    simp

/-- A read apart from the bytes written. -/
theorem Cells.readNat_writeNat_apart (v a n b m : Nat) (l : List Host.Cell) (h : b + m ≤ a ∨ a + n ≤ b) :
    Cells.readNat (Cells.writeNat v a l n) b m = Cells.readNat l b m :=
  Cells.readNat_congr _ _ _ _ fun j h1 h2 => Cells.read_writeNat_other _ _ _ _ _ (by omega)

/-! Memories: the canonical form. -/

theorem Cells.rises_mono {lo hi : Nat} (l : List Host.Cell) (h : lo ≤ hi) (w : Cells.risesFrom hi l = true) :
    Cells.risesFrom lo l = true := by
  cases l with
  | nil => rfl
  | cons p r =>
    obtain ⟨k, b⟩ := p
    simp only [Cells.risesFrom, Bool.and_eq_true, decide_eq_true_eq] at w ⊢
    exact ⟨⟨by omega, w.1.2⟩, w.2⟩

theorem Cells.rises_erase (a lo : Nat) (l : List Host.Cell) (w : Cells.risesFrom lo l = true) :
    Cells.risesFrom lo (Cells.erase a l) = true := by
  induction l generalizing lo with
  | nil => rfl
  | cons p r ih =>
    obtain ⟨k, b⟩ := p
    simp only [Cells.risesFrom, Bool.and_eq_true, decide_eq_true_eq] at w
    simp only [Cells.erase]
    split
    · exact Cells.rises_mono _ (by omega) (ih _ w.2)
    · simp only [Cells.risesFrom, Bool.and_eq_true, decide_eq_true_eq]
      exact ⟨w.1, ih _ w.2⟩

theorem Cells.rises_insert (a lo : Nat) (b : Byte) (l : List Host.Cell) (hb : b ≠ 0) (ha : lo ≤ a)
    (w : Cells.risesFrom lo l = true) : Cells.risesFrom lo (Cells.insert a b l) = true := by
  induction l generalizing lo with
  | nil => simpa [Cells.insert, Cells.risesFrom, ha] using hb
  | cons p r ih =>
    obtain ⟨k, v⟩ := p
    simp only [Cells.risesFrom, Bool.and_eq_true, decide_eq_true_eq] at w
    simp only [Cells.insert]
    split
    · rename_i h
      simp only [Cells.risesFrom, Bool.and_eq_true, decide_eq_true_eq]
      exact ⟨⟨ha, hb⟩, ⟨by omega, w.1.2⟩, w.2⟩
    · split
      · rename_i h
        subst h
        simp only [Cells.risesFrom, Bool.and_eq_true, decide_eq_true_eq]
        exact ⟨⟨ha, hb⟩, w.2⟩
      · simp only [Cells.risesFrom, Bool.and_eq_true, decide_eq_true_eq]
        exact ⟨w.1, ih (k + 1) (by omega) w.2⟩

/-- A write keeps the canonical form. -/
theorem Cells.wf_write (a : Nat) (b : Byte) (l : List Host.Cell) (w : Cells.wf l = true) : Cells.wf (Cells.write a b l) = true := by
  unfold Cells.write
  split
  · exact Cells.rises_erase a 0 l w
  · rename_i h
    exact Cells.rises_insert a 0 b l h (Nat.zero_le a) w

theorem Cells.wf_writeNat (v a n : Nat) (l : List Host.Cell) (w : Cells.wf l = true) : Cells.wf (Cells.writeNat v a l n) = true := by
  induction n generalizing v a l with
  | zero => exact w
  | succ n ih => exact ih _ _ _ (Cells.wf_write _ _ _ w)

/-- Removing the cells that fail a test keeps the canonical form. -/
theorem Cells.wf_keepIf (p : Host.Cell → Bool) (l : List Host.Cell) (w : Cells.wf l = true) : Cells.wf (keepIf p l) = true := by
  suffices h : ∀ lo, Cells.risesFrom lo l = true → Cells.risesFrom lo (keepIf p l) = true from h 0 w
  clear w
  induction l with
  | nil => intro lo _; rfl
  | cons q r ih =>
    intro lo w
    obtain ⟨k, b⟩ := q
    simp only [Cells.risesFrom, Bool.and_eq_true, decide_eq_true_eq] at w
    simp only [keepIf]
    split
    · simp only [Cells.risesFrom, Bool.and_eq_true, decide_eq_true_eq]
      exact ⟨w.1, ih _ w.2⟩
    · exact Cells.rises_mono _ (by omega) (ih _ w.2)

/-- Below the first listed address every byte reads 0. -/
theorem Cells.read_below (lo j : Nat) (l : List Host.Cell) (w : Cells.risesFrom lo l = true) (h : j < lo) : Cells.read j l = 0 := by
  induction l generalizing lo with
  | nil => rfl
  | cons p r ih =>
    obtain ⟨k, b⟩ := p
    simp only [Cells.risesFrom, Bool.and_eq_true, decide_eq_true_eq] at w
    simp only [Cells.read]
    rw [if_neg (by omega)]
    exact ih (k + 1) w.2 (by omega)

/-- Memories of canonical form that read alike everywhere are equal. -/
theorem Cells.ext_of_read (lo : Nat) (l m : List Host.Cell) (wl : Cells.risesFrom lo l = true) (wm : Cells.risesFrom lo m = true)
    (h : ∀ j, Cells.read j l = Cells.read j m) : l = m := by
  induction l generalizing lo m with
  | nil =>
    cases m with
    | nil => rfl
    | cons q s =>
      obtain ⟨k, b⟩ := q
      simp only [Cells.risesFrom, Bool.and_eq_true, decide_eq_true_eq] at wm
      have := h k
      simp only [Cells.read, if_pos] at this
      exact absurd this.symm wm.1.2
  | cons p r ih =>
    obtain ⟨k, b⟩ := p
    simp only [Cells.risesFrom, Bool.and_eq_true, decide_eq_true_eq] at wl
    cases m with
    | nil =>
      have := h k
      simp only [Cells.read, if_pos] at this
      exact absurd this wl.1.2
    | cons q s =>
      obtain ⟨k', b'⟩ := q
      simp only [Cells.risesFrom, Bool.and_eq_true, decide_eq_true_eq] at wm
      have hk : k = k' := by
        rcases Nat.lt_trichotomy k k' with c | c | c
        · have e := h k
          simp only [Cells.read, if_pos, if_neg (Nat.ne_of_gt c)] at e
          rw [Cells.read_below (k' + 1) k s wm.2 (by omega)] at e
          exact absurd e wl.1.2
        · exact c
        · have e := h k'
          simp only [Cells.read, if_pos, if_neg (Nat.ne_of_gt c)] at e
          rw [Cells.read_below (k + 1) k' r wl.2 (by omega)] at e
          exact absurd e.symm wm.1.2
      subst hk
      have hb := h k
      simp only [Cells.read, if_pos] at hb
      subst hb
      congr 1
      refine ih (k + 1) s wl.2 wm.2 fun j => ?_
      by_cases e : k = j
      · subst e
        rw [Cells.read_below (k + 1) k r wl.2 (by omega), Cells.read_below (k + 1) k s wm.2 (by omega)]
      · have := h j
        simpa [Cells.read, e] using this

end Sys2Proof.Machine
end

