-- ==== Sys2Proof/Laws/State.lean ====
section
/-!
SUPPORT. What each update of the state, of a core and of a slot changes, field by field: one lemma for each field and update, so
that no proof unfolds a record update.
-/
namespace Sys2Proof.Machine

/-! `State`. -/

@[simp] theorem State.setCore_mem (s : State) (c : CoreId) (q : Core) : (s.setCore c q).mem = s.mem := rfl
@[simp] theorem State.setCore_memEmpty (s : State) (c : CoreId) (q : Core) : (s.setCore c q).memEmpty = s.memEmpty := rfl
@[simp] theorem State.setCore_memBad (s : State) (c : CoreId) (q : Core) : (s.setCore c q).memBad = s.memBad := rfl
@[simp] theorem State.setCore_s2base (s : State) (c : CoreId) (q : Core) : (s.setCore c q).s2base = s.s2base := rfl
@[simp] theorem State.setCore_tnowoff (s : State) (c : CoreId) (q : Core) : (s.setCore c q).tnowoff = s.tnowoff := rfl
@[simp] theorem State.setCore_s2copies (s : State) (c : CoreId) (q : Core) : (s.setCore c q).s2copies = s.s2copies := rfl
@[simp] theorem State.setCore_dir (s : State) (c : CoreId) (q : Core) : (s.setCore c q).dir = s.dir := rfl
@[simp] theorem State.setCore_l2 (s : State) (c : CoreId) (q : Core) : (s.setCore c q).l2 = s.l2 := rfl
@[simp] theorem State.setCore_lostHeld (s : State) (c : CoreId) (q : Core) : (s.setCore c q).lostHeld = s.lostHeld := rfl
@[simp] theorem State.setCore_arrivals (s : State) (c : CoreId) (q : Core) : (s.setCore c q).arrivals = s.arrivals := rfl
@[simp] theorem State.setCore_waiters (s : State) (c : CoreId) (q : Core) : (s.setCore c q).waiters = s.waiters := rfl
@[simp] theorem State.setCore_gangs (s : State) (c : CoreId) (q : Core) : (s.setCore c q).gangs = s.gangs := rfl
@[simp] theorem State.setCore_admission (s : State) (c : CoreId) (q : Core) : (s.setCore c q).admission = s.admission := rfl
@[simp] theorem State.setCore_chains (s : State) (c : CoreId) (q : Core) : (s.setCore c q).chains = s.chains := rfl
@[simp] theorem State.setCore_prefixJobs (s : State) (c : CoreId) (q : Core) : (s.setCore c q).prefixJobs = s.prefixJobs := rfl
@[simp] theorem State.setCore_reductions (s : State) (c : CoreId) (q : Core) : (s.setCore c q).reductions = s.reductions := rfl
@[simp] theorem State.setCore_failedShards (s : State) (c : CoreId) (q : Core) : (s.setCore c q).failedShards = s.failedShards := rfl
@[simp] theorem State.setCore_retired (s : State) (c : CoreId) (q : Core) : (s.setCore c q).retired = s.retired := rfl
@[simp] theorem State.setCore_shootdowns (s : State) (c : CoreId) (q : Core) : (s.setCore c q).shootdowns = s.shootdowns := rfl
@[simp] theorem State.setCore_overflow (s : State) (c : CoreId) (q : Core) : (s.setCore c q).overflow = s.overflow := rfl
@[simp] theorem State.setCore_kept (s : State) (c : CoreId) (q : Core) : (s.setCore c q).kept = s.kept := rfl
@[simp] theorem State.setCore_received (s : State) (c : CoreId) (q : Core) : (s.setCore c q).received = s.received := rfl
@[simp] theorem State.setCore_batches (s : State) (c : CoreId) (q : Core) : (s.setCore c q).batches = s.batches := rfl
@[simp] theorem State.setCore_schedulers (s : State) (c : CoreId) (q : Core) : (s.setCore c q).schedulers = s.schedulers := rfl
@[simp] theorem State.setCore_parked (s : State) (c : CoreId) (q : Core) : (s.setCore c q).parked = s.parked := rfl
@[simp] theorem State.setCore_timeRef (s : State) (c : CoreId) (q : Core) : (s.setCore c q).timeRef = s.timeRef := rfl
@[simp] theorem State.setCore_endpoint (s : State) (c : CoreId) (q : Core) : (s.setCore c q).endpoint = s.endpoint := rfl
@[simp] theorem State.setCore_controller (s : State) (c : CoreId) (q : Core) : (s.setCore c q).controller = s.controller := rfl
@[simp] theorem State.setCore_outbox (s : State) (c : CoreId) (q : Core) : (s.setCore c q).outbox = s.outbox := rfl
@[simp] theorem State.setCore_now (s : State) (c : CoreId) (q : Core) : (s.setCore c q).now = s.now := rfl
@[simp] theorem State.setCore_fresh (s : State) (c : CoreId) (q : Core) : (s.setCore c q).fresh = s.fresh := rfl
@[simp] theorem State.setCore_schedule (s : State) (c : CoreId) (q : Core) : (s.setCore c q).schedule = s.schedule := rfl
@[simp] theorem State.setCore_agenda (s : State) (c : CoreId) (q : Core) : (s.setCore c q).agenda = s.agenda := rfl
@[simp] theorem State.setCore_cur (s : State) (c : CoreId) (q : Core) : (s.setCore c q).cur = s.cur := rfl
@[simp] theorem State.setCore_args (s : State) (c : CoreId) (q : Core) : (s.setCore c q).args = s.args := rfl
@[simp] theorem State.setSlot_mem (s : State) (c : CoreId) (k : SlotId) (t : Slot) : (s.setSlot c k t).mem = s.mem := rfl
@[simp] theorem State.setSlot_memEmpty (s : State) (c : CoreId) (k : SlotId) (t : Slot) : (s.setSlot c k t).memEmpty = s.memEmpty := rfl
@[simp] theorem State.setSlot_memBad (s : State) (c : CoreId) (k : SlotId) (t : Slot) : (s.setSlot c k t).memBad = s.memBad := rfl
@[simp] theorem State.setSlot_s2base (s : State) (c : CoreId) (k : SlotId) (t : Slot) : (s.setSlot c k t).s2base = s.s2base := rfl
@[simp] theorem State.setSlot_tnowoff (s : State) (c : CoreId) (k : SlotId) (t : Slot) : (s.setSlot c k t).tnowoff = s.tnowoff := rfl
@[simp] theorem State.setSlot_s2copies (s : State) (c : CoreId) (k : SlotId) (t : Slot) : (s.setSlot c k t).s2copies = s.s2copies := rfl
@[simp] theorem State.setSlot_dir (s : State) (c : CoreId) (k : SlotId) (t : Slot) : (s.setSlot c k t).dir = s.dir := rfl
@[simp] theorem State.setSlot_l2 (s : State) (c : CoreId) (k : SlotId) (t : Slot) : (s.setSlot c k t).l2 = s.l2 := rfl
@[simp] theorem State.setSlot_lostHeld (s : State) (c : CoreId) (k : SlotId) (t : Slot) : (s.setSlot c k t).lostHeld = s.lostHeld := rfl
@[simp] theorem State.setSlot_arrivals (s : State) (c : CoreId) (k : SlotId) (t : Slot) : (s.setSlot c k t).arrivals = s.arrivals := rfl
@[simp] theorem State.setSlot_waiters (s : State) (c : CoreId) (k : SlotId) (t : Slot) : (s.setSlot c k t).waiters = s.waiters := rfl
@[simp] theorem State.setSlot_gangs (s : State) (c : CoreId) (k : SlotId) (t : Slot) : (s.setSlot c k t).gangs = s.gangs := rfl
@[simp] theorem State.setSlot_admission (s : State) (c : CoreId) (k : SlotId) (t : Slot) : (s.setSlot c k t).admission = s.admission := rfl
@[simp] theorem State.setSlot_chains (s : State) (c : CoreId) (k : SlotId) (t : Slot) : (s.setSlot c k t).chains = s.chains := rfl
@[simp] theorem State.setSlot_prefixJobs (s : State) (c : CoreId) (k : SlotId) (t : Slot) : (s.setSlot c k t).prefixJobs = s.prefixJobs := rfl
@[simp] theorem State.setSlot_reductions (s : State) (c : CoreId) (k : SlotId) (t : Slot) : (s.setSlot c k t).reductions = s.reductions := rfl
@[simp] theorem State.setSlot_failedShards (s : State) (c : CoreId) (k : SlotId) (t : Slot) : (s.setSlot c k t).failedShards = s.failedShards := rfl
@[simp] theorem State.setSlot_retired (s : State) (c : CoreId) (k : SlotId) (t : Slot) : (s.setSlot c k t).retired = s.retired := rfl
@[simp] theorem State.setSlot_shootdowns (s : State) (c : CoreId) (k : SlotId) (t : Slot) : (s.setSlot c k t).shootdowns = s.shootdowns := rfl
@[simp] theorem State.setSlot_overflow (s : State) (c : CoreId) (k : SlotId) (t : Slot) : (s.setSlot c k t).overflow = s.overflow := rfl
@[simp] theorem State.setSlot_kept (s : State) (c : CoreId) (k : SlotId) (t : Slot) : (s.setSlot c k t).kept = s.kept := rfl
@[simp] theorem State.setSlot_received (s : State) (c : CoreId) (k : SlotId) (t : Slot) : (s.setSlot c k t).received = s.received := rfl
@[simp] theorem State.setSlot_batches (s : State) (c : CoreId) (k : SlotId) (t : Slot) : (s.setSlot c k t).batches = s.batches := rfl
@[simp] theorem State.setSlot_schedulers (s : State) (c : CoreId) (k : SlotId) (t : Slot) : (s.setSlot c k t).schedulers = s.schedulers := rfl
@[simp] theorem State.setSlot_parked (s : State) (c : CoreId) (k : SlotId) (t : Slot) : (s.setSlot c k t).parked = s.parked := rfl
@[simp] theorem State.setSlot_timeRef (s : State) (c : CoreId) (k : SlotId) (t : Slot) : (s.setSlot c k t).timeRef = s.timeRef := rfl
@[simp] theorem State.setSlot_endpoint (s : State) (c : CoreId) (k : SlotId) (t : Slot) : (s.setSlot c k t).endpoint = s.endpoint := rfl
@[simp] theorem State.setSlot_controller (s : State) (c : CoreId) (k : SlotId) (t : Slot) : (s.setSlot c k t).controller = s.controller := rfl
@[simp] theorem State.setSlot_outbox (s : State) (c : CoreId) (k : SlotId) (t : Slot) : (s.setSlot c k t).outbox = s.outbox := rfl
@[simp] theorem State.setSlot_now (s : State) (c : CoreId) (k : SlotId) (t : Slot) : (s.setSlot c k t).now = s.now := rfl
@[simp] theorem State.setSlot_fresh (s : State) (c : CoreId) (k : SlotId) (t : Slot) : (s.setSlot c k t).fresh = s.fresh := rfl
@[simp] theorem State.setSlot_schedule (s : State) (c : CoreId) (k : SlotId) (t : Slot) : (s.setSlot c k t).schedule = s.schedule := rfl
@[simp] theorem State.setSlot_agenda (s : State) (c : CoreId) (k : SlotId) (t : Slot) : (s.setSlot c k t).agenda = s.agenda := rfl
@[simp] theorem State.setSlot_cur (s : State) (c : CoreId) (k : SlotId) (t : Slot) : (s.setSlot c k t).cur = s.cur := rfl
@[simp] theorem State.setSlot_args (s : State) (c : CoreId) (k : SlotId) (t : Slot) : (s.setSlot c k t).args = s.args := rfl
@[simp] theorem State.setMe_mem (s : State) (t : Slot) : (s.setMe t).mem = s.mem := rfl
@[simp] theorem State.setMe_memEmpty (s : State) (t : Slot) : (s.setMe t).memEmpty = s.memEmpty := rfl
@[simp] theorem State.setMe_memBad (s : State) (t : Slot) : (s.setMe t).memBad = s.memBad := rfl
@[simp] theorem State.setMe_s2base (s : State) (t : Slot) : (s.setMe t).s2base = s.s2base := rfl
@[simp] theorem State.setMe_tnowoff (s : State) (t : Slot) : (s.setMe t).tnowoff = s.tnowoff := rfl
@[simp] theorem State.setMe_s2copies (s : State) (t : Slot) : (s.setMe t).s2copies = s.s2copies := rfl
@[simp] theorem State.setMe_dir (s : State) (t : Slot) : (s.setMe t).dir = s.dir := rfl
@[simp] theorem State.setMe_l2 (s : State) (t : Slot) : (s.setMe t).l2 = s.l2 := rfl
@[simp] theorem State.setMe_lostHeld (s : State) (t : Slot) : (s.setMe t).lostHeld = s.lostHeld := rfl
@[simp] theorem State.setMe_arrivals (s : State) (t : Slot) : (s.setMe t).arrivals = s.arrivals := rfl
@[simp] theorem State.setMe_waiters (s : State) (t : Slot) : (s.setMe t).waiters = s.waiters := rfl
@[simp] theorem State.setMe_gangs (s : State) (t : Slot) : (s.setMe t).gangs = s.gangs := rfl
@[simp] theorem State.setMe_admission (s : State) (t : Slot) : (s.setMe t).admission = s.admission := rfl
@[simp] theorem State.setMe_chains (s : State) (t : Slot) : (s.setMe t).chains = s.chains := rfl
@[simp] theorem State.setMe_prefixJobs (s : State) (t : Slot) : (s.setMe t).prefixJobs = s.prefixJobs := rfl
@[simp] theorem State.setMe_reductions (s : State) (t : Slot) : (s.setMe t).reductions = s.reductions := rfl
@[simp] theorem State.setMe_failedShards (s : State) (t : Slot) : (s.setMe t).failedShards = s.failedShards := rfl
@[simp] theorem State.setMe_retired (s : State) (t : Slot) : (s.setMe t).retired = s.retired := rfl
@[simp] theorem State.setMe_shootdowns (s : State) (t : Slot) : (s.setMe t).shootdowns = s.shootdowns := rfl
@[simp] theorem State.setMe_overflow (s : State) (t : Slot) : (s.setMe t).overflow = s.overflow := rfl
@[simp] theorem State.setMe_kept (s : State) (t : Slot) : (s.setMe t).kept = s.kept := rfl
@[simp] theorem State.setMe_received (s : State) (t : Slot) : (s.setMe t).received = s.received := rfl
@[simp] theorem State.setMe_batches (s : State) (t : Slot) : (s.setMe t).batches = s.batches := rfl
@[simp] theorem State.setMe_schedulers (s : State) (t : Slot) : (s.setMe t).schedulers = s.schedulers := rfl
@[simp] theorem State.setMe_parked (s : State) (t : Slot) : (s.setMe t).parked = s.parked := rfl
@[simp] theorem State.setMe_timeRef (s : State) (t : Slot) : (s.setMe t).timeRef = s.timeRef := rfl
@[simp] theorem State.setMe_endpoint (s : State) (t : Slot) : (s.setMe t).endpoint = s.endpoint := rfl
@[simp] theorem State.setMe_controller (s : State) (t : Slot) : (s.setMe t).controller = s.controller := rfl
@[simp] theorem State.setMe_outbox (s : State) (t : Slot) : (s.setMe t).outbox = s.outbox := rfl
@[simp] theorem State.setMe_now (s : State) (t : Slot) : (s.setMe t).now = s.now := rfl
@[simp] theorem State.setMe_fresh (s : State) (t : Slot) : (s.setMe t).fresh = s.fresh := rfl
@[simp] theorem State.setMe_schedule (s : State) (t : Slot) : (s.setMe t).schedule = s.schedule := rfl
@[simp] theorem State.setMe_agenda (s : State) (t : Slot) : (s.setMe t).agenda = s.agenda := rfl
@[simp] theorem State.setMe_cur (s : State) (t : Slot) : (s.setMe t).cur = s.cur := rfl
@[simp] theorem State.setMe_args (s : State) (t : Slot) : (s.setMe t).args = s.args := rfl
@[simp] theorem State.setMyCore_mem (s : State) (q : Core) : (s.setMyCore q).mem = s.mem := rfl
@[simp] theorem State.setMyCore_memEmpty (s : State) (q : Core) : (s.setMyCore q).memEmpty = s.memEmpty := rfl
@[simp] theorem State.setMyCore_memBad (s : State) (q : Core) : (s.setMyCore q).memBad = s.memBad := rfl
@[simp] theorem State.setMyCore_s2base (s : State) (q : Core) : (s.setMyCore q).s2base = s.s2base := rfl
@[simp] theorem State.setMyCore_tnowoff (s : State) (q : Core) : (s.setMyCore q).tnowoff = s.tnowoff := rfl
@[simp] theorem State.setMyCore_s2copies (s : State) (q : Core) : (s.setMyCore q).s2copies = s.s2copies := rfl
@[simp] theorem State.setMyCore_dir (s : State) (q : Core) : (s.setMyCore q).dir = s.dir := rfl
@[simp] theorem State.setMyCore_l2 (s : State) (q : Core) : (s.setMyCore q).l2 = s.l2 := rfl
@[simp] theorem State.setMyCore_lostHeld (s : State) (q : Core) : (s.setMyCore q).lostHeld = s.lostHeld := rfl
@[simp] theorem State.setMyCore_arrivals (s : State) (q : Core) : (s.setMyCore q).arrivals = s.arrivals := rfl
@[simp] theorem State.setMyCore_waiters (s : State) (q : Core) : (s.setMyCore q).waiters = s.waiters := rfl
@[simp] theorem State.setMyCore_gangs (s : State) (q : Core) : (s.setMyCore q).gangs = s.gangs := rfl
@[simp] theorem State.setMyCore_admission (s : State) (q : Core) : (s.setMyCore q).admission = s.admission := rfl
@[simp] theorem State.setMyCore_chains (s : State) (q : Core) : (s.setMyCore q).chains = s.chains := rfl
@[simp] theorem State.setMyCore_prefixJobs (s : State) (q : Core) : (s.setMyCore q).prefixJobs = s.prefixJobs := rfl
@[simp] theorem State.setMyCore_reductions (s : State) (q : Core) : (s.setMyCore q).reductions = s.reductions := rfl
@[simp] theorem State.setMyCore_failedShards (s : State) (q : Core) : (s.setMyCore q).failedShards = s.failedShards := rfl
@[simp] theorem State.setMyCore_retired (s : State) (q : Core) : (s.setMyCore q).retired = s.retired := rfl
@[simp] theorem State.setMyCore_shootdowns (s : State) (q : Core) : (s.setMyCore q).shootdowns = s.shootdowns := rfl
@[simp] theorem State.setMyCore_overflow (s : State) (q : Core) : (s.setMyCore q).overflow = s.overflow := rfl
@[simp] theorem State.setMyCore_kept (s : State) (q : Core) : (s.setMyCore q).kept = s.kept := rfl
@[simp] theorem State.setMyCore_received (s : State) (q : Core) : (s.setMyCore q).received = s.received := rfl
@[simp] theorem State.setMyCore_batches (s : State) (q : Core) : (s.setMyCore q).batches = s.batches := rfl
@[simp] theorem State.setMyCore_schedulers (s : State) (q : Core) : (s.setMyCore q).schedulers = s.schedulers := rfl
@[simp] theorem State.setMyCore_parked (s : State) (q : Core) : (s.setMyCore q).parked = s.parked := rfl
@[simp] theorem State.setMyCore_timeRef (s : State) (q : Core) : (s.setMyCore q).timeRef = s.timeRef := rfl
@[simp] theorem State.setMyCore_endpoint (s : State) (q : Core) : (s.setMyCore q).endpoint = s.endpoint := rfl
@[simp] theorem State.setMyCore_controller (s : State) (q : Core) : (s.setMyCore q).controller = s.controller := rfl
@[simp] theorem State.setMyCore_outbox (s : State) (q : Core) : (s.setMyCore q).outbox = s.outbox := rfl
@[simp] theorem State.setMyCore_now (s : State) (q : Core) : (s.setMyCore q).now = s.now := rfl
@[simp] theorem State.setMyCore_fresh (s : State) (q : Core) : (s.setMyCore q).fresh = s.fresh := rfl
@[simp] theorem State.setMyCore_schedule (s : State) (q : Core) : (s.setMyCore q).schedule = s.schedule := rfl
@[simp] theorem State.setMyCore_agenda (s : State) (q : Core) : (s.setMyCore q).agenda = s.agenda := rfl
@[simp] theorem State.setMyCore_cur (s : State) (q : Core) : (s.setMyCore q).cur = s.cur := rfl
@[simp] theorem State.setMyCore_args (s : State) (q : Core) : (s.setMyCore q).args = s.args := rfl
@[simp] theorem State.modSlot_mem (s : State) (c : CoreId) (k : SlotId) (f : Slot → Slot) : (s.modSlot c k f).mem = s.mem := rfl
@[simp] theorem State.modSlot_memEmpty (s : State) (c : CoreId) (k : SlotId) (f : Slot → Slot) : (s.modSlot c k f).memEmpty = s.memEmpty := rfl
@[simp] theorem State.modSlot_memBad (s : State) (c : CoreId) (k : SlotId) (f : Slot → Slot) : (s.modSlot c k f).memBad = s.memBad := rfl
@[simp] theorem State.modSlot_s2base (s : State) (c : CoreId) (k : SlotId) (f : Slot → Slot) : (s.modSlot c k f).s2base = s.s2base := rfl
@[simp] theorem State.modSlot_tnowoff (s : State) (c : CoreId) (k : SlotId) (f : Slot → Slot) : (s.modSlot c k f).tnowoff = s.tnowoff := rfl
@[simp] theorem State.modSlot_s2copies (s : State) (c : CoreId) (k : SlotId) (f : Slot → Slot) : (s.modSlot c k f).s2copies = s.s2copies := rfl
@[simp] theorem State.modSlot_dir (s : State) (c : CoreId) (k : SlotId) (f : Slot → Slot) : (s.modSlot c k f).dir = s.dir := rfl
@[simp] theorem State.modSlot_l2 (s : State) (c : CoreId) (k : SlotId) (f : Slot → Slot) : (s.modSlot c k f).l2 = s.l2 := rfl
@[simp] theorem State.modSlot_lostHeld (s : State) (c : CoreId) (k : SlotId) (f : Slot → Slot) : (s.modSlot c k f).lostHeld = s.lostHeld := rfl
@[simp] theorem State.modSlot_arrivals (s : State) (c : CoreId) (k : SlotId) (f : Slot → Slot) : (s.modSlot c k f).arrivals = s.arrivals := rfl
@[simp] theorem State.modSlot_waiters (s : State) (c : CoreId) (k : SlotId) (f : Slot → Slot) : (s.modSlot c k f).waiters = s.waiters := rfl
@[simp] theorem State.modSlot_gangs (s : State) (c : CoreId) (k : SlotId) (f : Slot → Slot) : (s.modSlot c k f).gangs = s.gangs := rfl
@[simp] theorem State.modSlot_admission (s : State) (c : CoreId) (k : SlotId) (f : Slot → Slot) : (s.modSlot c k f).admission = s.admission := rfl
@[simp] theorem State.modSlot_chains (s : State) (c : CoreId) (k : SlotId) (f : Slot → Slot) : (s.modSlot c k f).chains = s.chains := rfl
@[simp] theorem State.modSlot_prefixJobs (s : State) (c : CoreId) (k : SlotId) (f : Slot → Slot) : (s.modSlot c k f).prefixJobs = s.prefixJobs := rfl
@[simp] theorem State.modSlot_reductions (s : State) (c : CoreId) (k : SlotId) (f : Slot → Slot) : (s.modSlot c k f).reductions = s.reductions := rfl
@[simp] theorem State.modSlot_failedShards (s : State) (c : CoreId) (k : SlotId) (f : Slot → Slot) : (s.modSlot c k f).failedShards = s.failedShards := rfl
@[simp] theorem State.modSlot_retired (s : State) (c : CoreId) (k : SlotId) (f : Slot → Slot) : (s.modSlot c k f).retired = s.retired := rfl
@[simp] theorem State.modSlot_shootdowns (s : State) (c : CoreId) (k : SlotId) (f : Slot → Slot) : (s.modSlot c k f).shootdowns = s.shootdowns := rfl
@[simp] theorem State.modSlot_overflow (s : State) (c : CoreId) (k : SlotId) (f : Slot → Slot) : (s.modSlot c k f).overflow = s.overflow := rfl
@[simp] theorem State.modSlot_kept (s : State) (c : CoreId) (k : SlotId) (f : Slot → Slot) : (s.modSlot c k f).kept = s.kept := rfl
@[simp] theorem State.modSlot_received (s : State) (c : CoreId) (k : SlotId) (f : Slot → Slot) : (s.modSlot c k f).received = s.received := rfl
@[simp] theorem State.modSlot_batches (s : State) (c : CoreId) (k : SlotId) (f : Slot → Slot) : (s.modSlot c k f).batches = s.batches := rfl
@[simp] theorem State.modSlot_schedulers (s : State) (c : CoreId) (k : SlotId) (f : Slot → Slot) : (s.modSlot c k f).schedulers = s.schedulers := rfl
@[simp] theorem State.modSlot_parked (s : State) (c : CoreId) (k : SlotId) (f : Slot → Slot) : (s.modSlot c k f).parked = s.parked := rfl
@[simp] theorem State.modSlot_timeRef (s : State) (c : CoreId) (k : SlotId) (f : Slot → Slot) : (s.modSlot c k f).timeRef = s.timeRef := rfl
@[simp] theorem State.modSlot_endpoint (s : State) (c : CoreId) (k : SlotId) (f : Slot → Slot) : (s.modSlot c k f).endpoint = s.endpoint := rfl
@[simp] theorem State.modSlot_controller (s : State) (c : CoreId) (k : SlotId) (f : Slot → Slot) : (s.modSlot c k f).controller = s.controller := rfl
@[simp] theorem State.modSlot_outbox (s : State) (c : CoreId) (k : SlotId) (f : Slot → Slot) : (s.modSlot c k f).outbox = s.outbox := rfl
@[simp] theorem State.modSlot_now (s : State) (c : CoreId) (k : SlotId) (f : Slot → Slot) : (s.modSlot c k f).now = s.now := rfl
@[simp] theorem State.modSlot_fresh (s : State) (c : CoreId) (k : SlotId) (f : Slot → Slot) : (s.modSlot c k f).fresh = s.fresh := rfl
@[simp] theorem State.modSlot_schedule (s : State) (c : CoreId) (k : SlotId) (f : Slot → Slot) : (s.modSlot c k f).schedule = s.schedule := rfl
@[simp] theorem State.modSlot_agenda (s : State) (c : CoreId) (k : SlotId) (f : Slot → Slot) : (s.modSlot c k f).agenda = s.agenda := rfl
@[simp] theorem State.modSlot_cur (s : State) (c : CoreId) (k : SlotId) (f : Slot → Slot) : (s.modSlot c k f).cur = s.cur := rfl
@[simp] theorem State.modSlot_args (s : State) (c : CoreId) (k : SlotId) (f : Slot → Slot) : (s.modSlot c k f).args = s.args := rfl
@[simp] theorem State.modCore_mem (s : State) (c : CoreId) (f : Core → Core) : (s.modCore c f).mem = s.mem := rfl
@[simp] theorem State.modCore_memEmpty (s : State) (c : CoreId) (f : Core → Core) : (s.modCore c f).memEmpty = s.memEmpty := rfl
@[simp] theorem State.modCore_memBad (s : State) (c : CoreId) (f : Core → Core) : (s.modCore c f).memBad = s.memBad := rfl
@[simp] theorem State.modCore_s2base (s : State) (c : CoreId) (f : Core → Core) : (s.modCore c f).s2base = s.s2base := rfl
@[simp] theorem State.modCore_tnowoff (s : State) (c : CoreId) (f : Core → Core) : (s.modCore c f).tnowoff = s.tnowoff := rfl
@[simp] theorem State.modCore_s2copies (s : State) (c : CoreId) (f : Core → Core) : (s.modCore c f).s2copies = s.s2copies := rfl
@[simp] theorem State.modCore_dir (s : State) (c : CoreId) (f : Core → Core) : (s.modCore c f).dir = s.dir := rfl
@[simp] theorem State.modCore_l2 (s : State) (c : CoreId) (f : Core → Core) : (s.modCore c f).l2 = s.l2 := rfl
@[simp] theorem State.modCore_lostHeld (s : State) (c : CoreId) (f : Core → Core) : (s.modCore c f).lostHeld = s.lostHeld := rfl
@[simp] theorem State.modCore_arrivals (s : State) (c : CoreId) (f : Core → Core) : (s.modCore c f).arrivals = s.arrivals := rfl
@[simp] theorem State.modCore_waiters (s : State) (c : CoreId) (f : Core → Core) : (s.modCore c f).waiters = s.waiters := rfl
@[simp] theorem State.modCore_gangs (s : State) (c : CoreId) (f : Core → Core) : (s.modCore c f).gangs = s.gangs := rfl
@[simp] theorem State.modCore_admission (s : State) (c : CoreId) (f : Core → Core) : (s.modCore c f).admission = s.admission := rfl
@[simp] theorem State.modCore_chains (s : State) (c : CoreId) (f : Core → Core) : (s.modCore c f).chains = s.chains := rfl
@[simp] theorem State.modCore_prefixJobs (s : State) (c : CoreId) (f : Core → Core) : (s.modCore c f).prefixJobs = s.prefixJobs := rfl
@[simp] theorem State.modCore_reductions (s : State) (c : CoreId) (f : Core → Core) : (s.modCore c f).reductions = s.reductions := rfl
@[simp] theorem State.modCore_failedShards (s : State) (c : CoreId) (f : Core → Core) : (s.modCore c f).failedShards = s.failedShards := rfl
@[simp] theorem State.modCore_retired (s : State) (c : CoreId) (f : Core → Core) : (s.modCore c f).retired = s.retired := rfl
@[simp] theorem State.modCore_shootdowns (s : State) (c : CoreId) (f : Core → Core) : (s.modCore c f).shootdowns = s.shootdowns := rfl
@[simp] theorem State.modCore_overflow (s : State) (c : CoreId) (f : Core → Core) : (s.modCore c f).overflow = s.overflow := rfl
@[simp] theorem State.modCore_kept (s : State) (c : CoreId) (f : Core → Core) : (s.modCore c f).kept = s.kept := rfl
@[simp] theorem State.modCore_received (s : State) (c : CoreId) (f : Core → Core) : (s.modCore c f).received = s.received := rfl
@[simp] theorem State.modCore_batches (s : State) (c : CoreId) (f : Core → Core) : (s.modCore c f).batches = s.batches := rfl
@[simp] theorem State.modCore_schedulers (s : State) (c : CoreId) (f : Core → Core) : (s.modCore c f).schedulers = s.schedulers := rfl
@[simp] theorem State.modCore_parked (s : State) (c : CoreId) (f : Core → Core) : (s.modCore c f).parked = s.parked := rfl
@[simp] theorem State.modCore_timeRef (s : State) (c : CoreId) (f : Core → Core) : (s.modCore c f).timeRef = s.timeRef := rfl
@[simp] theorem State.modCore_endpoint (s : State) (c : CoreId) (f : Core → Core) : (s.modCore c f).endpoint = s.endpoint := rfl
@[simp] theorem State.modCore_controller (s : State) (c : CoreId) (f : Core → Core) : (s.modCore c f).controller = s.controller := rfl
@[simp] theorem State.modCore_outbox (s : State) (c : CoreId) (f : Core → Core) : (s.modCore c f).outbox = s.outbox := rfl
@[simp] theorem State.modCore_now (s : State) (c : CoreId) (f : Core → Core) : (s.modCore c f).now = s.now := rfl
@[simp] theorem State.modCore_fresh (s : State) (c : CoreId) (f : Core → Core) : (s.modCore c f).fresh = s.fresh := rfl
@[simp] theorem State.modCore_schedule (s : State) (c : CoreId) (f : Core → Core) : (s.modCore c f).schedule = s.schedule := rfl
@[simp] theorem State.modCore_agenda (s : State) (c : CoreId) (f : Core → Core) : (s.modCore c f).agenda = s.agenda := rfl
@[simp] theorem State.modCore_cur (s : State) (c : CoreId) (f : Core → Core) : (s.modCore c f).cur = s.cur := rfl
@[simp] theorem State.modCore_args (s : State) (c : CoreId) (f : Core → Core) : (s.modCore c f).args = s.args := rfl
@[simp] theorem State.modMe_mem (s : State) (f : Slot → Slot) : (s.modMe f).mem = s.mem := rfl
@[simp] theorem State.modMe_memEmpty (s : State) (f : Slot → Slot) : (s.modMe f).memEmpty = s.memEmpty := rfl
@[simp] theorem State.modMe_memBad (s : State) (f : Slot → Slot) : (s.modMe f).memBad = s.memBad := rfl
@[simp] theorem State.modMe_s2base (s : State) (f : Slot → Slot) : (s.modMe f).s2base = s.s2base := rfl
@[simp] theorem State.modMe_tnowoff (s : State) (f : Slot → Slot) : (s.modMe f).tnowoff = s.tnowoff := rfl
@[simp] theorem State.modMe_s2copies (s : State) (f : Slot → Slot) : (s.modMe f).s2copies = s.s2copies := rfl
@[simp] theorem State.modMe_dir (s : State) (f : Slot → Slot) : (s.modMe f).dir = s.dir := rfl
@[simp] theorem State.modMe_l2 (s : State) (f : Slot → Slot) : (s.modMe f).l2 = s.l2 := rfl
@[simp] theorem State.modMe_lostHeld (s : State) (f : Slot → Slot) : (s.modMe f).lostHeld = s.lostHeld := rfl
@[simp] theorem State.modMe_arrivals (s : State) (f : Slot → Slot) : (s.modMe f).arrivals = s.arrivals := rfl
@[simp] theorem State.modMe_waiters (s : State) (f : Slot → Slot) : (s.modMe f).waiters = s.waiters := rfl
@[simp] theorem State.modMe_gangs (s : State) (f : Slot → Slot) : (s.modMe f).gangs = s.gangs := rfl
@[simp] theorem State.modMe_admission (s : State) (f : Slot → Slot) : (s.modMe f).admission = s.admission := rfl
@[simp] theorem State.modMe_chains (s : State) (f : Slot → Slot) : (s.modMe f).chains = s.chains := rfl
@[simp] theorem State.modMe_prefixJobs (s : State) (f : Slot → Slot) : (s.modMe f).prefixJobs = s.prefixJobs := rfl
@[simp] theorem State.modMe_reductions (s : State) (f : Slot → Slot) : (s.modMe f).reductions = s.reductions := rfl
@[simp] theorem State.modMe_failedShards (s : State) (f : Slot → Slot) : (s.modMe f).failedShards = s.failedShards := rfl
@[simp] theorem State.modMe_retired (s : State) (f : Slot → Slot) : (s.modMe f).retired = s.retired := rfl
@[simp] theorem State.modMe_shootdowns (s : State) (f : Slot → Slot) : (s.modMe f).shootdowns = s.shootdowns := rfl
@[simp] theorem State.modMe_overflow (s : State) (f : Slot → Slot) : (s.modMe f).overflow = s.overflow := rfl
@[simp] theorem State.modMe_kept (s : State) (f : Slot → Slot) : (s.modMe f).kept = s.kept := rfl
@[simp] theorem State.modMe_received (s : State) (f : Slot → Slot) : (s.modMe f).received = s.received := rfl
@[simp] theorem State.modMe_batches (s : State) (f : Slot → Slot) : (s.modMe f).batches = s.batches := rfl
@[simp] theorem State.modMe_schedulers (s : State) (f : Slot → Slot) : (s.modMe f).schedulers = s.schedulers := rfl
@[simp] theorem State.modMe_parked (s : State) (f : Slot → Slot) : (s.modMe f).parked = s.parked := rfl
@[simp] theorem State.modMe_timeRef (s : State) (f : Slot → Slot) : (s.modMe f).timeRef = s.timeRef := rfl
@[simp] theorem State.modMe_endpoint (s : State) (f : Slot → Slot) : (s.modMe f).endpoint = s.endpoint := rfl
@[simp] theorem State.modMe_controller (s : State) (f : Slot → Slot) : (s.modMe f).controller = s.controller := rfl
@[simp] theorem State.modMe_outbox (s : State) (f : Slot → Slot) : (s.modMe f).outbox = s.outbox := rfl
@[simp] theorem State.modMe_now (s : State) (f : Slot → Slot) : (s.modMe f).now = s.now := rfl
@[simp] theorem State.modMe_fresh (s : State) (f : Slot → Slot) : (s.modMe f).fresh = s.fresh := rfl
@[simp] theorem State.modMe_schedule (s : State) (f : Slot → Slot) : (s.modMe f).schedule = s.schedule := rfl
@[simp] theorem State.modMe_agenda (s : State) (f : Slot → Slot) : (s.modMe f).agenda = s.agenda := rfl
@[simp] theorem State.modMe_cur (s : State) (f : Slot → Slot) : (s.modMe f).cur = s.cur := rfl
@[simp] theorem State.modMe_args (s : State) (f : Slot → Slot) : (s.modMe f).args = s.args := rfl
@[simp] theorem State.post_mem (s : State) (e : Instr) (a : EventArgs) (n : Nat) : (s.post e a n).mem = s.mem := rfl
@[simp] theorem State.post_memEmpty (s : State) (e : Instr) (a : EventArgs) (n : Nat) : (s.post e a n).memEmpty = s.memEmpty := rfl
@[simp] theorem State.post_memBad (s : State) (e : Instr) (a : EventArgs) (n : Nat) : (s.post e a n).memBad = s.memBad := rfl
@[simp] theorem State.post_cores (s : State) (e : Instr) (a : EventArgs) (n : Nat) : (s.post e a n).cores = s.cores := rfl
@[simp] theorem State.post_s2base (s : State) (e : Instr) (a : EventArgs) (n : Nat) : (s.post e a n).s2base = s.s2base := rfl
@[simp] theorem State.post_tnowoff (s : State) (e : Instr) (a : EventArgs) (n : Nat) : (s.post e a n).tnowoff = s.tnowoff := rfl
@[simp] theorem State.post_s2copies (s : State) (e : Instr) (a : EventArgs) (n : Nat) : (s.post e a n).s2copies = s.s2copies := rfl
@[simp] theorem State.post_dir (s : State) (e : Instr) (a : EventArgs) (n : Nat) : (s.post e a n).dir = s.dir := rfl
@[simp] theorem State.post_l2 (s : State) (e : Instr) (a : EventArgs) (n : Nat) : (s.post e a n).l2 = s.l2 := rfl
@[simp] theorem State.post_lostHeld (s : State) (e : Instr) (a : EventArgs) (n : Nat) : (s.post e a n).lostHeld = s.lostHeld := rfl
@[simp] theorem State.post_arrivals (s : State) (e : Instr) (a : EventArgs) (n : Nat) : (s.post e a n).arrivals = s.arrivals := rfl
@[simp] theorem State.post_waiters (s : State) (e : Instr) (a : EventArgs) (n : Nat) : (s.post e a n).waiters = s.waiters := rfl
@[simp] theorem State.post_gangs (s : State) (e : Instr) (a : EventArgs) (n : Nat) : (s.post e a n).gangs = s.gangs := rfl
@[simp] theorem State.post_admission (s : State) (e : Instr) (a : EventArgs) (n : Nat) : (s.post e a n).admission = s.admission := rfl
@[simp] theorem State.post_chains (s : State) (e : Instr) (a : EventArgs) (n : Nat) : (s.post e a n).chains = s.chains := rfl
@[simp] theorem State.post_prefixJobs (s : State) (e : Instr) (a : EventArgs) (n : Nat) : (s.post e a n).prefixJobs = s.prefixJobs := rfl
@[simp] theorem State.post_reductions (s : State) (e : Instr) (a : EventArgs) (n : Nat) : (s.post e a n).reductions = s.reductions := rfl
@[simp] theorem State.post_failedShards (s : State) (e : Instr) (a : EventArgs) (n : Nat) : (s.post e a n).failedShards = s.failedShards := rfl
@[simp] theorem State.post_retired (s : State) (e : Instr) (a : EventArgs) (n : Nat) : (s.post e a n).retired = s.retired := rfl
@[simp] theorem State.post_shootdowns (s : State) (e : Instr) (a : EventArgs) (n : Nat) : (s.post e a n).shootdowns = s.shootdowns := rfl
@[simp] theorem State.post_overflow (s : State) (e : Instr) (a : EventArgs) (n : Nat) : (s.post e a n).overflow = s.overflow := rfl
@[simp] theorem State.post_kept (s : State) (e : Instr) (a : EventArgs) (n : Nat) : (s.post e a n).kept = s.kept := rfl
@[simp] theorem State.post_received (s : State) (e : Instr) (a : EventArgs) (n : Nat) : (s.post e a n).received = s.received := rfl
@[simp] theorem State.post_batches (s : State) (e : Instr) (a : EventArgs) (n : Nat) : (s.post e a n).batches = s.batches := rfl
@[simp] theorem State.post_schedulers (s : State) (e : Instr) (a : EventArgs) (n : Nat) : (s.post e a n).schedulers = s.schedulers := rfl
@[simp] theorem State.post_parked (s : State) (e : Instr) (a : EventArgs) (n : Nat) : (s.post e a n).parked = s.parked := rfl
@[simp] theorem State.post_timeRef (s : State) (e : Instr) (a : EventArgs) (n : Nat) : (s.post e a n).timeRef = s.timeRef := rfl
@[simp] theorem State.post_endpoint (s : State) (e : Instr) (a : EventArgs) (n : Nat) : (s.post e a n).endpoint = s.endpoint := rfl
@[simp] theorem State.post_controller (s : State) (e : Instr) (a : EventArgs) (n : Nat) : (s.post e a n).controller = s.controller := rfl
@[simp] theorem State.post_outbox (s : State) (e : Instr) (a : EventArgs) (n : Nat) : (s.post e a n).outbox = s.outbox := rfl
@[simp] theorem State.post_now (s : State) (e : Instr) (a : EventArgs) (n : Nat) : (s.post e a n).now = s.now := rfl
@[simp] theorem State.post_fresh (s : State) (e : Instr) (a : EventArgs) (n : Nat) : (s.post e a n).fresh = s.fresh := rfl
@[simp] theorem State.post_schedule (s : State) (e : Instr) (a : EventArgs) (n : Nat) : (s.post e a n).schedule = s.schedule := rfl
@[simp] theorem State.post_cur (s : State) (e : Instr) (a : EventArgs) (n : Nat) : (s.post e a n).cur = s.cur := rfl
@[simp] theorem State.post_args (s : State) (e : Instr) (a : EventArgs) (n : Nat) : (s.post e a n).args = s.args := rfl
@[simp] theorem State.post_agenda (s : State) (e : Instr) (a : EventArgs) (n : Nat) : (s.post e a n).agenda = s.agenda ++ [{ after := s.now + n, event := { kind := e, args := a } }] := rfl
@[simp] theorem State.memWrite_memEmpty (s : State) (a n v : Nat) : (s.memWrite a n v).memEmpty = s.memEmpty := rfl
@[simp] theorem State.memWrite_memBad (s : State) (a n v : Nat) : (s.memWrite a n v).memBad = s.memBad := rfl
@[simp] theorem State.memWrite_cores (s : State) (a n v : Nat) : (s.memWrite a n v).cores = s.cores := rfl
@[simp] theorem State.memWrite_s2base (s : State) (a n v : Nat) : (s.memWrite a n v).s2base = s.s2base := rfl
@[simp] theorem State.memWrite_tnowoff (s : State) (a n v : Nat) : (s.memWrite a n v).tnowoff = s.tnowoff := rfl
@[simp] theorem State.memWrite_s2copies (s : State) (a n v : Nat) : (s.memWrite a n v).s2copies = s.s2copies := rfl
@[simp] theorem State.memWrite_dir (s : State) (a n v : Nat) : (s.memWrite a n v).dir = s.dir := rfl
@[simp] theorem State.memWrite_l2 (s : State) (a n v : Nat) : (s.memWrite a n v).l2 = s.l2 := rfl
@[simp] theorem State.memWrite_lostHeld (s : State) (a n v : Nat) : (s.memWrite a n v).lostHeld = s.lostHeld := rfl
@[simp] theorem State.memWrite_arrivals (s : State) (a n v : Nat) : (s.memWrite a n v).arrivals = s.arrivals := rfl
@[simp] theorem State.memWrite_waiters (s : State) (a n v : Nat) : (s.memWrite a n v).waiters = s.waiters := rfl
@[simp] theorem State.memWrite_gangs (s : State) (a n v : Nat) : (s.memWrite a n v).gangs = s.gangs := rfl
@[simp] theorem State.memWrite_admission (s : State) (a n v : Nat) : (s.memWrite a n v).admission = s.admission := rfl
@[simp] theorem State.memWrite_chains (s : State) (a n v : Nat) : (s.memWrite a n v).chains = s.chains := rfl
@[simp] theorem State.memWrite_prefixJobs (s : State) (a n v : Nat) : (s.memWrite a n v).prefixJobs = s.prefixJobs := rfl
@[simp] theorem State.memWrite_reductions (s : State) (a n v : Nat) : (s.memWrite a n v).reductions = s.reductions := rfl
@[simp] theorem State.memWrite_failedShards (s : State) (a n v : Nat) : (s.memWrite a n v).failedShards = s.failedShards := rfl
@[simp] theorem State.memWrite_retired (s : State) (a n v : Nat) : (s.memWrite a n v).retired = s.retired := rfl
@[simp] theorem State.memWrite_shootdowns (s : State) (a n v : Nat) : (s.memWrite a n v).shootdowns = s.shootdowns := rfl
@[simp] theorem State.memWrite_overflow (s : State) (a n v : Nat) : (s.memWrite a n v).overflow = s.overflow := rfl
@[simp] theorem State.memWrite_kept (s : State) (a n v : Nat) : (s.memWrite a n v).kept = s.kept := rfl
@[simp] theorem State.memWrite_received (s : State) (a n v : Nat) : (s.memWrite a n v).received = s.received := rfl
@[simp] theorem State.memWrite_batches (s : State) (a n v : Nat) : (s.memWrite a n v).batches = s.batches := rfl
@[simp] theorem State.memWrite_schedulers (s : State) (a n v : Nat) : (s.memWrite a n v).schedulers = s.schedulers := rfl
@[simp] theorem State.memWrite_parked (s : State) (a n v : Nat) : (s.memWrite a n v).parked = s.parked := rfl
@[simp] theorem State.memWrite_timeRef (s : State) (a n v : Nat) : (s.memWrite a n v).timeRef = s.timeRef := rfl
@[simp] theorem State.memWrite_endpoint (s : State) (a n v : Nat) : (s.memWrite a n v).endpoint = s.endpoint := rfl
@[simp] theorem State.memWrite_controller (s : State) (a n v : Nat) : (s.memWrite a n v).controller = s.controller := rfl
@[simp] theorem State.memWrite_outbox (s : State) (a n v : Nat) : (s.memWrite a n v).outbox = s.outbox := rfl
@[simp] theorem State.memWrite_now (s : State) (a n v : Nat) : (s.memWrite a n v).now = s.now := rfl
@[simp] theorem State.memWrite_fresh (s : State) (a n v : Nat) : (s.memWrite a n v).fresh = s.fresh := rfl
@[simp] theorem State.memWrite_schedule (s : State) (a n v : Nat) : (s.memWrite a n v).schedule = s.schedule := rfl
@[simp] theorem State.memWrite_agenda (s : State) (a n v : Nat) : (s.memWrite a n v).agenda = s.agenda := rfl
@[simp] theorem State.memWrite_cur (s : State) (a n v : Nat) : (s.memWrite a n v).cur = s.cur := rfl
@[simp] theorem State.memWrite_args (s : State) (a n v : Nat) : (s.memWrite a n v).args = s.args := rfl
@[simp] theorem State.memWrite_mem (s : State) (a n v : Nat) : (s.memWrite a n v).mem = Cells.writeNat v a s.mem n := rfl
@[simp] theorem State.memSetFull_mem (s : State) (a : Nat) (b : Bool) : (s.memSetFull a b).mem = s.mem := rfl
@[simp] theorem State.memSetFull_memBad (s : State) (a : Nat) (b : Bool) : (s.memSetFull a b).memBad = s.memBad := rfl
@[simp] theorem State.memSetFull_cores (s : State) (a : Nat) (b : Bool) : (s.memSetFull a b).cores = s.cores := rfl
@[simp] theorem State.memSetFull_s2base (s : State) (a : Nat) (b : Bool) : (s.memSetFull a b).s2base = s.s2base := rfl
@[simp] theorem State.memSetFull_tnowoff (s : State) (a : Nat) (b : Bool) : (s.memSetFull a b).tnowoff = s.tnowoff := rfl
@[simp] theorem State.memSetFull_s2copies (s : State) (a : Nat) (b : Bool) : (s.memSetFull a b).s2copies = s.s2copies := rfl
@[simp] theorem State.memSetFull_dir (s : State) (a : Nat) (b : Bool) : (s.memSetFull a b).dir = s.dir := rfl
@[simp] theorem State.memSetFull_l2 (s : State) (a : Nat) (b : Bool) : (s.memSetFull a b).l2 = s.l2 := rfl
@[simp] theorem State.memSetFull_lostHeld (s : State) (a : Nat) (b : Bool) : (s.memSetFull a b).lostHeld = s.lostHeld := rfl
@[simp] theorem State.memSetFull_arrivals (s : State) (a : Nat) (b : Bool) : (s.memSetFull a b).arrivals = s.arrivals := rfl
@[simp] theorem State.memSetFull_waiters (s : State) (a : Nat) (b : Bool) : (s.memSetFull a b).waiters = s.waiters := rfl
@[simp] theorem State.memSetFull_gangs (s : State) (a : Nat) (b : Bool) : (s.memSetFull a b).gangs = s.gangs := rfl
@[simp] theorem State.memSetFull_admission (s : State) (a : Nat) (b : Bool) : (s.memSetFull a b).admission = s.admission := rfl
@[simp] theorem State.memSetFull_chains (s : State) (a : Nat) (b : Bool) : (s.memSetFull a b).chains = s.chains := rfl
@[simp] theorem State.memSetFull_prefixJobs (s : State) (a : Nat) (b : Bool) : (s.memSetFull a b).prefixJobs = s.prefixJobs := rfl
@[simp] theorem State.memSetFull_reductions (s : State) (a : Nat) (b : Bool) : (s.memSetFull a b).reductions = s.reductions := rfl
@[simp] theorem State.memSetFull_failedShards (s : State) (a : Nat) (b : Bool) : (s.memSetFull a b).failedShards = s.failedShards := rfl
@[simp] theorem State.memSetFull_retired (s : State) (a : Nat) (b : Bool) : (s.memSetFull a b).retired = s.retired := rfl
@[simp] theorem State.memSetFull_shootdowns (s : State) (a : Nat) (b : Bool) : (s.memSetFull a b).shootdowns = s.shootdowns := rfl
@[simp] theorem State.memSetFull_overflow (s : State) (a : Nat) (b : Bool) : (s.memSetFull a b).overflow = s.overflow := rfl
@[simp] theorem State.memSetFull_kept (s : State) (a : Nat) (b : Bool) : (s.memSetFull a b).kept = s.kept := rfl
@[simp] theorem State.memSetFull_received (s : State) (a : Nat) (b : Bool) : (s.memSetFull a b).received = s.received := rfl
@[simp] theorem State.memSetFull_batches (s : State) (a : Nat) (b : Bool) : (s.memSetFull a b).batches = s.batches := rfl
@[simp] theorem State.memSetFull_schedulers (s : State) (a : Nat) (b : Bool) : (s.memSetFull a b).schedulers = s.schedulers := rfl
@[simp] theorem State.memSetFull_parked (s : State) (a : Nat) (b : Bool) : (s.memSetFull a b).parked = s.parked := rfl
@[simp] theorem State.memSetFull_timeRef (s : State) (a : Nat) (b : Bool) : (s.memSetFull a b).timeRef = s.timeRef := rfl
@[simp] theorem State.memSetFull_endpoint (s : State) (a : Nat) (b : Bool) : (s.memSetFull a b).endpoint = s.endpoint := rfl
@[simp] theorem State.memSetFull_controller (s : State) (a : Nat) (b : Bool) : (s.memSetFull a b).controller = s.controller := rfl
@[simp] theorem State.memSetFull_outbox (s : State) (a : Nat) (b : Bool) : (s.memSetFull a b).outbox = s.outbox := rfl
@[simp] theorem State.memSetFull_now (s : State) (a : Nat) (b : Bool) : (s.memSetFull a b).now = s.now := rfl
@[simp] theorem State.memSetFull_fresh (s : State) (a : Nat) (b : Bool) : (s.memSetFull a b).fresh = s.fresh := rfl
@[simp] theorem State.memSetFull_schedule (s : State) (a : Nat) (b : Bool) : (s.memSetFull a b).schedule = s.schedule := rfl
@[simp] theorem State.memSetFull_agenda (s : State) (a : Nat) (b : Bool) : (s.memSetFull a b).agenda = s.agenda := rfl
@[simp] theorem State.memSetFull_cur (s : State) (a : Nat) (b : Bool) : (s.memSetFull a b).cur = s.cur := rfl
@[simp] theorem State.memSetFull_args (s : State) (a : Nat) (b : Bool) : (s.memSetFull a b).args = s.args := rfl
@[simp] theorem State.memSetFull_memEmpty (s : State) (a : Nat) (b : Bool) : (s.memSetFull a b).memEmpty = NatSet.set (a / 8 * 8) (!b) s.memEmpty := rfl

/-! Cores and slots read back. -/

@[simp] theorem State.core_setCore (s : State) (c : CoreId) (q : Core) : (s.setCore c q).core c = q :=
  Table.find_put_same _ _ _ _

theorem State.core_setCore_other (s : State) (c d : CoreId) (q : Core) (h : d ≠ c) : (s.setCore c q).core d = s.core d :=
  Table.find_put_other _ _ _ _ _ fun e => h (BitVec.eq_of_toNat_eq e)

@[simp] theorem State.slot_setSlot (s : State) (c : CoreId) (k : SlotId) (t : Slot) : (s.setSlot c k t).slot c k = t := by
  simp [State.slot, State.setSlot]

theorem State.slot_setSlot_slot (s : State) (c : CoreId) (k j : SlotId) (t : Slot) (h : j ≠ k) :
    (s.setSlot c k t).slot c j = s.slot c j := by
  have : k.toNat ≠ j.toNat := fun e => h (BitVec.eq_of_toNat_eq e.symm)
  simp [State.slot, State.setSlot, this]

theorem State.slot_setSlot_core (s : State) (c d : CoreId) (k j : SlotId) (t : Slot) (h : d ≠ c) :
    (s.setSlot c k t).slot d j = s.slot d j := by
  simp [State.slot, State.setSlot, State.core_setCore_other _ _ _ _ h]

@[simp] theorem State.me_setMe (s : State) (t : Slot) : (s.setMe t).me = t := State.slot_setSlot _ _ _ _
@[simp] theorem State.me_modMe (s : State) (f : Slot → Slot) : (s.modMe f).me = f s.me := State.slot_setSlot _ _ _ _
@[simp] theorem State.slot_modSlot (s : State) (c : CoreId) (k : SlotId) (f : Slot → Slot) :
    (s.modSlot c k f).slot c k = f (s.slot c k) := State.slot_setSlot _ _ _ _
@[simp] theorem State.core_modCore (s : State) (c : CoreId) (f : Core → Core) : (s.modCore c f).core c = f (s.core c) :=
  State.core_setCore _ _ _
@[simp] theorem State.myCore_setMyCore (s : State) (q : Core) : (s.setMyCore q).myCore = q := State.core_setCore _ _ _
@[simp] theorem State.core_post (s : State) (e : Instr) (a : EventArgs) (n : Nat) (c : CoreId) : (s.post e a n).core c = s.core c := rfl
@[simp] theorem State.slot_post (s : State) (e : Instr) (a : EventArgs) (n : Nat) (c : CoreId) (k : SlotId) :
    (s.post e a n).slot c k = s.slot c k := rfl
@[simp] theorem State.me_post (s : State) (e : Instr) (a : EventArgs) (n : Nat) : (s.post e a n).me = s.me := rfl
@[simp] theorem State.core_memWrite (s : State) (a n v : Nat) (c : CoreId) : (s.memWrite a n v).core c = s.core c := rfl
@[simp] theorem State.slot_memWrite (s : State) (a n v : Nat) (c : CoreId) (k : SlotId) : (s.memWrite a n v).slot c k = s.slot c k := rfl
@[simp] theorem State.me_memWrite (s : State) (a n v : Nat) : (s.memWrite a n v).me = s.me := rfl

@[simp] theorem State.setSlot_core_spad (s : State) (c : CoreId) (k : SlotId) (t : Slot) : ((s.setSlot c k t).core c).spad = (s.core c).spad := by simp [State.setSlot]
@[simp] theorem State.setSlot_core_spadEmpty (s : State) (c : CoreId) (k : SlotId) (t : Slot) : ((s.setSlot c k t).core c).spadEmpty = (s.core c).spadEmpty := by simp [State.setSlot]
@[simp] theorem State.setSlot_core_spadBad (s : State) (c : CoreId) (k : SlotId) (t : Slot) : ((s.setSlot c k t).core c).spadBad = (s.core c).spadBad := by simp [State.setSlot]
@[simp] theorem State.setSlot_core_split (s : State) (c : CoreId) (k : SlotId) (t : Slot) : ((s.setSlot c k t).core c).split = (s.core c).split := by simp [State.setSlot]
@[simp] theorem State.setSlot_core_splitWanted (s : State) (c : CoreId) (k : SlotId) (t : Slot) : ((s.setSlot c k t).core c).splitWanted = (s.core c).splitWanted := by simp [State.setSlot]
@[simp] theorem State.setSlot_core_lines (s : State) (c : CoreId) (k : SlotId) (t : Slot) : ((s.setSlot c k t).core c).lines = (s.core c).lines := by simp [State.setSlot]
@[simp] theorem State.setSlot_core_misses (s : State) (c : CoreId) (k : SlotId) (t : Slot) : ((s.setSlot c k t).core c).misses = (s.core c).misses := by simp [State.setSlot]
@[simp] theorem State.setSlot_core_icache (s : State) (c : CoreId) (k : SlotId) (t : Slot) : ((s.setSlot c k t).core c).icache = (s.core c).icache := by simp [State.setSlot]
@[simp] theorem State.setSlot_core_tlb (s : State) (c : CoreId) (k : SlotId) (t : Slot) : ((s.setSlot c k t).core c).tlb = (s.core c).tlb := by simp [State.setSlot]
@[simp] theorem State.setSlot_core_prefixes (s : State) (c : CoreId) (k : SlotId) (t : Slot) : ((s.setSlot c k t).core c).prefixes = (s.core c).prefixes := by simp [State.setSlot]
@[simp] theorem State.setSlot_core_rings (s : State) (c : CoreId) (k : SlotId) (t : Slot) : ((s.setSlot c k t).core c).rings = (s.core c).rings := by simp [State.setSlot]
@[simp] theorem State.setSlot_core_za (s : State) (c : CoreId) (k : SlotId) (t : Slot) : ((s.setSlot c k t).core c).za = (s.core c).za := by simp [State.setSlot]
@[simp] theorem State.setSlot_core_zaOwner (s : State) (c : CoreId) (k : SlotId) (t : Slot) : ((s.setSlot c k t).core c).zaOwner = (s.core c).zaOwner := by simp [State.setSlot]
@[simp] theorem State.setSlot_core_zaTenant (s : State) (c : CoreId) (k : SlotId) (t : Slot) : ((s.setSlot c k t).core c).zaTenant = (s.core c).zaTenant := by simp [State.setSlot]
@[simp] theorem State.setSlot_core_zaWaiters (s : State) (c : CoreId) (k : SlotId) (t : Slot) : ((s.setSlot c k t).core c).zaWaiters = (s.core c).zaWaiters := by simp [State.setSlot]
@[simp] theorem State.setSlot_core_matrix (s : State) (c : CoreId) (k : SlotId) (t : Slot) : ((s.setSlot c k t).core c).matrix = (s.core c).matrix := by simp [State.setSlot]
@[simp] theorem State.setSlot_core_rep (s : State) (c : CoreId) (k : SlotId) (t : Slot) : ((s.setSlot c k t).core c).rep = (s.core c).rep := by simp [State.setSlot]
@[simp] theorem State.setSlot_core_ahead (s : State) (c : CoreId) (k : SlotId) (t : Slot) : ((s.setSlot c k t).core c).ahead = (s.core c).ahead := by simp [State.setSlot]
@[simp] theorem State.setSlot_core_mail (s : State) (c : CoreId) (k : SlotId) (t : Slot) : ((s.setSlot c k t).core c).mail = (s.core c).mail := by simp [State.setSlot]
@[simp] theorem State.setSlot_core_channels (s : State) (c : CoreId) (k : SlotId) (t : Slot) : ((s.setSlot c k t).core c).channels = (s.core c).channels := by simp [State.setSlot]
@[simp] theorem State.setSlot_core_inbox (s : State) (c : CoreId) (k : SlotId) (t : Slot) : ((s.setSlot c k t).core c).inbox = (s.core c).inbox := by simp [State.setSlot]
@[simp] theorem State.setSlot_core_iface (s : State) (c : CoreId) (k : SlotId) (t : Slot) : ((s.setSlot c k t).core c).iface = (s.core c).iface := by simp [State.setSlot]
@[simp] theorem State.setSlot_core_bindings (s : State) (c : CoreId) (k : SlotId) (t : Slot) : ((s.setSlot c k t).core c).bindings = (s.core c).bindings := by simp [State.setSlot]
@[simp] theorem State.setSlot_core_deque (s : State) (c : CoreId) (k : SlotId) (t : Slot) : ((s.setSlot c k t).core c).deque = (s.core c).deque := by simp [State.setSlot]
@[simp] theorem State.setSlot_core_slstk (s : State) (c : CoreId) (k : SlotId) (t : Slot) : ((s.setSlot c k t).core c).slstk = (s.core c).slstk := by simp [State.setSlot]
@[simp] theorem State.setSlot_core_pbase (s : State) (c : CoreId) (k : SlotId) (t : Slot) : ((s.setSlot c k t).core c).pbase = (s.core c).pbase := by simp [State.setSlot]
@[simp] theorem State.setSlot_core_plen (s : State) (c : CoreId) (k : SlotId) (t : Slot) : ((s.setSlot c k t).core c).plen = (s.core c).plen := by simp [State.setSlot]
@[simp] theorem State.setSlot_core_partWrites (s : State) (c : CoreId) (k : SlotId) (t : Slot) : ((s.setSlot c k t).core c).partWrites = (s.core c).partWrites := by simp [State.setSlot]
@[simp] theorem State.setSlot_core_lastIssued (s : State) (c : CoreId) (k : SlotId) (t : Slot) : ((s.setSlot c k t).core c).lastIssued = (s.core c).lastIssued := by simp [State.setSlot]
@[simp] theorem State.setSlot_core_nextIssue (s : State) (c : CoreId) (k : SlotId) (t : Slot) : ((s.setSlot c k t).core c).nextIssue = (s.core c).nextIssue := by simp [State.setSlot]
@[simp] theorem State.setSlot_core_vectorAt (s : State) (c : CoreId) (k : SlotId) (t : Slot) : ((s.setSlot c k t).core c).vectorAt = (s.core c).vectorAt := by simp [State.setSlot]
@[simp] theorem State.setSlot_core_inc4 (s : State) (c : CoreId) (k : SlotId) (t : Slot) : ((s.setSlot c k t).core c).inc4 = (s.core c).inc4 := by simp [State.setSlot]
@[simp] theorem State.setSlot_core_dead (s : State) (c : CoreId) (k : SlotId) (t : Slot) : ((s.setSlot c k t).core c).dead = (s.core c).dead := by simp [State.setSlot]
@[simp] theorem State.setSlot_core_power (s : State) (c : CoreId) (k : SlotId) (t : Slot) : ((s.setSlot c k t).core c).power = (s.core c).power := by simp [State.setSlot]
@[simp] theorem State.setSlot_core_heldAtComb (s : State) (c : CoreId) (k : SlotId) (t : Slot) : ((s.setSlot c k t).core c).heldAtComb = (s.core c).heldAtComb := by simp [State.setSlot]
@[simp] theorem State.setSlot_core_forwarding (s : State) (c : CoreId) (k : SlotId) (t : Slot) : ((s.setSlot c k t).core c).forwarding = (s.core c).forwarding := by simp [State.setSlot]
@[simp] theorem State.setSlot_core_vacated (s : State) (c : CoreId) (k : SlotId) (t : Slot) : ((s.setSlot c k t).core c).vacated = (s.core c).vacated := by simp [State.setSlot]
@[simp] theorem State.setSlot_core_lastTnow (s : State) (c : CoreId) (k : SlotId) (t : Slot) : ((s.setSlot c k t).core c).lastTnow = (s.core c).lastTnow := by simp [State.setSlot]
@[simp] theorem State.setSlot_core_foldBank (s : State) (c : CoreId) (k : SlotId) (t : Slot) : ((s.setSlot c k t).core c).foldBank = (s.core c).foldBank := by simp [State.setSlot]

/-! `Core`. -/

@[simp] theorem Core.spadWrite_slots (q : Core) (o n v : Nat) : (q.spadWrite o n v).slots = q.slots := rfl
@[simp] theorem Core.spadWrite_spadEmpty (q : Core) (o n v : Nat) : (q.spadWrite o n v).spadEmpty = q.spadEmpty := rfl
@[simp] theorem Core.spadWrite_spadBad (q : Core) (o n v : Nat) : (q.spadWrite o n v).spadBad = q.spadBad := rfl
@[simp] theorem Core.spadWrite_split (q : Core) (o n v : Nat) : (q.spadWrite o n v).split = q.split := rfl
@[simp] theorem Core.spadWrite_splitWanted (q : Core) (o n v : Nat) : (q.spadWrite o n v).splitWanted = q.splitWanted := rfl
@[simp] theorem Core.spadWrite_lines (q : Core) (o n v : Nat) : (q.spadWrite o n v).lines = q.lines := rfl
@[simp] theorem Core.spadWrite_misses (q : Core) (o n v : Nat) : (q.spadWrite o n v).misses = q.misses := rfl
@[simp] theorem Core.spadWrite_icache (q : Core) (o n v : Nat) : (q.spadWrite o n v).icache = q.icache := rfl
@[simp] theorem Core.spadWrite_tlb (q : Core) (o n v : Nat) : (q.spadWrite o n v).tlb = q.tlb := rfl
@[simp] theorem Core.spadWrite_prefixes (q : Core) (o n v : Nat) : (q.spadWrite o n v).prefixes = q.prefixes := rfl
@[simp] theorem Core.spadWrite_rings (q : Core) (o n v : Nat) : (q.spadWrite o n v).rings = q.rings := rfl
@[simp] theorem Core.spadWrite_za (q : Core) (o n v : Nat) : (q.spadWrite o n v).za = q.za := rfl
@[simp] theorem Core.spadWrite_zaOwner (q : Core) (o n v : Nat) : (q.spadWrite o n v).zaOwner = q.zaOwner := rfl
@[simp] theorem Core.spadWrite_zaTenant (q : Core) (o n v : Nat) : (q.spadWrite o n v).zaTenant = q.zaTenant := rfl
@[simp] theorem Core.spadWrite_zaWaiters (q : Core) (o n v : Nat) : (q.spadWrite o n v).zaWaiters = q.zaWaiters := rfl
@[simp] theorem Core.spadWrite_matrix (q : Core) (o n v : Nat) : (q.spadWrite o n v).matrix = q.matrix := rfl
@[simp] theorem Core.spadWrite_rep (q : Core) (o n v : Nat) : (q.spadWrite o n v).rep = q.rep := rfl
@[simp] theorem Core.spadWrite_ahead (q : Core) (o n v : Nat) : (q.spadWrite o n v).ahead = q.ahead := rfl
@[simp] theorem Core.spadWrite_mail (q : Core) (o n v : Nat) : (q.spadWrite o n v).mail = q.mail := rfl
@[simp] theorem Core.spadWrite_channels (q : Core) (o n v : Nat) : (q.spadWrite o n v).channels = q.channels := rfl
@[simp] theorem Core.spadWrite_inbox (q : Core) (o n v : Nat) : (q.spadWrite o n v).inbox = q.inbox := rfl
@[simp] theorem Core.spadWrite_iface (q : Core) (o n v : Nat) : (q.spadWrite o n v).iface = q.iface := rfl
@[simp] theorem Core.spadWrite_bindings (q : Core) (o n v : Nat) : (q.spadWrite o n v).bindings = q.bindings := rfl
@[simp] theorem Core.spadWrite_deque (q : Core) (o n v : Nat) : (q.spadWrite o n v).deque = q.deque := rfl
@[simp] theorem Core.spadWrite_slstk (q : Core) (o n v : Nat) : (q.spadWrite o n v).slstk = q.slstk := rfl
@[simp] theorem Core.spadWrite_pbase (q : Core) (o n v : Nat) : (q.spadWrite o n v).pbase = q.pbase := rfl
@[simp] theorem Core.spadWrite_plen (q : Core) (o n v : Nat) : (q.spadWrite o n v).plen = q.plen := rfl
@[simp] theorem Core.spadWrite_partWrites (q : Core) (o n v : Nat) : (q.spadWrite o n v).partWrites = q.partWrites := rfl
@[simp] theorem Core.spadWrite_lastIssued (q : Core) (o n v : Nat) : (q.spadWrite o n v).lastIssued = q.lastIssued := rfl
@[simp] theorem Core.spadWrite_nextIssue (q : Core) (o n v : Nat) : (q.spadWrite o n v).nextIssue = q.nextIssue := rfl
@[simp] theorem Core.spadWrite_vectorAt (q : Core) (o n v : Nat) : (q.spadWrite o n v).vectorAt = q.vectorAt := rfl
@[simp] theorem Core.spadWrite_inc4 (q : Core) (o n v : Nat) : (q.spadWrite o n v).inc4 = q.inc4 := rfl
@[simp] theorem Core.spadWrite_dead (q : Core) (o n v : Nat) : (q.spadWrite o n v).dead = q.dead := rfl
@[simp] theorem Core.spadWrite_power (q : Core) (o n v : Nat) : (q.spadWrite o n v).power = q.power := rfl
@[simp] theorem Core.spadWrite_heldAtComb (q : Core) (o n v : Nat) : (q.spadWrite o n v).heldAtComb = q.heldAtComb := rfl
@[simp] theorem Core.spadWrite_forwarding (q : Core) (o n v : Nat) : (q.spadWrite o n v).forwarding = q.forwarding := rfl
@[simp] theorem Core.spadWrite_vacated (q : Core) (o n v : Nat) : (q.spadWrite o n v).vacated = q.vacated := rfl
@[simp] theorem Core.spadWrite_lastTnow (q : Core) (o n v : Nat) : (q.spadWrite o n v).lastTnow = q.lastTnow := rfl
@[simp] theorem Core.spadWrite_foldBank (q : Core) (o n v : Nat) : (q.spadWrite o n v).foldBank = q.foldBank := rfl
@[simp] theorem Core.spadWrite_spad (q : Core) (o n v : Nat) : (q.spadWrite o n v).spad = Cells.writeNat v o q.spad n := rfl

/-! `Slot`. -/

@[simp] theorem Slot.setX_v (t : Slot) (r : BitVec 5) (w : Word) : (t.setX r w).v = t.v := by unfold Slot.setX; split <;> rfl
@[simp] theorem Slot.setX_m (t : Slot) (r : BitVec 5) (w : Word) : (t.setX r w).m = t.m := by unfold Slot.setX; split <;> rfl
@[simp] theorem Slot.setX_lb (t : Slot) (r : BitVec 5) (w : Word) : (t.setX r w).lb = t.lb := by unfold Slot.setX; split <;> rfl
@[simp] theorem Slot.setX_pc (t : Slot) (r : BitVec 5) (w : Word) : (t.setX r w).pc = t.pc := by unfold Slot.setX; split <;> rfl
@[simp] theorem Slot.setX_priv (t : Slot) (r : BitVec 5) (w : Word) : (t.setX r w).priv = t.priv := by unfold Slot.setX; split <;> rfl
@[simp] theorem Slot.setX_light (t : Slot) (r : BitVec 5) (w : Word) : (t.setX r w).light = t.light := by unfold Slot.setX; split <;> rfl
@[simp] theorem Slot.setX_ie (t : Slot) (r : BitVec 5) (w : Word) : (t.setX r w).ie = t.ie := by unfold Slot.setX; split <;> rfl
@[simp] theorem Slot.setX_stage (t : Slot) (r : BitVec 5) (w : Word) : (t.setX r w).stage = t.stage := by unfold Slot.setX; split <;> rfl
@[simp] theorem Slot.setX_form (t : Slot) (r : BitVec 5) (w : Word) : (t.setX r w).form = t.form := by unfold Slot.setX; split <;> rfl
@[simp] theorem Slot.setX_chain (t : Slot) (r : BitVec 5) (w : Word) : (t.setX r w).chain = t.chain := by unfold Slot.setX; split <;> rfl
@[simp] theorem Slot.setX_nesting (t : Slot) (r : BitVec 5) (w : Word) : (t.setX r w).nesting = t.nesting := by unfold Slot.setX; split <;> rfl
@[simp] theorem Slot.setX_cause (t : Slot) (r : BitVec 5) (w : Word) : (t.setX r w).cause = t.cause := by unfold Slot.setX; split <;> rfl
@[simp] theorem Slot.setX_earlier (t : Slot) (r : BitVec 5) (w : Word) : (t.setX r w).earlier = t.earlier := by unfold Slot.setX; split <;> rfl
@[simp] theorem Slot.setX_badTable (t : Slot) (r : BitVec 5) (w : Word) : (t.setX r w).badTable = t.badTable := by unfold Slot.setX; split <;> rfl
@[simp] theorem Slot.setX_bankS (t : Slot) (r : BitVec 5) (w : Word) : (t.setX r w).bankS = t.bankS := by unfold Slot.setX; split <;> rfl
@[simp] theorem Slot.setX_bankH (t : Slot) (r : BitVec 5) (w : Word) : (t.setX r w).bankH = t.bankH := by unfold Slot.setX; split <;> rfl
@[simp] theorem Slot.setX_tcmp (t : Slot) (r : BitVec 5) (w : Word) : (t.setX r w).tcmp = t.tcmp := by unfold Slot.setX; split <;> rfl
@[simp] theorem Slot.setX_fewlim (t : Slot) (r : BitVec 5) (w : Word) : (t.setX r w).fewlim = t.fewlim := by unfold Slot.setX; split <;> rfl
@[simp] theorem Slot.setX_mfmt (t : Slot) (r : BitVec 5) (w : Word) : (t.setX r w).mfmt = t.mfmt := by unfold Slot.setX; split <;> rfl
@[simp] theorem Slot.setX_fflags (t : Slot) (r : BitVec 5) (w : Word) : (t.setX r w).fflags = t.fflags := by unfold Slot.setX; split <;> rfl
@[simp] theorem Slot.setX_xlroot (t : Slot) (r : BitVec 5) (w : Word) : (t.setX r w).xlroot = t.xlroot := by unfold Slot.setX; split <;> rfl
@[simp] theorem Slot.setX_objbase (t : Slot) (r : BitVec 5) (w : Word) : (t.setX r w).objbase = t.objbase := by unfold Slot.setX; split <;> rfl
@[simp] theorem Slot.setX_objlim (t : Slot) (r : BitVec 5) (w : Word) : (t.setX r w).objlim = t.objlim := by unfold Slot.setX; split <;> rfl
@[simp] theorem Slot.setX_cmtab (t : Slot) (r : BitVec 5) (w : Word) : (t.setX r w).cmtab = t.cmtab := by unfold Slot.setX; split <;> rfl
@[simp] theorem Slot.setX_frbase (t : Slot) (r : BitVec 5) (w : Word) : (t.setX r w).frbase = t.frbase := by unfold Slot.setX; split <;> rfl
@[simp] theorem Slot.setX_tenant (t : Slot) (r : BitVec 5) (w : Word) : (t.setX r w).tenant = t.tenant := by unfold Slot.setX; split <;> rfl
@[simp] theorem Slot.setX_inc (t : Slot) (r : BitVec 5) (w : Word) : (t.setX r w).inc = t.inc := by unfold Slot.setX; split <;> rfl
@[simp] theorem Slot.setX_state (t : Slot) (r : BitVec 5) (w : Word) : (t.setX r w).state = t.state := by unfold Slot.setX; split <;> rfl
@[simp] theorem Slot.setX_wait (t : Slot) (r : BitVec 5) (w : Word) : (t.setX r w).wait = t.wait := by unfold Slot.setX; split <;> rfl
@[simp] theorem Slot.setX_stopped (t : Slot) (r : BitVec 5) (w : Word) : (t.setX r w).stopped = t.stopped := by unfold Slot.setX; split <;> rfl
@[simp] theorem Slot.setX_stoppedAt (t : Slot) (r : BitVec 5) (w : Word) : (t.setX r w).stoppedAt = t.stoppedAt := by unfold Slot.setX; split <;> rfl
@[simp] theorem Slot.setX_flights (t : Slot) (r : BitVec 5) (w : Word) : (t.setX r w).flights = t.flights := by unfold Slot.setX; split <;> rfl
@[simp] theorem Slot.setX_flightNo (t : Slot) (r : BitVec 5) (w : Word) : (t.setX r w).flightNo = t.flightNo := by unfold Slot.setX; split <;> rfl
@[simp] theorem Slot.setX_yielded (t : Slot) (r : BitVec 5) (w : Word) : (t.setX r w).yielded = t.yielded := by unfold Slot.setX; split <;> rfl
@[simp] theorem Slot.setX_issueAt (t : Slot) (r : BitVec 5) (w : Word) : (t.setX r w).issueAt = t.issueAt := by unfold Slot.setX; split <;> rfl
@[simp] theorem Slot.setX_deliverAt (t : Slot) (r : BitVec 5) (w : Word) : (t.setX r w).deliverAt = t.deliverAt := by unfold Slot.setX; split <;> rfl
@[simp] theorem Slot.setX_handler (t : Slot) (r : BitVec 5) (w : Word) : (t.setX r w).handler = t.handler := by unfold Slot.setX; split <;> rfl
@[simp] theorem Slot.setX_pendStop (t : Slot) (r : BitVec 5) (w : Word) : (t.setX r w).pendStop = t.pendStop := by unfold Slot.setX; split <;> rfl
@[simp] theorem Slot.setX_pendTimer (t : Slot) (r : BitVec 5) (w : Word) : (t.setX r w).pendTimer = t.pendTimer := by unfold Slot.setX; split <;> rfl
@[simp] theorem Slot.setX_pendNotice (t : Slot) (r : BitVec 5) (w : Word) : (t.setX r w).pendNotice = t.pendNotice := by unfold Slot.setX; split <;> rfl
@[simp] theorem Slot.setX_gang (t : Slot) (r : BitVec 5) (w : Word) : (t.setX r w).gang = t.gang := by unfold Slot.setX; split <;> rfl
@[simp] theorem Slot.setX_others (t : Slot) (r : BitVec 5) (w : Word) : (t.setX r w).others = t.others := by unfold Slot.setX; split <;> rfl
@[simp] theorem Slot.setV_x (t : Slot) (r : BitVec 4) (w : VecWord) : (t.setV r w).x = t.x := rfl
@[simp] theorem Slot.setV_m (t : Slot) (r : BitVec 4) (w : VecWord) : (t.setV r w).m = t.m := rfl
@[simp] theorem Slot.setV_lb (t : Slot) (r : BitVec 4) (w : VecWord) : (t.setV r w).lb = t.lb := rfl
@[simp] theorem Slot.setV_pc (t : Slot) (r : BitVec 4) (w : VecWord) : (t.setV r w).pc = t.pc := rfl
@[simp] theorem Slot.setV_priv (t : Slot) (r : BitVec 4) (w : VecWord) : (t.setV r w).priv = t.priv := rfl
@[simp] theorem Slot.setV_light (t : Slot) (r : BitVec 4) (w : VecWord) : (t.setV r w).light = t.light := rfl
@[simp] theorem Slot.setV_ie (t : Slot) (r : BitVec 4) (w : VecWord) : (t.setV r w).ie = t.ie := rfl
@[simp] theorem Slot.setV_stage (t : Slot) (r : BitVec 4) (w : VecWord) : (t.setV r w).stage = t.stage := rfl
@[simp] theorem Slot.setV_form (t : Slot) (r : BitVec 4) (w : VecWord) : (t.setV r w).form = t.form := rfl
@[simp] theorem Slot.setV_chain (t : Slot) (r : BitVec 4) (w : VecWord) : (t.setV r w).chain = t.chain := rfl
@[simp] theorem Slot.setV_nesting (t : Slot) (r : BitVec 4) (w : VecWord) : (t.setV r w).nesting = t.nesting := rfl
@[simp] theorem Slot.setV_cause (t : Slot) (r : BitVec 4) (w : VecWord) : (t.setV r w).cause = t.cause := rfl
@[simp] theorem Slot.setV_earlier (t : Slot) (r : BitVec 4) (w : VecWord) : (t.setV r w).earlier = t.earlier := rfl
@[simp] theorem Slot.setV_badTable (t : Slot) (r : BitVec 4) (w : VecWord) : (t.setV r w).badTable = t.badTable := rfl
@[simp] theorem Slot.setV_bankS (t : Slot) (r : BitVec 4) (w : VecWord) : (t.setV r w).bankS = t.bankS := rfl
@[simp] theorem Slot.setV_bankH (t : Slot) (r : BitVec 4) (w : VecWord) : (t.setV r w).bankH = t.bankH := rfl
@[simp] theorem Slot.setV_tcmp (t : Slot) (r : BitVec 4) (w : VecWord) : (t.setV r w).tcmp = t.tcmp := rfl
@[simp] theorem Slot.setV_fewlim (t : Slot) (r : BitVec 4) (w : VecWord) : (t.setV r w).fewlim = t.fewlim := rfl
@[simp] theorem Slot.setV_mfmt (t : Slot) (r : BitVec 4) (w : VecWord) : (t.setV r w).mfmt = t.mfmt := rfl
@[simp] theorem Slot.setV_fflags (t : Slot) (r : BitVec 4) (w : VecWord) : (t.setV r w).fflags = t.fflags := rfl
@[simp] theorem Slot.setV_xlroot (t : Slot) (r : BitVec 4) (w : VecWord) : (t.setV r w).xlroot = t.xlroot := rfl
@[simp] theorem Slot.setV_objbase (t : Slot) (r : BitVec 4) (w : VecWord) : (t.setV r w).objbase = t.objbase := rfl
@[simp] theorem Slot.setV_objlim (t : Slot) (r : BitVec 4) (w : VecWord) : (t.setV r w).objlim = t.objlim := rfl
@[simp] theorem Slot.setV_cmtab (t : Slot) (r : BitVec 4) (w : VecWord) : (t.setV r w).cmtab = t.cmtab := rfl
@[simp] theorem Slot.setV_frbase (t : Slot) (r : BitVec 4) (w : VecWord) : (t.setV r w).frbase = t.frbase := rfl
@[simp] theorem Slot.setV_tenant (t : Slot) (r : BitVec 4) (w : VecWord) : (t.setV r w).tenant = t.tenant := rfl
@[simp] theorem Slot.setV_inc (t : Slot) (r : BitVec 4) (w : VecWord) : (t.setV r w).inc = t.inc := rfl
@[simp] theorem Slot.setV_state (t : Slot) (r : BitVec 4) (w : VecWord) : (t.setV r w).state = t.state := rfl
@[simp] theorem Slot.setV_wait (t : Slot) (r : BitVec 4) (w : VecWord) : (t.setV r w).wait = t.wait := rfl
@[simp] theorem Slot.setV_stopped (t : Slot) (r : BitVec 4) (w : VecWord) : (t.setV r w).stopped = t.stopped := rfl
@[simp] theorem Slot.setV_stoppedAt (t : Slot) (r : BitVec 4) (w : VecWord) : (t.setV r w).stoppedAt = t.stoppedAt := rfl
@[simp] theorem Slot.setV_flights (t : Slot) (r : BitVec 4) (w : VecWord) : (t.setV r w).flights = t.flights := rfl
@[simp] theorem Slot.setV_flightNo (t : Slot) (r : BitVec 4) (w : VecWord) : (t.setV r w).flightNo = t.flightNo := rfl
@[simp] theorem Slot.setV_yielded (t : Slot) (r : BitVec 4) (w : VecWord) : (t.setV r w).yielded = t.yielded := rfl
@[simp] theorem Slot.setV_issueAt (t : Slot) (r : BitVec 4) (w : VecWord) : (t.setV r w).issueAt = t.issueAt := rfl
@[simp] theorem Slot.setV_deliverAt (t : Slot) (r : BitVec 4) (w : VecWord) : (t.setV r w).deliverAt = t.deliverAt := rfl
@[simp] theorem Slot.setV_handler (t : Slot) (r : BitVec 4) (w : VecWord) : (t.setV r w).handler = t.handler := rfl
@[simp] theorem Slot.setV_pendStop (t : Slot) (r : BitVec 4) (w : VecWord) : (t.setV r w).pendStop = t.pendStop := rfl
@[simp] theorem Slot.setV_pendTimer (t : Slot) (r : BitVec 4) (w : VecWord) : (t.setV r w).pendTimer = t.pendTimer := rfl
@[simp] theorem Slot.setV_pendNotice (t : Slot) (r : BitVec 4) (w : VecWord) : (t.setV r w).pendNotice = t.pendNotice := rfl
@[simp] theorem Slot.setV_gang (t : Slot) (r : BitVec 4) (w : VecWord) : (t.setV r w).gang = t.gang := rfl
@[simp] theorem Slot.setV_others (t : Slot) (r : BitVec 4) (w : VecWord) : (t.setV r w).others = t.others := rfl
@[simp] theorem Slot.setM_x (t : Slot) (r : BitVec 3) (w : Word) : (t.setM r w).x = t.x := by unfold Slot.setM; split <;> rfl
@[simp] theorem Slot.setM_v (t : Slot) (r : BitVec 3) (w : Word) : (t.setM r w).v = t.v := by unfold Slot.setM; split <;> rfl
@[simp] theorem Slot.setM_lb (t : Slot) (r : BitVec 3) (w : Word) : (t.setM r w).lb = t.lb := by unfold Slot.setM; split <;> rfl
@[simp] theorem Slot.setM_pc (t : Slot) (r : BitVec 3) (w : Word) : (t.setM r w).pc = t.pc := by unfold Slot.setM; split <;> rfl
@[simp] theorem Slot.setM_priv (t : Slot) (r : BitVec 3) (w : Word) : (t.setM r w).priv = t.priv := by unfold Slot.setM; split <;> rfl
@[simp] theorem Slot.setM_light (t : Slot) (r : BitVec 3) (w : Word) : (t.setM r w).light = t.light := by unfold Slot.setM; split <;> rfl
@[simp] theorem Slot.setM_ie (t : Slot) (r : BitVec 3) (w : Word) : (t.setM r w).ie = t.ie := by unfold Slot.setM; split <;> rfl
@[simp] theorem Slot.setM_stage (t : Slot) (r : BitVec 3) (w : Word) : (t.setM r w).stage = t.stage := by unfold Slot.setM; split <;> rfl
@[simp] theorem Slot.setM_form (t : Slot) (r : BitVec 3) (w : Word) : (t.setM r w).form = t.form := by unfold Slot.setM; split <;> rfl
@[simp] theorem Slot.setM_chain (t : Slot) (r : BitVec 3) (w : Word) : (t.setM r w).chain = t.chain := by unfold Slot.setM; split <;> rfl
@[simp] theorem Slot.setM_nesting (t : Slot) (r : BitVec 3) (w : Word) : (t.setM r w).nesting = t.nesting := by unfold Slot.setM; split <;> rfl
@[simp] theorem Slot.setM_cause (t : Slot) (r : BitVec 3) (w : Word) : (t.setM r w).cause = t.cause := by unfold Slot.setM; split <;> rfl
@[simp] theorem Slot.setM_earlier (t : Slot) (r : BitVec 3) (w : Word) : (t.setM r w).earlier = t.earlier := by unfold Slot.setM; split <;> rfl
@[simp] theorem Slot.setM_badTable (t : Slot) (r : BitVec 3) (w : Word) : (t.setM r w).badTable = t.badTable := by unfold Slot.setM; split <;> rfl
@[simp] theorem Slot.setM_bankS (t : Slot) (r : BitVec 3) (w : Word) : (t.setM r w).bankS = t.bankS := by unfold Slot.setM; split <;> rfl
@[simp] theorem Slot.setM_bankH (t : Slot) (r : BitVec 3) (w : Word) : (t.setM r w).bankH = t.bankH := by unfold Slot.setM; split <;> rfl
@[simp] theorem Slot.setM_tcmp (t : Slot) (r : BitVec 3) (w : Word) : (t.setM r w).tcmp = t.tcmp := by unfold Slot.setM; split <;> rfl
@[simp] theorem Slot.setM_fewlim (t : Slot) (r : BitVec 3) (w : Word) : (t.setM r w).fewlim = t.fewlim := by unfold Slot.setM; split <;> rfl
@[simp] theorem Slot.setM_mfmt (t : Slot) (r : BitVec 3) (w : Word) : (t.setM r w).mfmt = t.mfmt := by unfold Slot.setM; split <;> rfl
@[simp] theorem Slot.setM_fflags (t : Slot) (r : BitVec 3) (w : Word) : (t.setM r w).fflags = t.fflags := by unfold Slot.setM; split <;> rfl
@[simp] theorem Slot.setM_xlroot (t : Slot) (r : BitVec 3) (w : Word) : (t.setM r w).xlroot = t.xlroot := by unfold Slot.setM; split <;> rfl
@[simp] theorem Slot.setM_objbase (t : Slot) (r : BitVec 3) (w : Word) : (t.setM r w).objbase = t.objbase := by unfold Slot.setM; split <;> rfl
@[simp] theorem Slot.setM_objlim (t : Slot) (r : BitVec 3) (w : Word) : (t.setM r w).objlim = t.objlim := by unfold Slot.setM; split <;> rfl
@[simp] theorem Slot.setM_cmtab (t : Slot) (r : BitVec 3) (w : Word) : (t.setM r w).cmtab = t.cmtab := by unfold Slot.setM; split <;> rfl
@[simp] theorem Slot.setM_frbase (t : Slot) (r : BitVec 3) (w : Word) : (t.setM r w).frbase = t.frbase := by unfold Slot.setM; split <;> rfl
@[simp] theorem Slot.setM_tenant (t : Slot) (r : BitVec 3) (w : Word) : (t.setM r w).tenant = t.tenant := by unfold Slot.setM; split <;> rfl
@[simp] theorem Slot.setM_inc (t : Slot) (r : BitVec 3) (w : Word) : (t.setM r w).inc = t.inc := by unfold Slot.setM; split <;> rfl
@[simp] theorem Slot.setM_state (t : Slot) (r : BitVec 3) (w : Word) : (t.setM r w).state = t.state := by unfold Slot.setM; split <;> rfl
@[simp] theorem Slot.setM_wait (t : Slot) (r : BitVec 3) (w : Word) : (t.setM r w).wait = t.wait := by unfold Slot.setM; split <;> rfl
@[simp] theorem Slot.setM_stopped (t : Slot) (r : BitVec 3) (w : Word) : (t.setM r w).stopped = t.stopped := by unfold Slot.setM; split <;> rfl
@[simp] theorem Slot.setM_stoppedAt (t : Slot) (r : BitVec 3) (w : Word) : (t.setM r w).stoppedAt = t.stoppedAt := by unfold Slot.setM; split <;> rfl
@[simp] theorem Slot.setM_flights (t : Slot) (r : BitVec 3) (w : Word) : (t.setM r w).flights = t.flights := by unfold Slot.setM; split <;> rfl
@[simp] theorem Slot.setM_flightNo (t : Slot) (r : BitVec 3) (w : Word) : (t.setM r w).flightNo = t.flightNo := by unfold Slot.setM; split <;> rfl
@[simp] theorem Slot.setM_yielded (t : Slot) (r : BitVec 3) (w : Word) : (t.setM r w).yielded = t.yielded := by unfold Slot.setM; split <;> rfl
@[simp] theorem Slot.setM_issueAt (t : Slot) (r : BitVec 3) (w : Word) : (t.setM r w).issueAt = t.issueAt := by unfold Slot.setM; split <;> rfl
@[simp] theorem Slot.setM_deliverAt (t : Slot) (r : BitVec 3) (w : Word) : (t.setM r w).deliverAt = t.deliverAt := by unfold Slot.setM; split <;> rfl
@[simp] theorem Slot.setM_handler (t : Slot) (r : BitVec 3) (w : Word) : (t.setM r w).handler = t.handler := by unfold Slot.setM; split <;> rfl
@[simp] theorem Slot.setM_pendStop (t : Slot) (r : BitVec 3) (w : Word) : (t.setM r w).pendStop = t.pendStop := by unfold Slot.setM; split <;> rfl
@[simp] theorem Slot.setM_pendTimer (t : Slot) (r : BitVec 3) (w : Word) : (t.setM r w).pendTimer = t.pendTimer := by unfold Slot.setM; split <;> rfl
@[simp] theorem Slot.setM_pendNotice (t : Slot) (r : BitVec 3) (w : Word) : (t.setM r w).pendNotice = t.pendNotice := by unfold Slot.setM; split <;> rfl
@[simp] theorem Slot.setM_gang (t : Slot) (r : BitVec 3) (w : Word) : (t.setM r w).gang = t.gang := by unfold Slot.setM; split <;> rfl
@[simp] theorem Slot.setM_others (t : Slot) (r : BitVec 3) (w : Word) : (t.setM r w).others = t.others := by unfold Slot.setM; split <;> rfl
@[simp] theorem Slot.setL_x (t : Slot) (r : BitVec 3) (w : LabelWord) : (t.setL r w).x = t.x := rfl
@[simp] theorem Slot.setL_v (t : Slot) (r : BitVec 3) (w : LabelWord) : (t.setL r w).v = t.v := rfl
@[simp] theorem Slot.setL_m (t : Slot) (r : BitVec 3) (w : LabelWord) : (t.setL r w).m = t.m := rfl
@[simp] theorem Slot.setL_pc (t : Slot) (r : BitVec 3) (w : LabelWord) : (t.setL r w).pc = t.pc := rfl
@[simp] theorem Slot.setL_priv (t : Slot) (r : BitVec 3) (w : LabelWord) : (t.setL r w).priv = t.priv := rfl
@[simp] theorem Slot.setL_light (t : Slot) (r : BitVec 3) (w : LabelWord) : (t.setL r w).light = t.light := rfl
@[simp] theorem Slot.setL_ie (t : Slot) (r : BitVec 3) (w : LabelWord) : (t.setL r w).ie = t.ie := rfl
@[simp] theorem Slot.setL_stage (t : Slot) (r : BitVec 3) (w : LabelWord) : (t.setL r w).stage = t.stage := rfl
@[simp] theorem Slot.setL_form (t : Slot) (r : BitVec 3) (w : LabelWord) : (t.setL r w).form = t.form := rfl
@[simp] theorem Slot.setL_chain (t : Slot) (r : BitVec 3) (w : LabelWord) : (t.setL r w).chain = t.chain := rfl
@[simp] theorem Slot.setL_nesting (t : Slot) (r : BitVec 3) (w : LabelWord) : (t.setL r w).nesting = t.nesting := rfl
@[simp] theorem Slot.setL_cause (t : Slot) (r : BitVec 3) (w : LabelWord) : (t.setL r w).cause = t.cause := rfl
@[simp] theorem Slot.setL_earlier (t : Slot) (r : BitVec 3) (w : LabelWord) : (t.setL r w).earlier = t.earlier := rfl
@[simp] theorem Slot.setL_badTable (t : Slot) (r : BitVec 3) (w : LabelWord) : (t.setL r w).badTable = t.badTable := rfl
@[simp] theorem Slot.setL_bankS (t : Slot) (r : BitVec 3) (w : LabelWord) : (t.setL r w).bankS = t.bankS := rfl
@[simp] theorem Slot.setL_bankH (t : Slot) (r : BitVec 3) (w : LabelWord) : (t.setL r w).bankH = t.bankH := rfl
@[simp] theorem Slot.setL_tcmp (t : Slot) (r : BitVec 3) (w : LabelWord) : (t.setL r w).tcmp = t.tcmp := rfl
@[simp] theorem Slot.setL_fewlim (t : Slot) (r : BitVec 3) (w : LabelWord) : (t.setL r w).fewlim = t.fewlim := rfl
@[simp] theorem Slot.setL_mfmt (t : Slot) (r : BitVec 3) (w : LabelWord) : (t.setL r w).mfmt = t.mfmt := rfl
@[simp] theorem Slot.setL_fflags (t : Slot) (r : BitVec 3) (w : LabelWord) : (t.setL r w).fflags = t.fflags := rfl
@[simp] theorem Slot.setL_xlroot (t : Slot) (r : BitVec 3) (w : LabelWord) : (t.setL r w).xlroot = t.xlroot := rfl
@[simp] theorem Slot.setL_objbase (t : Slot) (r : BitVec 3) (w : LabelWord) : (t.setL r w).objbase = t.objbase := rfl
@[simp] theorem Slot.setL_objlim (t : Slot) (r : BitVec 3) (w : LabelWord) : (t.setL r w).objlim = t.objlim := rfl
@[simp] theorem Slot.setL_cmtab (t : Slot) (r : BitVec 3) (w : LabelWord) : (t.setL r w).cmtab = t.cmtab := rfl
@[simp] theorem Slot.setL_frbase (t : Slot) (r : BitVec 3) (w : LabelWord) : (t.setL r w).frbase = t.frbase := rfl
@[simp] theorem Slot.setL_tenant (t : Slot) (r : BitVec 3) (w : LabelWord) : (t.setL r w).tenant = t.tenant := rfl
@[simp] theorem Slot.setL_inc (t : Slot) (r : BitVec 3) (w : LabelWord) : (t.setL r w).inc = t.inc := rfl
@[simp] theorem Slot.setL_state (t : Slot) (r : BitVec 3) (w : LabelWord) : (t.setL r w).state = t.state := rfl
@[simp] theorem Slot.setL_wait (t : Slot) (r : BitVec 3) (w : LabelWord) : (t.setL r w).wait = t.wait := rfl
@[simp] theorem Slot.setL_stopped (t : Slot) (r : BitVec 3) (w : LabelWord) : (t.setL r w).stopped = t.stopped := rfl
@[simp] theorem Slot.setL_stoppedAt (t : Slot) (r : BitVec 3) (w : LabelWord) : (t.setL r w).stoppedAt = t.stoppedAt := rfl
@[simp] theorem Slot.setL_flights (t : Slot) (r : BitVec 3) (w : LabelWord) : (t.setL r w).flights = t.flights := rfl
@[simp] theorem Slot.setL_flightNo (t : Slot) (r : BitVec 3) (w : LabelWord) : (t.setL r w).flightNo = t.flightNo := rfl
@[simp] theorem Slot.setL_yielded (t : Slot) (r : BitVec 3) (w : LabelWord) : (t.setL r w).yielded = t.yielded := rfl
@[simp] theorem Slot.setL_issueAt (t : Slot) (r : BitVec 3) (w : LabelWord) : (t.setL r w).issueAt = t.issueAt := rfl
@[simp] theorem Slot.setL_deliverAt (t : Slot) (r : BitVec 3) (w : LabelWord) : (t.setL r w).deliverAt = t.deliverAt := rfl
@[simp] theorem Slot.setL_handler (t : Slot) (r : BitVec 3) (w : LabelWord) : (t.setL r w).handler = t.handler := rfl
@[simp] theorem Slot.setL_pendStop (t : Slot) (r : BitVec 3) (w : LabelWord) : (t.setL r w).pendStop = t.pendStop := rfl
@[simp] theorem Slot.setL_pendTimer (t : Slot) (r : BitVec 3) (w : LabelWord) : (t.setL r w).pendTimer = t.pendTimer := rfl
@[simp] theorem Slot.setL_pendNotice (t : Slot) (r : BitVec 3) (w : LabelWord) : (t.setL r w).pendNotice = t.pendNotice := rfl
@[simp] theorem Slot.setL_gang (t : Slot) (r : BitVec 3) (w : LabelWord) : (t.setL r w).gang = t.gang := rfl
@[simp] theorem Slot.setL_others (t : Slot) (r : BitVec 3) (w : LabelWord) : (t.setL r w).others = t.others := rfl
@[simp] theorem Slot.setBank_x (t : Slot) (l : Level) (b : Bank) : (t.setBank l b).x = t.x := by cases l <;> rfl
@[simp] theorem Slot.setBank_v (t : Slot) (l : Level) (b : Bank) : (t.setBank l b).v = t.v := by cases l <;> rfl
@[simp] theorem Slot.setBank_m (t : Slot) (l : Level) (b : Bank) : (t.setBank l b).m = t.m := by cases l <;> rfl
@[simp] theorem Slot.setBank_lb (t : Slot) (l : Level) (b : Bank) : (t.setBank l b).lb = t.lb := by cases l <;> rfl
@[simp] theorem Slot.setBank_pc (t : Slot) (l : Level) (b : Bank) : (t.setBank l b).pc = t.pc := by cases l <;> rfl
@[simp] theorem Slot.setBank_priv (t : Slot) (l : Level) (b : Bank) : (t.setBank l b).priv = t.priv := by cases l <;> rfl
@[simp] theorem Slot.setBank_light (t : Slot) (l : Level) (b : Bank) : (t.setBank l b).light = t.light := by cases l <;> rfl
@[simp] theorem Slot.setBank_ie (t : Slot) (l : Level) (b : Bank) : (t.setBank l b).ie = t.ie := by cases l <;> rfl
@[simp] theorem Slot.setBank_stage (t : Slot) (l : Level) (b : Bank) : (t.setBank l b).stage = t.stage := by cases l <;> rfl
@[simp] theorem Slot.setBank_form (t : Slot) (l : Level) (b : Bank) : (t.setBank l b).form = t.form := by cases l <;> rfl
@[simp] theorem Slot.setBank_chain (t : Slot) (l : Level) (b : Bank) : (t.setBank l b).chain = t.chain := by cases l <;> rfl
@[simp] theorem Slot.setBank_nesting (t : Slot) (l : Level) (b : Bank) : (t.setBank l b).nesting = t.nesting := by cases l <;> rfl
@[simp] theorem Slot.setBank_cause (t : Slot) (l : Level) (b : Bank) : (t.setBank l b).cause = t.cause := by cases l <;> rfl
@[simp] theorem Slot.setBank_earlier (t : Slot) (l : Level) (b : Bank) : (t.setBank l b).earlier = t.earlier := by cases l <;> rfl
@[simp] theorem Slot.setBank_badTable (t : Slot) (l : Level) (b : Bank) : (t.setBank l b).badTable = t.badTable := by cases l <;> rfl
@[simp] theorem Slot.setBank_tcmp (t : Slot) (l : Level) (b : Bank) : (t.setBank l b).tcmp = t.tcmp := by cases l <;> rfl
@[simp] theorem Slot.setBank_fewlim (t : Slot) (l : Level) (b : Bank) : (t.setBank l b).fewlim = t.fewlim := by cases l <;> rfl
@[simp] theorem Slot.setBank_mfmt (t : Slot) (l : Level) (b : Bank) : (t.setBank l b).mfmt = t.mfmt := by cases l <;> rfl
@[simp] theorem Slot.setBank_fflags (t : Slot) (l : Level) (b : Bank) : (t.setBank l b).fflags = t.fflags := by cases l <;> rfl
@[simp] theorem Slot.setBank_xlroot (t : Slot) (l : Level) (b : Bank) : (t.setBank l b).xlroot = t.xlroot := by cases l <;> rfl
@[simp] theorem Slot.setBank_objbase (t : Slot) (l : Level) (b : Bank) : (t.setBank l b).objbase = t.objbase := by cases l <;> rfl
@[simp] theorem Slot.setBank_objlim (t : Slot) (l : Level) (b : Bank) : (t.setBank l b).objlim = t.objlim := by cases l <;> rfl
@[simp] theorem Slot.setBank_cmtab (t : Slot) (l : Level) (b : Bank) : (t.setBank l b).cmtab = t.cmtab := by cases l <;> rfl
@[simp] theorem Slot.setBank_frbase (t : Slot) (l : Level) (b : Bank) : (t.setBank l b).frbase = t.frbase := by cases l <;> rfl
@[simp] theorem Slot.setBank_tenant (t : Slot) (l : Level) (b : Bank) : (t.setBank l b).tenant = t.tenant := by cases l <;> rfl
@[simp] theorem Slot.setBank_inc (t : Slot) (l : Level) (b : Bank) : (t.setBank l b).inc = t.inc := by cases l <;> rfl
@[simp] theorem Slot.setBank_state (t : Slot) (l : Level) (b : Bank) : (t.setBank l b).state = t.state := by cases l <;> rfl
@[simp] theorem Slot.setBank_wait (t : Slot) (l : Level) (b : Bank) : (t.setBank l b).wait = t.wait := by cases l <;> rfl
@[simp] theorem Slot.setBank_stopped (t : Slot) (l : Level) (b : Bank) : (t.setBank l b).stopped = t.stopped := by cases l <;> rfl
@[simp] theorem Slot.setBank_stoppedAt (t : Slot) (l : Level) (b : Bank) : (t.setBank l b).stoppedAt = t.stoppedAt := by cases l <;> rfl
@[simp] theorem Slot.setBank_flights (t : Slot) (l : Level) (b : Bank) : (t.setBank l b).flights = t.flights := by cases l <;> rfl
@[simp] theorem Slot.setBank_flightNo (t : Slot) (l : Level) (b : Bank) : (t.setBank l b).flightNo = t.flightNo := by cases l <;> rfl
@[simp] theorem Slot.setBank_yielded (t : Slot) (l : Level) (b : Bank) : (t.setBank l b).yielded = t.yielded := by cases l <;> rfl
@[simp] theorem Slot.setBank_issueAt (t : Slot) (l : Level) (b : Bank) : (t.setBank l b).issueAt = t.issueAt := by cases l <;> rfl
@[simp] theorem Slot.setBank_deliverAt (t : Slot) (l : Level) (b : Bank) : (t.setBank l b).deliverAt = t.deliverAt := by cases l <;> rfl
@[simp] theorem Slot.setBank_handler (t : Slot) (l : Level) (b : Bank) : (t.setBank l b).handler = t.handler := by cases l <;> rfl
@[simp] theorem Slot.setBank_pendStop (t : Slot) (l : Level) (b : Bank) : (t.setBank l b).pendStop = t.pendStop := by cases l <;> rfl
@[simp] theorem Slot.setBank_pendTimer (t : Slot) (l : Level) (b : Bank) : (t.setBank l b).pendTimer = t.pendTimer := by cases l <;> rfl
@[simp] theorem Slot.setBank_pendNotice (t : Slot) (l : Level) (b : Bank) : (t.setBank l b).pendNotice = t.pendNotice := by cases l <;> rfl
@[simp] theorem Slot.setBank_gang (t : Slot) (l : Level) (b : Bank) : (t.setBank l b).gang = t.gang := by cases l <;> rfl
@[simp] theorem Slot.setBank_others (t : Slot) (l : Level) (b : Bank) : (t.setBank l b).others = t.others := by cases l <;> rfl
@[simp] theorem Slot.park_x (t : Slot) (st : SlotState) (w : Wait) : (t.park st w).x = t.x := rfl
@[simp] theorem Slot.park_v (t : Slot) (st : SlotState) (w : Wait) : (t.park st w).v = t.v := rfl
@[simp] theorem Slot.park_m (t : Slot) (st : SlotState) (w : Wait) : (t.park st w).m = t.m := rfl
@[simp] theorem Slot.park_lb (t : Slot) (st : SlotState) (w : Wait) : (t.park st w).lb = t.lb := rfl
@[simp] theorem Slot.park_pc (t : Slot) (st : SlotState) (w : Wait) : (t.park st w).pc = t.pc := rfl
@[simp] theorem Slot.park_priv (t : Slot) (st : SlotState) (w : Wait) : (t.park st w).priv = t.priv := rfl
@[simp] theorem Slot.park_light (t : Slot) (st : SlotState) (w : Wait) : (t.park st w).light = t.light := rfl
@[simp] theorem Slot.park_ie (t : Slot) (st : SlotState) (w : Wait) : (t.park st w).ie = t.ie := rfl
@[simp] theorem Slot.park_stage (t : Slot) (st : SlotState) (w : Wait) : (t.park st w).stage = t.stage := rfl
@[simp] theorem Slot.park_form (t : Slot) (st : SlotState) (w : Wait) : (t.park st w).form = t.form := rfl
@[simp] theorem Slot.park_chain (t : Slot) (st : SlotState) (w : Wait) : (t.park st w).chain = t.chain := rfl
@[simp] theorem Slot.park_nesting (t : Slot) (st : SlotState) (w : Wait) : (t.park st w).nesting = t.nesting := rfl
@[simp] theorem Slot.park_cause (t : Slot) (st : SlotState) (w : Wait) : (t.park st w).cause = t.cause := rfl
@[simp] theorem Slot.park_earlier (t : Slot) (st : SlotState) (w : Wait) : (t.park st w).earlier = t.earlier := rfl
@[simp] theorem Slot.park_badTable (t : Slot) (st : SlotState) (w : Wait) : (t.park st w).badTable = t.badTable := rfl
@[simp] theorem Slot.park_bankS (t : Slot) (st : SlotState) (w : Wait) : (t.park st w).bankS = t.bankS := rfl
@[simp] theorem Slot.park_bankH (t : Slot) (st : SlotState) (w : Wait) : (t.park st w).bankH = t.bankH := rfl
@[simp] theorem Slot.park_tcmp (t : Slot) (st : SlotState) (w : Wait) : (t.park st w).tcmp = t.tcmp := rfl
@[simp] theorem Slot.park_fewlim (t : Slot) (st : SlotState) (w : Wait) : (t.park st w).fewlim = t.fewlim := rfl
@[simp] theorem Slot.park_mfmt (t : Slot) (st : SlotState) (w : Wait) : (t.park st w).mfmt = t.mfmt := rfl
@[simp] theorem Slot.park_fflags (t : Slot) (st : SlotState) (w : Wait) : (t.park st w).fflags = t.fflags := rfl
@[simp] theorem Slot.park_xlroot (t : Slot) (st : SlotState) (w : Wait) : (t.park st w).xlroot = t.xlroot := rfl
@[simp] theorem Slot.park_objbase (t : Slot) (st : SlotState) (w : Wait) : (t.park st w).objbase = t.objbase := rfl
@[simp] theorem Slot.park_objlim (t : Slot) (st : SlotState) (w : Wait) : (t.park st w).objlim = t.objlim := rfl
@[simp] theorem Slot.park_cmtab (t : Slot) (st : SlotState) (w : Wait) : (t.park st w).cmtab = t.cmtab := rfl
@[simp] theorem Slot.park_frbase (t : Slot) (st : SlotState) (w : Wait) : (t.park st w).frbase = t.frbase := rfl
@[simp] theorem Slot.park_tenant (t : Slot) (st : SlotState) (w : Wait) : (t.park st w).tenant = t.tenant := rfl
@[simp] theorem Slot.park_inc (t : Slot) (st : SlotState) (w : Wait) : (t.park st w).inc = t.inc := rfl
@[simp] theorem Slot.park_state (t : Slot) (st : SlotState) (w : Wait) : (t.park st w).state = st := rfl
@[simp] theorem Slot.park_wait (t : Slot) (st : SlotState) (w : Wait) : (t.park st w).wait = w := rfl
@[simp] theorem Slot.park_stopped (t : Slot) (st : SlotState) (w : Wait) : (t.park st w).stopped = t.stopped := rfl
@[simp] theorem Slot.park_stoppedAt (t : Slot) (st : SlotState) (w : Wait) : (t.park st w).stoppedAt = t.stoppedAt := rfl
@[simp] theorem Slot.park_flights (t : Slot) (st : SlotState) (w : Wait) : (t.park st w).flights = t.flights := rfl
@[simp] theorem Slot.park_flightNo (t : Slot) (st : SlotState) (w : Wait) : (t.park st w).flightNo = t.flightNo := rfl
@[simp] theorem Slot.park_yielded (t : Slot) (st : SlotState) (w : Wait) : (t.park st w).yielded = t.yielded := rfl
@[simp] theorem Slot.park_issueAt (t : Slot) (st : SlotState) (w : Wait) : (t.park st w).issueAt = t.issueAt := rfl
@[simp] theorem Slot.park_deliverAt (t : Slot) (st : SlotState) (w : Wait) : (t.park st w).deliverAt = t.deliverAt := rfl
@[simp] theorem Slot.park_handler (t : Slot) (st : SlotState) (w : Wait) : (t.park st w).handler = t.handler := rfl
@[simp] theorem Slot.park_pendStop (t : Slot) (st : SlotState) (w : Wait) : (t.park st w).pendStop = t.pendStop := rfl
@[simp] theorem Slot.park_pendTimer (t : Slot) (st : SlotState) (w : Wait) : (t.park st w).pendTimer = t.pendTimer := rfl
@[simp] theorem Slot.park_pendNotice (t : Slot) (st : SlotState) (w : Wait) : (t.park st w).pendNotice = t.pendNotice := rfl
@[simp] theorem Slot.park_gang (t : Slot) (st : SlotState) (w : Wait) : (t.park st w).gang = t.gang := rfl
@[simp] theorem Slot.park_others (t : Slot) (st : SlotState) (w : Wait) : (t.park st w).others = t.others := rfl
@[simp] theorem Slot.unpark_x (t : Slot) : (t.unpark).x = t.x := rfl
@[simp] theorem Slot.unpark_v (t : Slot) : (t.unpark).v = t.v := rfl
@[simp] theorem Slot.unpark_m (t : Slot) : (t.unpark).m = t.m := rfl
@[simp] theorem Slot.unpark_lb (t : Slot) : (t.unpark).lb = t.lb := rfl
@[simp] theorem Slot.unpark_pc (t : Slot) : (t.unpark).pc = t.pc := rfl
@[simp] theorem Slot.unpark_priv (t : Slot) : (t.unpark).priv = t.priv := rfl
@[simp] theorem Slot.unpark_light (t : Slot) : (t.unpark).light = t.light := rfl
@[simp] theorem Slot.unpark_ie (t : Slot) : (t.unpark).ie = t.ie := rfl
@[simp] theorem Slot.unpark_stage (t : Slot) : (t.unpark).stage = t.stage := rfl
@[simp] theorem Slot.unpark_form (t : Slot) : (t.unpark).form = t.form := rfl
@[simp] theorem Slot.unpark_chain (t : Slot) : (t.unpark).chain = t.chain := rfl
@[simp] theorem Slot.unpark_nesting (t : Slot) : (t.unpark).nesting = t.nesting := rfl
@[simp] theorem Slot.unpark_cause (t : Slot) : (t.unpark).cause = t.cause := rfl
@[simp] theorem Slot.unpark_earlier (t : Slot) : (t.unpark).earlier = t.earlier := rfl
@[simp] theorem Slot.unpark_badTable (t : Slot) : (t.unpark).badTable = t.badTable := rfl
@[simp] theorem Slot.unpark_bankS (t : Slot) : (t.unpark).bankS = t.bankS := rfl
@[simp] theorem Slot.unpark_bankH (t : Slot) : (t.unpark).bankH = t.bankH := rfl
@[simp] theorem Slot.unpark_tcmp (t : Slot) : (t.unpark).tcmp = t.tcmp := rfl
@[simp] theorem Slot.unpark_fewlim (t : Slot) : (t.unpark).fewlim = t.fewlim := rfl
@[simp] theorem Slot.unpark_mfmt (t : Slot) : (t.unpark).mfmt = t.mfmt := rfl
@[simp] theorem Slot.unpark_fflags (t : Slot) : (t.unpark).fflags = t.fflags := rfl
@[simp] theorem Slot.unpark_xlroot (t : Slot) : (t.unpark).xlroot = t.xlroot := rfl
@[simp] theorem Slot.unpark_objbase (t : Slot) : (t.unpark).objbase = t.objbase := rfl
@[simp] theorem Slot.unpark_objlim (t : Slot) : (t.unpark).objlim = t.objlim := rfl
@[simp] theorem Slot.unpark_cmtab (t : Slot) : (t.unpark).cmtab = t.cmtab := rfl
@[simp] theorem Slot.unpark_frbase (t : Slot) : (t.unpark).frbase = t.frbase := rfl
@[simp] theorem Slot.unpark_tenant (t : Slot) : (t.unpark).tenant = t.tenant := rfl
@[simp] theorem Slot.unpark_inc (t : Slot) : (t.unpark).inc = t.inc := rfl
@[simp] theorem Slot.unpark_state (t : Slot) : (t.unpark).state = .run := rfl
@[simp] theorem Slot.unpark_wait (t : Slot) : (t.unpark).wait = .none := rfl
@[simp] theorem Slot.unpark_stopped (t : Slot) : (t.unpark).stopped = t.stopped := rfl
@[simp] theorem Slot.unpark_stoppedAt (t : Slot) : (t.unpark).stoppedAt = t.stoppedAt := rfl
@[simp] theorem Slot.unpark_flights (t : Slot) : (t.unpark).flights = t.flights := rfl
@[simp] theorem Slot.unpark_flightNo (t : Slot) : (t.unpark).flightNo = t.flightNo := rfl
@[simp] theorem Slot.unpark_yielded (t : Slot) : (t.unpark).yielded = t.yielded := rfl
@[simp] theorem Slot.unpark_issueAt (t : Slot) : (t.unpark).issueAt = t.issueAt := rfl
@[simp] theorem Slot.unpark_deliverAt (t : Slot) : (t.unpark).deliverAt = t.deliverAt := rfl
@[simp] theorem Slot.unpark_handler (t : Slot) : (t.unpark).handler = t.handler := rfl
@[simp] theorem Slot.unpark_pendStop (t : Slot) : (t.unpark).pendStop = t.pendStop := rfl
@[simp] theorem Slot.unpark_pendTimer (t : Slot) : (t.unpark).pendTimer = t.pendTimer := rfl
@[simp] theorem Slot.unpark_pendNotice (t : Slot) : (t.unpark).pendNotice = t.pendNotice := rfl
@[simp] theorem Slot.unpark_gang (t : Slot) : (t.unpark).gang = t.gang := rfl
@[simp] theorem Slot.unpark_others (t : Slot) : (t.unpark).others = t.others := rfl
@[simp] theorem Slot.launchFlight_x (t : Slot) (r : RegName) (a : Bool) (l : Option LineTag) : (t.launchFlight r a l).x = t.x := rfl
@[simp] theorem Slot.launchFlight_v (t : Slot) (r : RegName) (a : Bool) (l : Option LineTag) : (t.launchFlight r a l).v = t.v := rfl
@[simp] theorem Slot.launchFlight_m (t : Slot) (r : RegName) (a : Bool) (l : Option LineTag) : (t.launchFlight r a l).m = t.m := rfl
@[simp] theorem Slot.launchFlight_lb (t : Slot) (r : RegName) (a : Bool) (l : Option LineTag) : (t.launchFlight r a l).lb = t.lb := rfl
@[simp] theorem Slot.launchFlight_pc (t : Slot) (r : RegName) (a : Bool) (l : Option LineTag) : (t.launchFlight r a l).pc = t.pc := rfl
@[simp] theorem Slot.launchFlight_priv (t : Slot) (r : RegName) (a : Bool) (l : Option LineTag) : (t.launchFlight r a l).priv = t.priv := rfl
@[simp] theorem Slot.launchFlight_light (t : Slot) (r : RegName) (a : Bool) (l : Option LineTag) : (t.launchFlight r a l).light = t.light := rfl
@[simp] theorem Slot.launchFlight_ie (t : Slot) (r : RegName) (a : Bool) (l : Option LineTag) : (t.launchFlight r a l).ie = t.ie := rfl
@[simp] theorem Slot.launchFlight_stage (t : Slot) (r : RegName) (a : Bool) (l : Option LineTag) : (t.launchFlight r a l).stage = t.stage := rfl
@[simp] theorem Slot.launchFlight_form (t : Slot) (r : RegName) (a : Bool) (l : Option LineTag) : (t.launchFlight r a l).form = t.form := rfl
@[simp] theorem Slot.launchFlight_chain (t : Slot) (r : RegName) (a : Bool) (l : Option LineTag) : (t.launchFlight r a l).chain = t.chain := rfl
@[simp] theorem Slot.launchFlight_nesting (t : Slot) (r : RegName) (a : Bool) (l : Option LineTag) : (t.launchFlight r a l).nesting = t.nesting := rfl
@[simp] theorem Slot.launchFlight_cause (t : Slot) (r : RegName) (a : Bool) (l : Option LineTag) : (t.launchFlight r a l).cause = t.cause := rfl
@[simp] theorem Slot.launchFlight_earlier (t : Slot) (r : RegName) (a : Bool) (l : Option LineTag) : (t.launchFlight r a l).earlier = t.earlier := rfl
@[simp] theorem Slot.launchFlight_badTable (t : Slot) (r : RegName) (a : Bool) (l : Option LineTag) : (t.launchFlight r a l).badTable = t.badTable := rfl
@[simp] theorem Slot.launchFlight_bankS (t : Slot) (r : RegName) (a : Bool) (l : Option LineTag) : (t.launchFlight r a l).bankS = t.bankS := rfl
@[simp] theorem Slot.launchFlight_bankH (t : Slot) (r : RegName) (a : Bool) (l : Option LineTag) : (t.launchFlight r a l).bankH = t.bankH := rfl
@[simp] theorem Slot.launchFlight_tcmp (t : Slot) (r : RegName) (a : Bool) (l : Option LineTag) : (t.launchFlight r a l).tcmp = t.tcmp := rfl
@[simp] theorem Slot.launchFlight_fewlim (t : Slot) (r : RegName) (a : Bool) (l : Option LineTag) : (t.launchFlight r a l).fewlim = t.fewlim := rfl
@[simp] theorem Slot.launchFlight_mfmt (t : Slot) (r : RegName) (a : Bool) (l : Option LineTag) : (t.launchFlight r a l).mfmt = t.mfmt := rfl
@[simp] theorem Slot.launchFlight_fflags (t : Slot) (r : RegName) (a : Bool) (l : Option LineTag) : (t.launchFlight r a l).fflags = t.fflags := rfl
@[simp] theorem Slot.launchFlight_xlroot (t : Slot) (r : RegName) (a : Bool) (l : Option LineTag) : (t.launchFlight r a l).xlroot = t.xlroot := rfl
@[simp] theorem Slot.launchFlight_objbase (t : Slot) (r : RegName) (a : Bool) (l : Option LineTag) : (t.launchFlight r a l).objbase = t.objbase := rfl
@[simp] theorem Slot.launchFlight_objlim (t : Slot) (r : RegName) (a : Bool) (l : Option LineTag) : (t.launchFlight r a l).objlim = t.objlim := rfl
@[simp] theorem Slot.launchFlight_cmtab (t : Slot) (r : RegName) (a : Bool) (l : Option LineTag) : (t.launchFlight r a l).cmtab = t.cmtab := rfl
@[simp] theorem Slot.launchFlight_frbase (t : Slot) (r : RegName) (a : Bool) (l : Option LineTag) : (t.launchFlight r a l).frbase = t.frbase := rfl
@[simp] theorem Slot.launchFlight_tenant (t : Slot) (r : RegName) (a : Bool) (l : Option LineTag) : (t.launchFlight r a l).tenant = t.tenant := rfl
@[simp] theorem Slot.launchFlight_inc (t : Slot) (r : RegName) (a : Bool) (l : Option LineTag) : (t.launchFlight r a l).inc = t.inc := rfl
@[simp] theorem Slot.launchFlight_state (t : Slot) (r : RegName) (a : Bool) (l : Option LineTag) : (t.launchFlight r a l).state = t.state := rfl
@[simp] theorem Slot.launchFlight_wait (t : Slot) (r : RegName) (a : Bool) (l : Option LineTag) : (t.launchFlight r a l).wait = t.wait := rfl
@[simp] theorem Slot.launchFlight_stopped (t : Slot) (r : RegName) (a : Bool) (l : Option LineTag) : (t.launchFlight r a l).stopped = t.stopped := rfl
@[simp] theorem Slot.launchFlight_stoppedAt (t : Slot) (r : RegName) (a : Bool) (l : Option LineTag) : (t.launchFlight r a l).stoppedAt = t.stoppedAt := rfl
@[simp] theorem Slot.launchFlight_flights (t : Slot) (r : RegName) (a : Bool) (l : Option LineTag) : (t.launchFlight r a l).flights = t.flights ++ [{ reg := r, access := a, line := l, no := t.flightNo }] := rfl
@[simp] theorem Slot.launchFlight_flightNo (t : Slot) (r : RegName) (a : Bool) (l : Option LineTag) : (t.launchFlight r a l).flightNo = t.flightNo + 1 := rfl
@[simp] theorem Slot.launchFlight_yielded (t : Slot) (r : RegName) (a : Bool) (l : Option LineTag) : (t.launchFlight r a l).yielded = t.yielded := rfl
@[simp] theorem Slot.launchFlight_issueAt (t : Slot) (r : RegName) (a : Bool) (l : Option LineTag) : (t.launchFlight r a l).issueAt = t.issueAt := rfl
@[simp] theorem Slot.launchFlight_deliverAt (t : Slot) (r : RegName) (a : Bool) (l : Option LineTag) : (t.launchFlight r a l).deliverAt = t.deliverAt := rfl
@[simp] theorem Slot.launchFlight_handler (t : Slot) (r : RegName) (a : Bool) (l : Option LineTag) : (t.launchFlight r a l).handler = t.handler := rfl
@[simp] theorem Slot.launchFlight_pendStop (t : Slot) (r : RegName) (a : Bool) (l : Option LineTag) : (t.launchFlight r a l).pendStop = t.pendStop := rfl
@[simp] theorem Slot.launchFlight_pendTimer (t : Slot) (r : RegName) (a : Bool) (l : Option LineTag) : (t.launchFlight r a l).pendTimer = t.pendTimer := rfl
@[simp] theorem Slot.launchFlight_pendNotice (t : Slot) (r : RegName) (a : Bool) (l : Option LineTag) : (t.launchFlight r a l).pendNotice = t.pendNotice := rfl
@[simp] theorem Slot.launchFlight_gang (t : Slot) (r : RegName) (a : Bool) (l : Option LineTag) : (t.launchFlight r a l).gang = t.gang := rfl
@[simp] theorem Slot.launchFlight_others (t : Slot) (r : RegName) (a : Bool) (l : Option LineTag) : (t.launchFlight r a l).others = t.others := rfl
@[simp] theorem Slot.leaveTrap_x (t : Slot) (l p : Level) : (t.leaveTrap l p).x = t.x := rfl
@[simp] theorem Slot.leaveTrap_v (t : Slot) (l p : Level) : (t.leaveTrap l p).v = t.v := rfl
@[simp] theorem Slot.leaveTrap_m (t : Slot) (l p : Level) : (t.leaveTrap l p).m = t.m := rfl
@[simp] theorem Slot.leaveTrap_lb (t : Slot) (l p : Level) : (t.leaveTrap l p).lb = t.lb := rfl
@[simp] theorem Slot.leaveTrap_pc (t : Slot) (l p : Level) : (t.leaveTrap l p).pc = (t.bank l).xpc := rfl
@[simp] theorem Slot.leaveTrap_priv (t : Slot) (l p : Level) : (t.leaveTrap l p).priv = p := rfl
@[simp] theorem Slot.leaveTrap_light (t : Slot) (l p : Level) : (t.leaveTrap l p).light = t.light := rfl
@[simp] theorem Slot.leaveTrap_ie (t : Slot) (l p : Level) : (t.leaveTrap l p).ie = (t.bank l).xcause.getLsbD 60 := rfl
@[simp] theorem Slot.leaveTrap_stage (t : Slot) (l p : Level) : (t.leaveTrap l p).stage = t.stage := rfl
@[simp] theorem Slot.leaveTrap_form (t : Slot) (l p : Level) : (t.leaveTrap l p).form = t.form := rfl
@[simp] theorem Slot.leaveTrap_chain (t : Slot) (l p : Level) : (t.leaveTrap l p).chain = t.chain := rfl
@[simp] theorem Slot.leaveTrap_nesting (t : Slot) (l p : Level) : (t.leaveTrap l p).nesting = t.nesting - 1 := rfl
@[simp] theorem Slot.leaveTrap_cause (t : Slot) (l p : Level) : (t.leaveTrap l p).cause = t.cause := rfl
@[simp] theorem Slot.leaveTrap_earlier (t : Slot) (l p : Level) : (t.leaveTrap l p).earlier = t.earlier := rfl
@[simp] theorem Slot.leaveTrap_badTable (t : Slot) (l p : Level) : (t.leaveTrap l p).badTable = t.badTable := rfl
@[simp] theorem Slot.leaveTrap_bankS (t : Slot) (l p : Level) : (t.leaveTrap l p).bankS = t.bankS := rfl
@[simp] theorem Slot.leaveTrap_bankH (t : Slot) (l p : Level) : (t.leaveTrap l p).bankH = t.bankH := rfl
@[simp] theorem Slot.leaveTrap_tcmp (t : Slot) (l p : Level) : (t.leaveTrap l p).tcmp = t.tcmp := rfl
@[simp] theorem Slot.leaveTrap_fewlim (t : Slot) (l p : Level) : (t.leaveTrap l p).fewlim = t.fewlim := rfl
@[simp] theorem Slot.leaveTrap_mfmt (t : Slot) (l p : Level) : (t.leaveTrap l p).mfmt = t.mfmt := rfl
@[simp] theorem Slot.leaveTrap_fflags (t : Slot) (l p : Level) : (t.leaveTrap l p).fflags = t.fflags := rfl
@[simp] theorem Slot.leaveTrap_xlroot (t : Slot) (l p : Level) : (t.leaveTrap l p).xlroot = t.xlroot := rfl
@[simp] theorem Slot.leaveTrap_objbase (t : Slot) (l p : Level) : (t.leaveTrap l p).objbase = t.objbase := rfl
@[simp] theorem Slot.leaveTrap_objlim (t : Slot) (l p : Level) : (t.leaveTrap l p).objlim = t.objlim := rfl
@[simp] theorem Slot.leaveTrap_cmtab (t : Slot) (l p : Level) : (t.leaveTrap l p).cmtab = t.cmtab := rfl
@[simp] theorem Slot.leaveTrap_frbase (t : Slot) (l p : Level) : (t.leaveTrap l p).frbase = t.frbase := rfl
@[simp] theorem Slot.leaveTrap_tenant (t : Slot) (l p : Level) : (t.leaveTrap l p).tenant = t.tenant := rfl
@[simp] theorem Slot.leaveTrap_inc (t : Slot) (l p : Level) : (t.leaveTrap l p).inc = t.inc := rfl
@[simp] theorem Slot.leaveTrap_state (t : Slot) (l p : Level) : (t.leaveTrap l p).state = t.state := rfl
@[simp] theorem Slot.leaveTrap_wait (t : Slot) (l p : Level) : (t.leaveTrap l p).wait = t.wait := rfl
@[simp] theorem Slot.leaveTrap_stopped (t : Slot) (l p : Level) : (t.leaveTrap l p).stopped = t.stopped := rfl
@[simp] theorem Slot.leaveTrap_stoppedAt (t : Slot) (l p : Level) : (t.leaveTrap l p).stoppedAt = t.stoppedAt := rfl
@[simp] theorem Slot.leaveTrap_flights (t : Slot) (l p : Level) : (t.leaveTrap l p).flights = t.flights := rfl
@[simp] theorem Slot.leaveTrap_flightNo (t : Slot) (l p : Level) : (t.leaveTrap l p).flightNo = t.flightNo := rfl
@[simp] theorem Slot.leaveTrap_yielded (t : Slot) (l p : Level) : (t.leaveTrap l p).yielded = t.yielded := rfl
@[simp] theorem Slot.leaveTrap_issueAt (t : Slot) (l p : Level) : (t.leaveTrap l p).issueAt = t.issueAt := rfl
@[simp] theorem Slot.leaveTrap_deliverAt (t : Slot) (l p : Level) : (t.leaveTrap l p).deliverAt = t.deliverAt := rfl
@[simp] theorem Slot.leaveTrap_handler (t : Slot) (l p : Level) : (t.leaveTrap l p).handler = t.handler := rfl
@[simp] theorem Slot.leaveTrap_pendStop (t : Slot) (l p : Level) : (t.leaveTrap l p).pendStop = t.pendStop := rfl
@[simp] theorem Slot.leaveTrap_pendTimer (t : Slot) (l p : Level) : (t.leaveTrap l p).pendTimer = t.pendTimer := rfl
@[simp] theorem Slot.leaveTrap_pendNotice (t : Slot) (l p : Level) : (t.leaveTrap l p).pendNotice = t.pendNotice := rfl
@[simp] theorem Slot.leaveTrap_gang (t : Slot) (l p : Level) : (t.leaveTrap l p).gang = t.gang := rfl
@[simp] theorem Slot.leaveTrap_others (t : Slot) (l p : Level) : (t.leaveTrap l p).others = t.others := rfl
@[simp] theorem Slot.enterTrap_x (t : Slot) (l : Level) (a : Bool) (c : BitVec 8) (w : Word) : (t.enterTrap l a c w).x = t.x := by cases l <;> rfl
@[simp] theorem Slot.enterTrap_v (t : Slot) (l : Level) (a : Bool) (c : BitVec 8) (w : Word) : (t.enterTrap l a c w).v = t.v := by cases l <;> rfl
@[simp] theorem Slot.enterTrap_m (t : Slot) (l : Level) (a : Bool) (c : BitVec 8) (w : Word) : (t.enterTrap l a c w).m = t.m := by cases l <;> rfl
@[simp] theorem Slot.enterTrap_lb (t : Slot) (l : Level) (a : Bool) (c : BitVec 8) (w : Word) : (t.enterTrap l a c w).lb = t.lb := by cases l <;> rfl
@[simp] theorem Slot.enterTrap_pc (t : Slot) (l : Level) (a : Bool) (c : BitVec 8) (w : Word) : (t.enterTrap l a c w).pc = (t.bank l).xvec &&& ~~~3#64 := rfl
@[simp] theorem Slot.enterTrap_priv (t : Slot) (l : Level) (a : Bool) (c : BitVec 8) (w : Word) : (t.enterTrap l a c w).priv = l := rfl
@[simp] theorem Slot.enterTrap_light (t : Slot) (l : Level) (a : Bool) (c : BitVec 8) (w : Word) : (t.enterTrap l a c w).light = t.light := by cases l <;> rfl
@[simp] theorem Slot.enterTrap_ie (t : Slot) (l : Level) (a : Bool) (c : BitVec 8) (w : Word) : (t.enterTrap l a c w).ie = false := rfl
@[simp] theorem Slot.enterTrap_stage (t : Slot) (l : Level) (a : Bool) (c : BitVec 8) (w : Word) : (t.enterTrap l a c w).stage = t.stage := by cases l <;> rfl
@[simp] theorem Slot.enterTrap_form (t : Slot) (l : Level) (a : Bool) (c : BitVec 8) (w : Word) : (t.enterTrap l a c w).form = t.form := by cases l <;> rfl
@[simp] theorem Slot.enterTrap_chain (t : Slot) (l : Level) (a : Bool) (c : BitVec 8) (w : Word) : (t.enterTrap l a c w).chain = t.chain := by cases l <;> rfl
@[simp] theorem Slot.enterTrap_nesting (t : Slot) (l : Level) (a : Bool) (c : BitVec 8) (w : Word) : (t.enterTrap l a c w).nesting = if t.form.isSome then t.nesting + 1 else t.nesting := rfl
@[simp] theorem Slot.enterTrap_cause (t : Slot) (l : Level) (a : Bool) (c : BitVec 8) (w : Word) : (t.enterTrap l a c w).cause = t.cause := by cases l <;> rfl
@[simp] theorem Slot.enterTrap_earlier (t : Slot) (l : Level) (a : Bool) (c : BitVec 8) (w : Word) : (t.enterTrap l a c w).earlier = t.earlier := by cases l <;> rfl
@[simp] theorem Slot.enterTrap_badTable (t : Slot) (l : Level) (a : Bool) (c : BitVec 8) (w : Word) : (t.enterTrap l a c w).badTable = t.badTable := by cases l <;> rfl
@[simp] theorem Slot.enterTrap_tcmp (t : Slot) (l : Level) (a : Bool) (c : BitVec 8) (w : Word) : (t.enterTrap l a c w).tcmp = t.tcmp := by cases l <;> rfl
@[simp] theorem Slot.enterTrap_fewlim (t : Slot) (l : Level) (a : Bool) (c : BitVec 8) (w : Word) : (t.enterTrap l a c w).fewlim = t.fewlim := by cases l <;> rfl
@[simp] theorem Slot.enterTrap_mfmt (t : Slot) (l : Level) (a : Bool) (c : BitVec 8) (w : Word) : (t.enterTrap l a c w).mfmt = t.mfmt := by cases l <;> rfl
@[simp] theorem Slot.enterTrap_fflags (t : Slot) (l : Level) (a : Bool) (c : BitVec 8) (w : Word) : (t.enterTrap l a c w).fflags = t.fflags := by cases l <;> rfl
@[simp] theorem Slot.enterTrap_xlroot (t : Slot) (l : Level) (a : Bool) (c : BitVec 8) (w : Word) : (t.enterTrap l a c w).xlroot = t.xlroot := by cases l <;> rfl
@[simp] theorem Slot.enterTrap_objbase (t : Slot) (l : Level) (a : Bool) (c : BitVec 8) (w : Word) : (t.enterTrap l a c w).objbase = t.objbase := by cases l <;> rfl
@[simp] theorem Slot.enterTrap_objlim (t : Slot) (l : Level) (a : Bool) (c : BitVec 8) (w : Word) : (t.enterTrap l a c w).objlim = t.objlim := by cases l <;> rfl
@[simp] theorem Slot.enterTrap_cmtab (t : Slot) (l : Level) (a : Bool) (c : BitVec 8) (w : Word) : (t.enterTrap l a c w).cmtab = t.cmtab := by cases l <;> rfl
@[simp] theorem Slot.enterTrap_frbase (t : Slot) (l : Level) (a : Bool) (c : BitVec 8) (w : Word) : (t.enterTrap l a c w).frbase = t.frbase := by cases l <;> rfl
@[simp] theorem Slot.enterTrap_tenant (t : Slot) (l : Level) (a : Bool) (c : BitVec 8) (w : Word) : (t.enterTrap l a c w).tenant = t.tenant := by cases l <;> rfl
@[simp] theorem Slot.enterTrap_inc (t : Slot) (l : Level) (a : Bool) (c : BitVec 8) (w : Word) : (t.enterTrap l a c w).inc = t.inc := by cases l <;> rfl
@[simp] theorem Slot.enterTrap_state (t : Slot) (l : Level) (a : Bool) (c : BitVec 8) (w : Word) : (t.enterTrap l a c w).state = .run := rfl
@[simp] theorem Slot.enterTrap_wait (t : Slot) (l : Level) (a : Bool) (c : BitVec 8) (w : Word) : (t.enterTrap l a c w).wait = .none := rfl
@[simp] theorem Slot.enterTrap_stopped (t : Slot) (l : Level) (a : Bool) (c : BitVec 8) (w : Word) : (t.enterTrap l a c w).stopped = t.stopped := by cases l <;> rfl
@[simp] theorem Slot.enterTrap_stoppedAt (t : Slot) (l : Level) (a : Bool) (c : BitVec 8) (w : Word) : (t.enterTrap l a c w).stoppedAt = t.stoppedAt := by cases l <;> rfl
@[simp] theorem Slot.enterTrap_flights (t : Slot) (l : Level) (a : Bool) (c : BitVec 8) (w : Word) : (t.enterTrap l a c w).flights = t.flights := by cases l <;> rfl
@[simp] theorem Slot.enterTrap_flightNo (t : Slot) (l : Level) (a : Bool) (c : BitVec 8) (w : Word) : (t.enterTrap l a c w).flightNo = t.flightNo := by cases l <;> rfl
@[simp] theorem Slot.enterTrap_yielded (t : Slot) (l : Level) (a : Bool) (c : BitVec 8) (w : Word) : (t.enterTrap l a c w).yielded = t.yielded := by cases l <;> rfl
@[simp] theorem Slot.enterTrap_issueAt (t : Slot) (l : Level) (a : Bool) (c : BitVec 8) (w : Word) : (t.enterTrap l a c w).issueAt = t.issueAt := by cases l <;> rfl
@[simp] theorem Slot.enterTrap_deliverAt (t : Slot) (l : Level) (a : Bool) (c : BitVec 8) (w : Word) : (t.enterTrap l a c w).deliverAt = t.deliverAt := by cases l <;> rfl
@[simp] theorem Slot.enterTrap_handler (t : Slot) (l : Level) (a : Bool) (c : BitVec 8) (w : Word) : (t.enterTrap l a c w).handler = t.handler := by cases l <;> rfl
@[simp] theorem Slot.enterTrap_pendStop (t : Slot) (l : Level) (a : Bool) (c : BitVec 8) (w : Word) : (t.enterTrap l a c w).pendStop = t.pendStop := by cases l <;> rfl
@[simp] theorem Slot.enterTrap_pendTimer (t : Slot) (l : Level) (a : Bool) (c : BitVec 8) (w : Word) : (t.enterTrap l a c w).pendTimer = t.pendTimer := by cases l <;> rfl
@[simp] theorem Slot.enterTrap_pendNotice (t : Slot) (l : Level) (a : Bool) (c : BitVec 8) (w : Word) : (t.enterTrap l a c w).pendNotice = t.pendNotice := by cases l <;> rfl
@[simp] theorem Slot.enterTrap_gang (t : Slot) (l : Level) (a : Bool) (c : BitVec 8) (w : Word) : (t.enterTrap l a c w).gang = t.gang := by cases l <;> rfl
@[simp] theorem Slot.enterTrap_others (t : Slot) (l : Level) (a : Bool) (c : BitVec 8) (w : Word) : (t.enterTrap l a c w).others = t.others := by cases l <;> rfl

theorem Slot.getX_zero (t : Slot) : t.getX 0#5 = 0 := rfl
theorem Slot.setX_zero (t : Slot) (w : Word) : t.setX 0#5 w = t := rfl
theorem Slot.getM_zero (t : Slot) : t.getM 0#3 = BitVec.allOnes 64 := rfl
theorem Slot.setM_zero (t : Slot) (w : Word) : t.setM 0#3 w = t := rfl

theorem Slot.getX_setX (t : Slot) (r : BitVec 5) (w : Word) (h : r ≠ 0#5) : (t.setX r w).getX r = w := by
  simp [Slot.getX, Slot.setX, h]

theorem Slot.getX_setX_other (t : Slot) (r q : BitVec 5) (w : Word) (h : q ≠ r) : (t.setX r w).getX q = t.getX q := by
  have : r.toNat ≠ q.toNat := fun e => h (BitVec.eq_of_toNat_eq e.symm)
  unfold Slot.getX Slot.setX
  by_cases hr : r = 0#5 <;> by_cases hq : q = 0#5 <;> simp [hr, hq, this]

theorem Slot.getV_setV (t : Slot) (r : BitVec 4) (w : VecWord) : (t.setV r w).getV r = w := by
  simp [Slot.getV, Slot.setV]

theorem Slot.getV_setV_other (t : Slot) (r q : BitVec 4) (w : VecWord) (h : q ≠ r) : (t.setV r w).getV q = t.getV q := by
  have : r.toNat ≠ q.toNat := fun e => h (BitVec.eq_of_toNat_eq e.symm)
  simp [Slot.getV, Slot.setV, this]

theorem Slot.getM_setM (t : Slot) (r : BitVec 3) (w : Word) (h : r ≠ 0#3) : (t.setM r w).getM r = w := by
  simp [Slot.getM, Slot.setM, h]

theorem Slot.getL_setL (t : Slot) (r : BitVec 3) (w : LabelWord) : (t.setL r w).getL r = w := by
  simp [Slot.getL, Slot.setL]

@[simp] theorem Slot.bank_setBank (t : Slot) (l : Level) (b : Bank) : (t.setBank l b).bank l = b := by cases l <;> rfl

theorem Slot.bank_enterTrap (t : Slot) (l : Level) (a : Bool) (c : BitVec 8) (w : Word) :
    (t.enterTrap l a c w).bank l = { t.bank l with xpc := t.pc, xcause := causeWord a t.priv t.ie c, xval := w } := by
  cases l <;> rfl

end Sys2Proof.Machine
end

