-- ==== Sys2Proof/Laws/Memory.lean ====
section
/-!
SUPPORT. What the operations over memory do: the canonical form is kept, a read after a write gives the value, and a write leaves
every other place alone.
-/
namespace Sys2Proof.Machine

/-! The canonical form. -/

theorem State.memWrite_wf (s : State) (a n v : Nat) (w : Cells.wf s.mem = true) : Cells.wf (s.memWrite a n v).mem = true :=
  Cells.wf_writeNat v a n s.mem w

theorem Core.spadWrite_wf (q : Core) (o n v : Nat) (w : Cells.wf q.spad = true) : Cells.wf (q.spadWrite o n v).spad = true :=
  Cells.wf_writeNat v o n q.spad w

theorem State.setFull_mem (s : State) (l : WordLoc) (b : Bool) : (s.setFull l b).mem = s.mem := by cases l <;> rfl

theorem State.setBad_mem (s : State) (l : WordLoc) (b : Bool) : (s.setBad l b).mem = s.mem := by cases l <;> rfl

theorem State.repairWord_mem (s : State) (l : WordLoc) : (s.repairWord l).mem = s.mem := by
  unfold State.repairWord
  split
  · rw [State.setFull_mem, State.setBad_mem]
  · rfl

theorem State.writeLoc_wf (s : State) (l : WordLoc) (n v : Nat) (w : Cells.wf s.mem = true) : Cells.wf (s.writeLoc l n v).mem = true := by
  cases l with
  | mem a => exact State.memWrite_wf s a n v w
  | spad c o => exact w
  | mail c b k => exact w

theorem State.repairWords_mem (l : WordLoc) (ns : List Nat) (s : State) :
    (ns.foldl (fun (s : State) i => s.repairWord (l.plus (8 * i))) s).mem = s.mem := by
  induction ns generalizing s with
  | nil => rfl
  | cons i r ih => rw [List.foldl_cons, ih, State.repairWord_mem]

theorem State.storeLoc_mem (s : State) (l : WordLoc) (n v : Nat) : (s.storeLoc l n v).mem = (s.writeLoc l n v).mem :=
  State.repairWords_mem l _ _

theorem State.storeLoc_wf (s : State) (l : WordLoc) (n v : Nat) (w : Cells.wf s.mem = true) : Cells.wf (s.storeLoc l n v).mem = true := by
  rw [State.storeLoc_mem]
  exact State.writeLoc_wf s l n v w

theorem State.miss_mem (s : State) (c : CoreId) (l : Loc) (w : LineWant) (m : BitVec 4) : (s.miss c l w m).mem = s.mem := by
  unfold State.miss
  dsimp only
  split <;> rfl

/-- What an access does at its core's cache leaves memory alone (DEDUCED, log 4). -/
theorem State.touch_mem (s : State) (c : CoreId) (l : Loc) (acc : Access) (n : Nat) : (s.touch c l acc n).1.mem = s.mem := by
  unfold State.touch
  split
  · dsimp only
    split
    · split
      · rfl
      · exact State.miss_mem _ _ _ _ _
    · rfl
    · exact State.miss_mem _ _ _ _ _
    · exact State.miss_mem _ _ _ _ _
  · rfl

theorem State.trimSlice_mem (s : State) (b : CombId) : (s.trimSlice b).mem = s.mem := by
  unfold State.trimSlice
  dsimp only
  split <;> rfl

theorem State.cacheL2_mem (s : State) (b : CombId) (tag : LineTag) : (s.cacheL2 b tag).mem = s.mem := by
  unfold State.cacheL2
  dsimp only
  split
  · rfl
  · rw [State.trimSlice_mem]

theorem State.landGrants_mem (s : State) (tag : LineTag) : (s.landGrants tag).mem = s.mem := by
  have h (l : List Due) (s : State) : (l.foldl (fun s d => s.modCore d.event.args.core fun q => q.answerMiss tag (d.event.args.st = .m)) s).mem = s.mem := by
    induction l generalizing s with
    | nil => rfl
    | cons d r ih => rw [List.foldl_cons, ih]; rfl
  exact h _ _

/-- Recalling a line leaves memory alone. -/
theorem State.recall_mem (s : State) (l : Loc) : (s.recall l).mem = s.mem := by
  have h : ((s.landGrants l.tag).cacheL2 l.home l.tag).mem = s.mem := by rw [State.cacheL2_mem, State.landGrants_mem]
  unfold State.recall
  split
  · split
    · split
      · exact h
      · rfl
    · exact h
  · rfl

theorem State.copyStageTwo_mem (s : State) (tenant : BitVec 16) (gpa : Nat) : (s.copyStageTwo tenant gpa).mem = s.mem := by
  unfold State.copyStageTwo
  dsimp only
  split
  · rfl
  · split <;> rfl

theorem State.noteStageTwo_mem (s : State) (l : Loc) : (s.noteStageTwo l).mem = s.mem := by
  unfold State.noteStageTwo
  split
  · split
    · rfl
    · exact State.copyStageTwo_mem s _ _
  · rfl

/-! Reading back. -/

/-- A read of the bytes written gives the value, cut to their width. -/
theorem State.memRead_memWrite (s : State) (a n v : Nat) : (s.memWrite a n v).memRead a n = v % 256 ^ n :=
  Cells.readNat_writeNat v a n s.mem

/-- A read apart from the bytes written gives what it gave before. -/
theorem State.memRead_memWrite_apart (s : State) (a n v b m : Nat) (h : b + m ≤ a ∨ a + n ≤ b) :
    (s.memWrite a n v).memRead b m = s.memRead b m :=
  Cells.readNat_writeNat_apart v a n b m s.mem h

/-- A word's bit after it is set, and every other word's. -/
theorem State.memFull_memSetFull (s : State) (a b : Nat) (f : Bool) :
    (s.memSetFull a f).memFull b = if a / 8 * 8 = b / 8 * 8 then f else s.memFull b := by
  simp only [State.memFull, State.memSetFull_memEmpty, NatSet.has_set]
  split <;> simp

/-- A byte of scratchpad outside the bytes written reads as before. -/
theorem Core.spadByte_spadWrite_other (q : Core) (o n v j : Nat) (h : j < o ∨ o + n ≤ j) : (q.spadWrite o n v).spadByte j = q.spadByte j := by
  show (if _ then _ else Cells.read j (Cells.writeNat v o q.spad n)) = _
  rw [Cells.read_writeNat_other v o j n q.spad h]
  rfl

end Sys2Proof.Machine
end

