-- ==== Sys2Proof/Laws/Perform.lean ====
section
/-!
SUPPORT. What issuing an instruction comes to: one lemma for each way an instruction ends, so that no proof about an instruction
unfolds `perform`.
-/
namespace Sys2Proof.Machine

/-- The instruction's own effect, once nothing stands before it. -/
theorem perform_of_issues (i : Instr) (body : M Flow) (s : State) (h : s.issues i = true) :
    (perform i body).run s = (do countStore i; advance (← body) : M Unit).run s := by
  simp only [State.issues, Bool.and_eq_true, Bool.not_eq_true', Option.isNone_iff_eq_none] at h
  obtain ⟨⟨⟨hj, hr⟩, hc⟩, hp⟩ := h
  simp only [perform, waitRegisters, EStateM.run, bind, EStateM.bind, get, getThe, MonadStateOf.get, EStateM.get, pure, EStateM.pure, hj,
    hr, hc, hp, Bool.false_eq_true, if_false]

/-- An instruction that issues and stores nothing ends as its body ends. -/
theorem run_of_body (i : Instr) (body : M Flow) (s s' : State) (f : Flow) (h : s.issues i = true) (hs : (shapeOf i).stores = false)
    (hb : body s = .ok f s') : run i body s = .next (s'.advanced f) := by
  unfold run
  rw [perform_of_issues i body s h]
  simp only [countStore, EStateM.run, bind, EStateM.bind, pure, EStateM.pure, hs, Bool.false_eq_true, if_false, hb]
  rfl

/-- An instruction that issues and whose body stops is settled in the state it was issued in. -/
theorem run_of_stop (i : Instr) (body : M Flow) (s s' : State) (e : Stop) (h : s.issues i = true) (hs : (shapeOf i).stores = false)
    (hb : body s = .error e s') : run i body s = s.settle s.cur.core s.cur.slot (wordOf i) e := by
  unfold run
  rw [perform_of_issues i body s h]
  simp only [countStore, EStateM.run, bind, EStateM.bind, pure, EStateM.pure, hs, Bool.false_eq_true, if_false, hb]

/-- A cause of steps 3 and 4 of R331 is trapped, whatever the instruction's own effect. -/
theorem run_of_refusal (i : Instr) (body : M Flow) (s : State) (c : BitVec 8) (x : Word) (hj : mustJoin i s = false)
    (hr : refusal i s = some (c, x)) : run i body s = .next (s.takeTrap s.cur.core s.cur.slot c x) := by
  unfold run
  simp only [perform, EStateM.run, bind, EStateM.bind, get, getThe, MonadStateOf.get, EStateM.get, hj, hr,
    Bool.false_eq_true, if_false, trap, throw, throwThe, MonadExceptOf.throw, EStateM.throw]
  rfl

end Sys2Proof.Machine
end

