-- ==== Sys2Proof/Tests/Start.lean ====
section
/-!
SUPPORT. Small states for the tests, and how a computation's success is shown.
-/
namespace Sys2Proof.Tests
open Sys2Proof Sys2Proof.Machine

/-- Slot 0 of core 0 runs at H, where addresses are machine-physical. -/
def start : State := State.reset.setSlot 0 0 { Slot.powerOn with state := .run, priv := .h, pc := 0x100 }

/-- The same with general registers set. -/
def withX (l : List (BitVec 5 × Word)) (s : State := start) : State := s.modMe fun t => t.setXs l

/-- The same with an 8-byte word of memory set. -/
def withWord (a v : Nat) (s : State := start) : State := s.memWrite a 8 v

/-- A change to core 0. -/
def withCore (f : Core → Core) (s : State := start) : State := s.modCore 0 f

/-- Address `a` as H reaches it. -/
def physical (a : Nat) : Loc := { place := .mem a, tag := { tenant := hvTenant, line := BitVec.ofNat 33 (a / 128) }, home := BitVec.ofNat 8 (a / 2 ^ 29) }

/-- A computation succeeds and its value and state satisfy `k`. -/
def okThen {α : Type} (r : EStateM.Result Stop State α) (k : α → State → Bool) : Bool :=
  match r with
  | .ok a s => k a s
  | .error _ _ => false

theorem okThen_ex {α : Type} {r : EStateM.Result Stop State α} {k : α → State → Bool} (h : okThen r k = true) :
    ∃ a s, r = .ok a s ∧ k a s = true := by
  cases r with
  | ok a s => exact ⟨a, s, rfl, h⟩
  | error e s => cases h

/-- A computation stops, and its stop satisfies `k`. -/
def errThen {α : Type} (r : EStateM.Result Stop State α) (k : Stop → Bool) : Bool :=
  match r with
  | .ok _ _ => false
  | .error e _ => k e

theorem errThen_ex {α : Type} {r : EStateM.Result Stop State α} {k : Stop → Bool} (h : errThen r k = true) :
    ∃ e s, r = .error e s ∧ k e = true := by
  cases r with
  | ok a s => cases h
  | error e s => exact ⟨e, s, rfl, h⟩

/-- The same for a result without a state. -/
def gotThen {α : Type} (r : Except Stop α) (k : α → Bool) : Bool :=
  match r with
  | .ok a => k a
  | .error _ => false

theorem gotThen_ex {α : Type} {r : Except Stop α} {k : α → Bool} (h : gotThen r k = true) : ∃ a, r = .ok a ∧ k a = true := by
  cases r with
  | ok a => exact ⟨a, rfl, h⟩
  | error e => cases h

/-- The stop of a computation that fails. -/
def stopOf {α : Type} (r : Except Stop α) : Option Stop :=
  match r with
  | .ok _ => none
  | .error e => some e

theorem stop_ex {α : Type} {r : Except Stop α} {e : Stop} (h : stopOf r = some e) : r = .error e := by
  cases r with
  | ok a => cases h
  | error f => rw [Option.some_inj.mp h]

theorem ok_ex {ε α : Type} {r : Except ε α} {a : α} (h : r.toOption = some a) : r = .ok a := by
  cases r with
  | ok b => rw [Option.some_inj.mp h]
  | error e => cases h

theorem some_ex {α : Type} {r : Option α} (h : r.isSome = true) : ∃ a, r = some a := Option.isSome_iff_exists.mp h

end Sys2Proof.Tests
end

