-- ==== Sys2Proof/Tests/KeyStart.lean ====
section
/-!
SUPPORT. A small machine with a labelled and a sparse region, and the states that keyed forms leave on it.
-/
namespace Sys2Proof.Tests
open Sys2Proof Sys2Proof.Machine

/-! Memory is written out byte by byte (R33, R35, R36, R40, R41, R52, R64, R72, R234), which keeps the kernel's work short. -/

def ff (a : Nat) : List Host.Cell := [(a, 255), (a + 1, 255), (a + 2, 255), (a + 3, 255)]

/-- The second stage maps the first 32 MB onto itself. Object entry 1 is a labelled region with home comb 0, records of 32 bytes at
0x200000 and its index pool at 0x100000; entry 2 a sparse region of i32 whose shape is entry 3, with its index pool at 0x180000; entry 3
a shape of two dimensions, 5 by 8. The page table maps the first 64 GB onto itself. -/
def tables : List Host.Cell :=
  [(0, 7),
   (0x1040, 0x62), (0x105B, 0x06), (0x105C, 4), (0x1062, 0x14), (0x106A, 0x10), (0x1072, 0x21), (0x107A, 0x20),
   (0x1080, 0x62), (0x109B, 0x41), (0x109C, 4), (0x109E, 3), (0x10A2, 0x1C), (0x10AA, 0x18),
   (0x10C0, 0x41), (0x10EE, 0x60), (0x10EF, 4), (0x10F0, 4), (0x10F4, 7),
   (0x4000, 1), (0x4001, 0x80), (0x8000, 0xDF)]

/-- The index pool of an empty labelled region. -/
def treeEmpty : List Host.Cell :=
  [(0x10001D, 32), (0x100026, 32)] ++ ff 0x100038 ++ ff (0x10040D) ++ [(0x100412, 1)]

/-- The index pool of a labelled region of `n` nodes in one leaf: the root, then those listed. -/
def treePool (n : Byte) (l : List Host.Cell) : List Host.Cell :=
  [(0x10001D, 32), (0x10001F, n), (0x100024, 32 * n), (0x100026, 32), (0x100034, 1)] ++ ff 0x100038 ++ [(0x100400, n), (0x100408, n), (0x100412, 1)] ++
    [(0x108400, n), (0x108410, n)] ++ ff 0x10841C ++ [(0x108432, 32)] ++ l

/-- Two children of the root, with codes 0 and 1 of class 0. -/
def twoKids : List Host.Cell := [(0x108447, 0x80), (0x108448, 0x20), (0x10844A, 32), (0x10845F, 0x88), (0x108460, 0x40), (0x108462, 32)]
/-- The first with a child of its own. -/
def threeKids : List Host.Cell :=
  [(0x108447, 0x80), (0x108448, 0x20), (0x10844A, 32), (0x10845F, 0x84), (0x108460, 0x60), (0x108462, 32), (0x108477, 0x88), (0x108478, 0x40), (0x10847A, 32)]

/-- The index pool of an empty sparse region. -/
def sparseEmpty : List Host.Cell := ff 0x180038

/-- Slot 0 at S with a memory, b0 to b3 labels of the region's root, its two children and the first one's child. -/
def keyed (m : List Host.Cell) : State :=
  let s := start.modMe fun t => { ((((t.setL 0 (1#128 <<< 116)).setL 1 (1#128 <<< 116 ||| 0x80#128 <<< 96)).setL 2 (1#128 <<< 116 ||| 0x88#128 <<< 96)).setL 3
    (1#128 <<< 116 ||| 0x84#128 <<< 96)).setX 6 1 with priv := .s, xlroot := 0x4000, objbase := 0x1000, objlim := 3 }
  { s.modCore 0 fun q => { q with tlb := [{ tenant := 0, asid := 0, page := 0, bits := 36, pte := 0xDF }] } with mem := m }

/-- The index pool of a region whose root and second child lie in entry 0, and whose first child is the whole of entry 1. -/
def treeDetached : List Host.Cell :=
  [(0x10001D, 64), (0x10001F, 3), (0x100024, 0x60), (0x100026, 32), (0x100034, 2)] ++ ff 0x100038 ++ [(0x100400, 2), (0x100408, 2), (0x100412, 1)] ++
    [(0x100428, 1), (0x10042D, 1), (0x100432, 11), (0x10043F, 0x80)] ++ [(0x108400, 2), (0x108410, 2)] ++ ff 0x10841C ++
    [(0x108432, 32), (0x108447, 0x88), (0x108448, 0x40), (0x10844A, 32)] ++ [(0x108600, 1), (0x10861A, 0x40)] ++ ff 0x10861C ++
    [(0x108630, 0x20), (0x108632, 0x20)]

/-- The index pool of the sparse region with the value 5 at coordinates (1, 2), whose key is 001 010 from the top. -/
def sparseOne : List Host.Cell :=
  [(0x18001D, 32), (0x18001F, 1), (0x180034, 1)] ++ ff 0x180038 ++ [(0x180400, 1), (0x180408, 1), (0x180412, 1), (0x188400, 1)] ++ ff 0x18841C ++
    [(0x18842F, 0x28), (0x188430, 5)]

def regions : State := keyed (tables ++ treeEmpty ++ sparseEmpty)
def rooted : State := keyed (tables ++ treePool 1 [] ++ sparseEmpty)
def family : State := keyed (tables ++ treePool 3 twoKids ++ sparseEmpty)
def grown : State := keyed (tables ++ treePool 4 threeKids ++ sparseEmpty)
def detached : State := keyed (tables ++ treeDetached ++ sparseEmpty)
/-- Coordinates (1, 2) in x10, a value in x7, the key in b5, the whole range in b4 and b5 of scans. -/
def sparse : State := (withX [(10, 0x2_0000_0001), (7, 0xFFFFFFFFFFFFFFFF), (9, 0)] (keyed (tables ++ treeEmpty ++ sparseOne))).modMe fun t =>
  (t.setL 5 (0x28#128 <<< 120)).setL 4 0

end Sys2Proof.Tests
end

