-- ==== Sys2Proof/Tests/ChainWitness.lean ====
section
/-!
SUPPORT. Concrete states that meet the hypotheses of the statement about chains.
-/
set_option Elab.async false
set_option maxRecDepth 100000

namespace Sys2Proof.Tests
open Sys2Proof Sys2Proof.Machine

/-- Object 4: a chain of two stages at 0xD00 and 0xE00, its done word at 0x300000. -/
def chainCells : List Host.Cell := [(0x1100, 0x44), (0x110F, 0x40), (0x111A, 0x30), (0x1131, 0x0E), (0x1139, 0x0D)]

/-- The issuer at S on a partition of 8 cores; x7 names the object, x8 core 6, x9 both. -/
def chaining : State :=
  let s := withX [(7, 4), (8, 6), (9, 4 ||| 6 <<< 16)] (keyed ((tables.take 19) ++ chainCells ++ tables.drop 19))
  (s.modMe fun t => { t with objlim := 4 }).modCore 0 fun q => { q with plen := 8 }

theorem witness_Chains_go (h : Obligations.Chains) :
    (∃ t, exec (.chgo 7 8 .spread) chaining = .next t ∧ ∃ d ∈ t.agenda, d.event.args.core = 7) ∧
    ∃ t, exec (.chgo 7 8 .folded) chaining = .next t ∧ ∃ d ∈ t.agenda, d.event.args.core = 6 := by
  refine ⟨?_, ?_⟩
  · obtain ⟨e, s1, a, k⟩ := okThen_ex (r := useObject (.chgo 7 8 .spread) ((chaining.me.getX 7).extractLsb' 0 16) 4 chaining)
      (k := fun e s1 => s1 = chaining ∧ chainFormed e = true ∧ chainNst e = 1 ∧ chaining.spreadFits chaining.cur.core 6 (chainNst e) = true) (by decide +kernel)
    obtain ⟨rfl, k1, k2, k3⟩ := of_decide_eq_true k
    obtain ⟨t, b, _, _, _, _, _, c⟩ := h.1 chaining 7 8 .spread e (by decide +kernel) a k1 (by rw [if_pos rfl]; exact k3)
    obtain ⟨d, m, _, f, _⟩ := c 1 (by rw [if_pos rfl, k2] <;> exact Nat.le_refl 1)
    exact ⟨t, b, d, m, f.trans (by decide +kernel)⟩
  · obtain ⟨e, s1, a, k⟩ := okThen_ex (r := useObject (.chgo 7 8 .folded) ((chaining.me.getX 7).extractLsb' 0 16) 4 chaining)
      (k := fun e s1 => s1 = chaining ∧ chainFormed e = true) (by decide +kernel)
    obtain ⟨rfl, k1⟩ := of_decide_eq_true k
    obtain ⟨t, b, _, _, _, _, _, c⟩ := h.1 chaining 7 8 .folded e (by decide +kernel) a k1 (by rw [if_neg (by decide)]; decide +kernel)
    obtain ⟨d, m, _, f, _⟩ := c 0 (Nat.zero_le _)
    exact ⟨t, b, d, m, f.trans (by decide +kernel)⟩

def ref : ChainRef := { tenant := 0, index := 4, first := 0 }

/-- A stage with a status. -/
def stageOf (st : StageStatus) (c : CoreId) : Stage :=
  { freshStage 0xD00 0 0 1 with status := st, place := if st = .live then some (c, 0) else none }

/-- The chain with its two stages and the link between them. -/
def chain (f : ChainForm) (a b : StageStatus) (l : Link) : Chain :=
  { ref := ref, form := f, priv := .h, nst := 1, entry := #v[0xD00, 0xE00, 0, 0], done := 0x300, arg := 0,
    stages := #v[stageOf a 0, stageOf b 1, freshStage 0 0 2 1, freshStage 0 0 3 1],
    links := #v[l, emptyLink, emptyLink], folder := none, running := 1, switching := none }

/-- Slot 0 of core 0 is a stage of the chain. -/
def inChain (i : BitVec 2) (h : Chain) : State :=
  { (withX [(6, 9)]).modMe fun t => { t with stage := i, form := some h.form, chain := some ref } with chains := [h] }

/-- A stage-start message is the oldest work of core 0. -/
def startsAt (f : ChainForm) : State :=
  { inChain 0 (chain f .waiting .waiting emptyLink) with args := { core := 0 } }.modCore 0 fun q =>
    { q with inbox := [{ dest := 0, sender := 0, tenant := 0, cls := 0, origin := .slot, payload := #v[0, 0, 0, 0], body := .stage ref 1 }] }

theorem witness_Chains_start (h : Obligations.Chains) :
    (∃ t, exec .stageStart (startsAt .spread) = .next t ∧ (t.slot 0 1).state = .run ∧ (t.slot 0 1).stage = 1) ∧
    ∃ t, exec .stageStart (startsAt .folded) = .next t ∧ (t.core 0).foldBank = some ref := by
  refine ⟨?_, ?_⟩
  · obtain ⟨t, g, a, _, _, _, b, _⟩ := h.2.1 (startsAt .spread) _ 1 ref 1 (chain .spread .waiting .waiting emptyLink) (by decide +kernel)
      (show (startsAt .spread).oldestWork 0 = some { dest := 0, sender := 0, tenant := 0, cls := 0, origin := .slot, payload := #v[0, 0, 0, 0], body := .stage ref 1 }
        by decide +kernel) rfl (by decide +kernel)
    exact ⟨t, a, (b rfl).1, (b rfl).2.2.1⟩
  · obtain ⟨t, g, a, _, _, _, _, b⟩ := h.2.1 (startsAt .folded) _ 1 ref 1 (chain .folded .waiting .waiting emptyLink) (by decide +kernel)
      (show (startsAt .folded).oldestWork 0 = some { dest := 0, sender := 0, tenant := 0, cls := 0, origin := .slot, payload := #v[0, 0, 0, 0], body := .stage ref 1 }
        by decide +kernel) rfl (by decide +kernel)
    exact ⟨t, a, (b rfl).1⟩

/-- A link with words, and one closed. -/
def full (n : Nat) : Link := { emptyLink with words := (List.range n).map (BitVec.ofNat 64) }

theorem witness_Chains_pop (h : Obligations.Chains) :
    (∃ t, exec (.get 5 0xFFF) (inChain 1 (chain .spread .live .live (full 1))) = .next t ∧ t.me.getX 5 = 0) ∧
    (∃ t, exec (.vget 2 0xFFF) (inChain 1 (chain .spread .live .live (full 9))) = .next t ∧ (t.me.getV 2).extractLsb' 448 64 = 7) ∧
    (∃ t, exec (.vget 2 0xFFF) (inChain 1 (chain .spread .live .live { full 7 with closed := true })) = .next t ∧ t.me.pc = 0xFC) ∧
    ∃ t, exec (.get 5 0xFFF) (inChain 1 (chain .spread .live .live emptyLink)) = .next t ∧ t.me.state = .engwait := by
  refine ⟨?_, ?_, ?_, ?_⟩
  · obtain ⟨t, g, a, _, _, _, b, _⟩ := (h.2.2.1 (inChain 1 (chain .spread .live .live (full 1))) ref (chain .spread .live .live (full 1)) 5 0 0xFFF _ _ [0] [] (.head _)
      (by decide +kernel) rfl rfl (by decide +kernel) (by decide +kernel) (by decide +kernel)).1 (by decide +kernel) rfl
    exact ⟨t, a, (b rfl).1⟩
  · obtain ⟨t, g, a, _, _, _, _, b⟩ := (h.2.2.1 (inChain 1 (chain .spread .live .live (full 9))) ref (chain .spread .live .live (full 9)) 5 2 0xFFF (.vget 2 0xFFF) _
      [0, 1, 2, 3, 4, 5, 6, 7] [8] (.tail _ (.head _)) (by decide +kernel) rfl rfl (by decide +kernel) (by decide +kernel) (by decide +kernel)).1 (by decide +kernel) rfl
    exact ⟨t, a, Option.some_inj.mp ((b rfl).1 7 (by decide))⟩
  · exact ⟨_, (h.2.2.1 (inChain 1 (chain .spread .live .live { full 7 with closed := true })) ref (chain .spread .live .live { full 7 with closed := true }) 5 2 0xFFF
      (.vget 2 0xFFF) _ [] [] (.tail _ (.head _)) (by decide +kernel) rfl rfl (by decide +kernel) (by decide +kernel) (by decide +kernel)).2.1 (by decide +kernel)
      (by decide +kernel), by decide +kernel⟩
  · exact ⟨_, (h.2.2.1 (inChain 1 (chain .spread .live .live emptyLink)) ref (chain .spread .live .live emptyLink) 5 2 0xFFF
      (.get 5 0xFFF) _ [] [] (.head _) (by decide +kernel) rfl rfl (by decide +kernel) (by decide +kernel) (by decide +kernel)).2.2 (by decide +kernel)
      (by decide +kernel) rfl, by decide +kernel⟩

theorem witness_Chains_push (h : Obligations.Chains) :
    (∃ t g, exec (.put 6) (inChain 0 (chain .spread .live .live (full 15))) = .next t ∧ t.findChain ref = some g ∧ (g.link 0).transit = [9]) ∧
    (∃ t g, exec (.vput 6) (inChain 0 (chain .folded .live .live (full 8))) = .next t ∧ t.findChain ref = some g ∧ (g.link 0).words.length = 16) ∧
    exec (.put 6) (inChain 0 (chain .spread .live .ended emptyLink)) = .next ((inChain 0 (chain .spread .live .ended emptyLink)).past 4) := by
  refine ⟨?_, ?_, ?_⟩
  · obtain ⟨t, g, a, b, _, _, _, c, _⟩ := (h.2.2.2.1 (inChain 0 (chain .spread .live .live (full 15))) ref (chain .spread .live .live (full 15)) 6 0 _ _ (.head _)
      (by decide +kernel) rfl rfl (by decide +kernel) (by decide +kernel) (by decide +kernel) (by decide +kernel)).2 (by decide +kernel) (by decide +kernel)
    exact ⟨t, g, a, b, (c rfl).2.trans (by decide +kernel)⟩
  · obtain ⟨t, g, a, b, _, _, _, _, c⟩ := (h.2.2.2.1 (inChain 0 (chain .folded .live .live (full 8))) ref (chain .folded .live .live (full 8)) 6 6 (.vput 6) _
      (.tail _ (.head _)) (by decide +kernel) rfl rfl (by decide +kernel) (by decide +kernel) (by decide +kernel) (by decide +kernel)).2 (by decide +kernel)
      (by decide +kernel)
    exact ⟨t, g, a, b, (congrArg List.length (c rfl)).trans (by decide +kernel)⟩
  · exact (h.2.2.2.1 (inChain 0 (chain .spread .live .ended emptyLink)) ref (chain .spread .live .ended emptyLink) 6 0 _ _ (.head _)
      (by decide +kernel) rfl rfl (by decide +kernel) (by decide +kernel) (by decide +kernel) (by decide +kernel)).1 (by decide +kernel)

/-- An arrival on link 0. -/
def arrives (l : Link) : State := { inChain 1 (chain .spread .live .live l) with args := { chain := ref, link := 0 } }

theorem witness_Chains_arrival (h : Obligations.Chains) :
    (∃ t g, exec .neighbourQueueArrival (arrives { emptyLink with transit := [8, 9] }) = .next t ∧ t.findChain ref = some g ∧ (g.link 0).words = [8]) ∧
    ∃ t g, exec .neighbourQueueArrival (arrives { emptyLink with closing := true }) = .next t ∧ t.findChain ref = some g ∧ (g.link 0).closed = true := by
  refine ⟨?_, ?_⟩
  · obtain ⟨t, g, a, b, c, _⟩ := (h.2.2.2.2.1 (arrives { emptyLink with transit := [8, 9] }) (chain .spread .live .live { emptyLink with transit := [8, 9] }) 8 [9]
      (by decide +kernel)).1 (by decide +kernel)
    exact ⟨t, g, a, b, c⟩
  · exact (h.2.2.2.2.1 (arrives { emptyLink with closing := true }) (chain .spread .live .live { emptyLink with closing := true }) 8 [9]
      (by decide +kernel)).2 (by decide +kernel) (by decide +kernel)

theorem witness_Chains_end (h : Obligations.Chains) :
    (∃ t, exec .chend (inChain 1 (chain .spread .live .live (full 3))) = .next t ∧ t.me.state = .idle ∧ t.me.inc = 1) ∧
    ∃ t, exec .chend (inChain 1 (chain .spread .ended .live emptyLink)) = .next t ∧ t.readLoc (.mem 0x300) 8 = 1 ∧ t.isFull (.mem 0x300) = true := by
  refine ⟨?_, ?_⟩
  · obtain ⟨t, g, a, b, c, _⟩ := (h.2.2.2.2.2.1 (inChain 1 (chain .spread .live .live (full 3))) ref (chain .spread .live .live (full 3)) (physical 0x300)
      (by decide +kernel) rfl rfl (by decide +kernel) (by decide +kernel) (by decide +kernel)).1 (by decide +kernel) rfl
    exact ⟨t, a, b, c.trans (by decide +kernel)⟩
  · obtain ⟨t, a, _, _, b, c⟩ := (h.2.2.2.2.2.1 (inChain 1 (chain .spread .ended .live emptyLink)) ref (chain .spread .ended .live emptyLink) (physical 0x300)
      (by decide +kernel) rfl rfl (by decide +kernel) (by decide +kernel) (by decide +kernel)).2 (by decide +kernel) (by decide +kernel) rfl (by decide +kernel)
      (fun _ m => nomatch m)
    exact ⟨t, a, b, c⟩

/-- The issuer beside its chain, in spread form from core 6. -/
def switching (f : ChainForm) : State :=
  { chaining with chains := [{ chain f .live .live emptyLink with ref := { tenant := 0, index := 4, first := 6 } }] }

theorem witness_Chains_switch (h : Obligations.Chains) :
    (∃ t, exec (.chsw 9 .folded) (switching .spread) = .next t ∧ t.me.state = .engwait) ∧
    (∃ t, exec (.chsw 9 .spread) (switching .folded) = .next t ∧ t.me.state = .engwait) ∧
    exec (.chsw 9 .spread) (switching .spread) = .next ((switching .spread).past 4) := by
  refine ⟨?_, ?_, ?_⟩
  · obtain ⟨e, s1, a, k⟩ := okThen_ex (r := useObject (.chsw 9 .folded) (((switching .spread).me.getX 9).extractLsb' 0 16) 4 (switching .spread))
      (k := fun _ s1 => s1 = switching .spread) (by decide +kernel)
    obtain rfl := of_decide_eq_true k
    obtain ⟨t, g, b, c, _⟩ := (h.2.2.2.2.2.2.1 (switching .spread) 9 .folded e { chain .spread .live .live emptyLink with ref := { tenant := 0, index := 4, first := 6 } }
      (by decide +kernel) (by decide +kernel) a (by decide +kernel) rfl).2 (by decide) (by decide)
    exact ⟨t, b, by rw [c]; rfl⟩
  · obtain ⟨e, s1, a, k⟩ := okThen_ex (r := useObject (.chsw 9 .spread) (((switching .folded).me.getX 9).extractLsb' 0 16) 4 (switching .folded))
      (k := fun _ s1 => s1 = switching .folded) (by decide +kernel)
    obtain rfl := of_decide_eq_true k
    obtain ⟨t, g, b, c, _⟩ := (h.2.2.2.2.2.2.1 (switching .folded) 9 .spread e { chain .folded .live .live emptyLink with ref := { tenant := 0, index := 4, first := 6 } }
      (by decide +kernel) (by decide +kernel) a (by decide +kernel) rfl).2 (by decide) (fun _ => by decide +kernel)
    exact ⟨t, b, by rw [c]; rfl⟩
  · obtain ⟨e, s1, a, k⟩ := okThen_ex (r := useObject (.chsw 9 .spread) (((switching .spread).me.getX 9).extractLsb' 0 16) 4 (switching .spread))
      (k := fun _ s1 => s1 = switching .spread) (by decide +kernel)
    obtain rfl := of_decide_eq_true k
    exact (h.2.2.2.2.2.2.1 (switching .spread) 9 .spread e { chain .spread .live .live emptyLink with ref := { tenant := 0, index := 4, first := 6 } }
      (by decide +kernel) (by decide +kernel) a (by decide +kernel) rfl).1 rfl

/-- The chain switches to folded form for slot 5 of core 0; its stop message stands at stage `n`, a live stage at a `put`. -/
def stopping (n : Nat) (a : StageStatus) : State :=
  let h := { chain .spread a .ended emptyLink with switching := some (.folded, 0, 5, n) }
  { ((inChain 0 h).memWrite 0x100 4 (wordOf (.put 6)).toNat) with chains := [h], args := { chain := ref } }

theorem witness_Chains_stop (h : Obligations.Chains) :
    (∃ t g, exec .chainStopMessage (stopping 0 .live) = .next t ∧ t.findChain ref = some g ∧ (g.stage 0).halted = true) ∧
    ∃ t g, exec .chainStopMessage (stopping 1 .live) = .next t ∧ t.findChain ref = some g ∧ g.form = .folded := by
  refine ⟨?_, ?_⟩
  · obtain ⟨p, q⟩ := some_ex (show ((stopping 0 .live).stagePoint { chain .spread .live .ended emptyLink with switching := some (.folded, 0, 5, 0) } 0).isSome
      by decide +kernel)
    obtain ⟨t, g, a, b, c, _⟩ := (h.2.2.2.2.2.2.2 (stopping 0 .live) { chain .spread .live .ended emptyLink with switching := some (.folded, 0, 5, 0) } .folded 0 5 0 0 p
      (by decide +kernel) rfl).1 (by decide +kernel) q
    exact ⟨t, g, a, b, c⟩
  · obtain ⟨t, g, a, b, c, _⟩ := (h.2.2.2.2.2.2.2 (stopping 1 .live) { chain .spread .live .ended emptyLink with switching := some (.folded, 0, 5, 1) } .folded 0 5 1 0
      none (by decide +kernel) rfl).2 (by decide +kernel) (by decide +kernel)
    exact ⟨t, g, a, b, c⟩

end Sys2Proof.Tests
end

