-- ==== Sys2Proof/Tests/CoherenceWitness.lean ====
section
/-!
SUPPORT. Concrete states that meet the hypotheses of the statements about coherence and dead cores.
-/
set_option Elab.async false
set_option maxRecDepth 100000

namespace Sys2Proof.Tests
open Sys2Proof Sys2Proof.Machine

def tag0 : LineTag := { tenant := 0, line := 4 }

/-- A directory entry for the line, quiet. -/
def entry (st : DirState) (owner : Option (CoreId × BitVec 4)) : DirEntry :=
  { tag := tag0, home := 0, state := st, owner := owner, sharers := 0, serving := none, owed := [], owedCombs := [], foundOwner := none, lost := [],
    queue := [], since := 0 }

/-- The package with that entry, and an event of core 5 about the line. -/
def homeOf5 (d : DirEntry) (a : EventArgs := { core := 5, tag := tag0 }) : State := { start with dir := [d], args := a }

/-- Core 5 holds the line. -/
def holds5 (st : LineState) (a : EventArgs) : State :=
  { start.modCore 5 fun q => { q with lines := [{ tag := tag0, home := 0, state := st, sectors := 15 }] } with args := a }

theorem witness_CoherenceFrame (h : Obligations.CoherenceFrame) :
    (∃ t, exec .grant (holds5 .m { core := 5, tag := tag0 }) = .next t) ∧
    (∃ t, exec .rds (homeOf5 (entry .u none) { core := 5, tag := tag0, inc := 15 }) = .next t ∧ t.controller.discarded = 1) ∧
    (∃ t, exec .ownerAnswer (homeOf5 (entry .u none) { core := 5, tag := tag0, inc := 15 }) = .next t ∧ t.controller.discarded = 1) ∧
    exec .invalidation (holds5 .s { core := 5, tag := tag0, inc := 15 }) = .next (holds5 .s { core := 5, tag := tag0, inc := 15 }) := by
  refine ⟨?_, ?_, ?_, ?_⟩
  · exact (h (holds5 .m { core := 5, tag := tag0 }) .grant (by decide +kernel)).imp fun _ q => q.1
  · obtain ⟨t, a, _, _, _, b⟩ := h (homeOf5 (entry .u none) { core := 5, tag := tag0, inc := 15 }) .rds (.head _)
    exact ⟨t, a, by rw [(b (by decide +kernel)).1 (.head _)]; rfl⟩
  · obtain ⟨t, a, _, _, _, b⟩ := h (homeOf5 (entry .u none) { core := 5, tag := tag0, inc := 15 }) .ownerAnswer (by decide +kernel)
    exact ⟨t, a, by rw [(b (by decide +kernel)).2.1 (.head _)]; rfl⟩
  · obtain ⟨t, a, _, _, _, b⟩ := h (holds5 .s { core := 5, tag := tag0, inc := 15 }) .invalidation (by decide +kernel)
    rw [a, (b (by decide +kernel)).2.2 (.head _)]

theorem witness_CoherenceEffects_request (h : Obligations.CoherenceEffects) :
    (∃ t e, exec .rds (homeOf5 (entry .x (some (7, 0)))) = .next t ∧ t.findDir tag0 0 = some e ∧ e.state = .fwd) ∧
    (∃ t, exec .rdx (homeOf5 (entry .u none)) = .next t ∧ ∃ m ∈ t.agenda, m.event.kind = .grant ∧ m.event.args.st = .m) ∧
    (∃ t e, exec .wb (homeOf5 (entry .x (some (5, 0)))) = .next t ∧ t.findDir tag0 0 = some e ∧ e.owner = none) ∧
    ∃ t, exec .directoryDrop (homeOf5 (entry .x (some (5, 0)))) = .next t ∧ t.dir = [] := by
  refine ⟨?_, ?_, ?_, ?_⟩
  · obtain ⟨t, e, a, b, c, _⟩ := ((h (homeOf5 (entry .x (some (7, 0)))) (entry .x (some (7, 0))) ⟨0, 0, .read⟩ 7 0 ⟨tag0, 0, .m, 15⟩).1 (by decide +kernel)
      (by decide +kernel) (by decide +kernel)).1 .rds (.head _) rfl rfl (by decide +kernel) (by decide +kernel)
    exact ⟨t, e, a, b, c⟩
  · obtain ⟨t, a, _, m, b, c, _, _, d⟩ := ((h (homeOf5 (entry .u none)) (entry .u none) ⟨0, 0, .read⟩ 7 0 ⟨tag0, 0, .m, 15⟩).1 (by decide +kernel)
      (by decide +kernel) (by decide +kernel)).2.1 .rdx (.tail _ (.head _)) rfl rfl rfl
    exact ⟨t, a, m, b, c, d.trans (if_neg (by decide +kernel))⟩
  · obtain ⟨t, e, a, b, c, _⟩ := ((h (homeOf5 (entry .x (some (5, 0)))) (entry .x (some (5, 0))) ⟨0, 0, .read⟩ 7 0 ⟨tag0, 0, .m, 15⟩).1 (by decide +kernel)
      (by decide +kernel) (by decide +kernel)).2.2.1 rfl rfl
    exact ⟨t, e, a, b, c⟩
  · obtain ⟨t, a, b⟩ := ((h (homeOf5 (entry .x (some (5, 0)))) (entry .x (some (5, 0))) ⟨0, 0, .read⟩ 7 0 ⟨tag0, 0, .m, 15⟩).1 (by decide +kernel)
      (by decide +kernel) (by decide +kernel)).2.2.2 rfl
    exact ⟨t, a, by rw [b]; decide +kernel⟩

/-- Entries that serve a write of core 9. -/
def serving (st : DirState) : DirEntry :=
  { entry st (if st = .fwd then some (5, 0) else none) with
    serving := some ⟨9, 0, .write⟩
    owed := if st = .inv then [5] else []
    owedCombs := if st = .dsc then [0] else [] }

theorem witness_CoherenceEffects_answer (h : Obligations.CoherenceEffects) :
    (∃ t, exec .ownerAnswer (homeOf5 (serving .fwd) { core := 5, tag := tag0, reply := .gaveUp }) = .next t ∧ ∃ e, t.findDir tag0 0 = some e ∧ e.owner = some (9, 0)) ∧
    (∃ t, exec .invalidationAck (homeOf5 (serving .inv)) = .next t ∧ ∃ e, t.findDir tag0 0 = some e ∧ e.owner = some (9, 0)) ∧
    ∃ t, exec .discoveryAnswer (homeOf5 (serving .dsc)) = .next t ∧ ∃ e, t.findDir tag0 0 = some e ∧ e.owner = some (9, 0) := by
  refine ⟨?_, ?_, ?_⟩
  · obtain ⟨t, a, e, b, _, c, _⟩ := ((h (homeOf5 (serving .fwd) { core := 5, tag := tag0, reply := .gaveUp }) (serving .fwd) ⟨9, 0, .write⟩ 7 0 ⟨tag0, 0, .m, 15⟩).2.1
      (by decide +kernel) (by decide +kernel) rfl rfl).1 rfl rfl rfl
    exact ⟨t, a, e, b, c⟩
  · obtain ⟨t, a, e, b, _, c, _⟩ := ((h (homeOf5 (serving .inv)) (serving .inv) ⟨9, 0, .write⟩ 7 0 ⟨tag0, 0, .m, 15⟩).2.1
      (by decide +kernel) (by decide +kernel) rfl rfl).2.1 rfl rfl rfl (by decide)
    exact ⟨t, a, e, b, c⟩
  · obtain ⟨t, a, e, b, _, c, _⟩ := ((h (homeOf5 (serving .dsc)) (serving .dsc) ⟨9, 0, .write⟩ 7 0 ⟨tag0, 0, .m, 15⟩).2.1
      (by decide +kernel) (by decide +kernel) rfl rfl).2.2 rfl rfl rfl rfl rfl rfl
    exact ⟨t, a, e, b, c⟩

theorem witness_CoherenceEffects_line (h : Obligations.CoherenceEffects) :
    (∃ t, exec .forward (holds5 .m { core := 5, tag := tag0 }) = .next t ∧ (t.core 5).findLine tag0 = some ⟨tag0, 0, .o, 15⟩) ∧
    (∃ t, exec .forward (holds5 .e { core := 5, tag := tag0 }) = .next t ∧ (t.core 5).findLine tag0 = some ⟨tag0, 0, .s, 15⟩) ∧
    (∃ t, exec .forward (holds5 .o { core := 5, tag := tag0, flag := true }) = .next t ∧ (t.core 5).findLine tag0 = none) ∧
    (∃ t, exec .invalidation (holds5 .s { core := 5, tag := tag0 }) = .next t ∧ (t.core 5).findLine tag0 = none) ∧
    (∃ t e, exec .grant (holds5 .s { core := 5, tag := tag0, st := .m }) = .next t ∧ (t.core 5).findLine tag0 = some e ∧ e.state = .m) ∧
    ∃ t, exec .lineEviction (holds5 .m { core := 5, tag := tag0 }) = .next t ∧ (t.core 5).findLine tag0 = none ∧ t.agenda.length = start.agenda.length + 1 := by
  refine ⟨?_, ?_, ?_, ?_, ?_, ?_⟩
  · obtain ⟨t, a, b, _⟩ := (h (holds5 .m { core := 5, tag := tag0 }) (entry .u none) ⟨9, 0, .write⟩ 7 0 ⟨tag0, 0, .m, 15⟩).2.2.1 (by decide +kernel) rfl (by decide) rfl
    exact ⟨t, a, b rfl (.head _)⟩
  · obtain ⟨t, a, _, b, _⟩ := (h (holds5 .e { core := 5, tag := tag0 }) (entry .u none) ⟨9, 0, .write⟩ 7 0 ⟨tag0, 0, .e, 15⟩).2.2.1 (by decide +kernel) rfl (by decide) rfl
    exact ⟨t, a, b rfl rfl⟩
  · obtain ⟨t, a, _, _, b⟩ := (h (holds5 .o { core := 5, tag := tag0, flag := true }) (entry .u none) ⟨9, 0, .write⟩ 7 0 ⟨tag0, 0, .o, 15⟩).2.2.1 (by decide +kernel) rfl
      (by decide) rfl
    exact ⟨t, a, b rfl (.tail _ (.head _))⟩
  · obtain ⟨t, a, b, _⟩ := (h (holds5 .s { core := 5, tag := tag0 }) (entry .u none) ⟨9, 0, .write⟩ 7 0 ⟨tag0, 0, .s, 15⟩).2.2.2.1 (by decide +kernel) rfl
    exact ⟨t, a, b⟩
  · obtain ⟨t, e, a, b, c⟩ := (h (holds5 .s { core := 5, tag := tag0, st := .m }) (entry .u none) ⟨9, 0, .write⟩ 7 0 ⟨tag0, 0, .s, 15⟩).2.2.2.2.1 (by decide +kernel) rfl
    exact ⟨t, e, a, b, c⟩
  · obtain ⟨t, a, b, c⟩ := (h (holds5 .m { core := 5, tag := tag0 }) (entry .u none) ⟨9, 0, .write⟩ 7 0 ⟨tag0, 0, .m, 15⟩).2.2.2.2.2.2.1 (by decide +kernel)
      (fun _ m => nomatch m)
    exact ⟨t, a, b, c.trans (by decide +kernel)⟩

theorem witness_CoherenceEffects_rest (h : Obligations.CoherenceEffects) :
    exec .discoveryProbe (holds5 .s { comb := 0, tag := tag0 }) = .next ((holds5 .s { comb := 0, tag := tag0 }).post .discoveryAnswer { tag := tag0 }) ∧
    (∃ t, exec .powerGate (holds5 .s { core := 5 }) = .next t ∧ (t.core 5).power = .gated) ∧
    ∃ t, exec .powerUpComplete (holds5 .s { core := 5 }) = .next t ∧ (t.core 5).power = .on := by
  refine ⟨?_, ?_, ?_⟩
  · have k : ∀ c ∈ coresOfComb 0, ((holds5 .s { comb := 0, tag := tag0 }).core c).findLine tag0 ∈ [none, some ⟨tag0, 0, .s, 15⟩] := by decide +kernel
    exact (h (holds5 .s { comb := 0, tag := tag0 }) (entry .u none) ⟨9, 0, .write⟩ 7 0 ⟨tag0, 0, .s, 15⟩).2.2.2.2.2.1 fun c m e q => by
      have := k c m
      rw [show ((holds5 .s { comb := 0, tag := tag0 }).core c).findLine tag0 = some e from q] at this
      simp at this
      exact .inl (by rw [this])
  · obtain ⟨t, a, b, _⟩ := (h (holds5 .s { core := 5 }) (entry .u none) ⟨9, 0, .write⟩ 7 0 ⟨tag0, 0, .s, 15⟩).2.2.2.2.2.2.2.1 (by decide +kernel) (by decide +kernel)
      (by decide +kernel) (by decide +kernel) (by decide +kernel) (by decide +kernel)
    exact ⟨t, a, b⟩
  · obtain ⟨t, a, b, _⟩ := (h (holds5 .s { core := 5 }) (entry .u none) ⟨9, 0, .write⟩ 7 0 ⟨tag0, 0, .s, 15⟩).2.2.2.2.2.2.2.2
    exact ⟨t, a, b⟩

/-- A dead-core record waits, for core 5's partition. -/
def recordWaits (s : State) : State := { s with controller := { s.controller with deadRecords := [(5, 0x1234, [])], discarded := 3 }, args := { core := 5 } }

/-- Core 5 holds a line of the hypervisor, at 0x200. -/
def holdsPhysical (a : EventArgs) : State :=
  { start.modCore 5 fun q => { q with lines := [{ tag := { tenant := hvTenant, line := 4 }, home := 0, state := .m, sectors := 15 }] } with args := a }

theorem witness_DeadCores (h : Obligations.DeadCores) :
    (∃ t, exec .coreDeclaredDead (holdsPhysical { core := 5, num := 1 }) = .next t ∧ (t.core 5).dead = true ∧ (t.core 5).inc4 = 1 ∧
      t.isBad (.mem 0x278) = true) ∧
    (∃ t, exec .coreDeclaredDead (holds5 .m { core := 5 }) = .next t ∧ t.controller.corrected = 1) ∧
    (∃ t, exec .answerTimeout (homeOf5 (serving .inv) { core := 9, tag := tag0, num := 0 }) = .next t ∧ (t.core 5).dead = true) ∧
    exec .deadCoreRecord (recordWaits start) = .next (recordWaits start) ∧
    ∃ t, exec .deadCoreRecord (recordWaits (start.memSetFull (deadArea 0) false)) = .next t ∧ t.memRead (deadArea 0) 8 = 0x1234 := by
  refine ⟨?_, ?_, ?_, ?_, ?_⟩
  · obtain ⟨t, a, b, c, _, _, _, _, _, d, _⟩ := (h.1 (holdsPhysical { core := 5, num := 1 })).2 (by decide +kernel) (by decide) (by decide)
    exact ⟨t, a, b, c.trans (by decide +kernel), d { tenant := hvTenant, line := 4 } (by decide +kernel) 0x200 (by decide +kernel) 15 (by decide)⟩
  · obtain ⟨t, a, b, _⟩ := (h.1 (holds5 .m { core := 5 })).1 rfl
    exact ⟨t, a, b⟩
  · exact h.2.1 (homeOf5 (serving .inv) { core := 9, tag := tag0, num := 0 }) (serving .inv) 5 (by decide +kernel) rfl rfl rfl
  · exact (h.2.2 (recordWaits start) 5 0x1234 [] [] rfl).1 (by decide +kernel)
  · obtain ⟨t, a, _, _, b, _⟩ := (h.2.2 (recordWaits (start.memSetFull (deadArea 0) false)) 5 0x1234 [] [] rfl).2 (by decide +kernel) (fun _ m => nomatch m)
    exact ⟨t, a, b⟩

end Sys2Proof.Tests
end

