-- ==== Sys2Proof/Tests/DecodeTests.lean ====
section
/-!
SUPPORT. Decoding, word by word. Each word is written from its row of spec/opcode_table.json, the fields at the places the row gives
them and the codes from R114, R115, R117, R119, R120, R21 and R126; the operands of a row differ from one another, so that a field
taken for another shows. The words of the spec's own worked encodings stand at the end.
-/
set_option Elab.async false
set_option maxRecDepth 100000

namespace Sys2Proof.Tests
open Sys2Proof Sys2Proof.Machine

/-- Each word decodes to the instruction beside it. -/
def decodesTo (l : List (BitVec 32 × Instr)) : Bool := l.all fun p => (decode p.1).toOption = some p.2

/-- Each word is no instruction, for the reason beside it (R335). -/
def refusedFor (l : List (BitVec 32 × DecodeError)) : Bool :=
  l.all fun p => match decode p.1 with | .error e => e = p.2 | .ok _ => false

theorem test_decode_loads : decodesTo
    [(0x03E11A54, .lb 30 17 0xA54), (0x03D32A55, .lh 29 18 0xA55), (0x03C53A56, .lw 28 19 0xA56), (0x03B74A57, .ld 27 20 0xA57),
     (0x03A90A58, .lbz 26 16 0xA58), (0x039B1A59, .lhz 25 17 0xA59), (0x03FD2A5A, .lwz 31 18 0xA5A),
     (0x03EF3A5B, .ldAq 30 19 0xA5B)] = true := by decide +kernel

theorem test_decode_stores : decodesTo
    [(0x053144AE, .sb 0x9ae 20 9), (0x0533052F, .sh 0x9af 16 10), (0x053515B0, .sw 0x9b0 17 11), (0x053724B1, .sd 0x9b1 18 9),
     (0x053F3532, .sdRl 0x9b2 19 10)] = true := by decide +kernel

theorem test_decode_immediates : decodesTo
    [(0x07F14A61, .addi 31 20 0xA61), (0x07E3002F, .slli 30 16 47), (0x07D31800, .clz 29 17), (0x07C32801, .ctz 28 18), (0x07B33802, .popc 27 19),
     (0x07A34803, .sextw 26 20), (0x07930804, .zextw 25 16), (0x07F31805, .rev8 31 17), (0x07E52A69, .slti 30 18 0xA69),
     (0x07D73A6A, .sltni 29 19 0xA6A), (0x07C94A6B, .xori 28 20 0xA6B), (0x07BB0039, .srli 27 16 57), (0x07AB143A, .srai 26 17 58),
     (0x079D2A6E, .ori 25 18 0xA6E), (0x07FF3A6F, .andi 31 19 0xA6F)] = true := by decide +kernel

theorem test_decode_registers : decodesTo
    [(0x09E14580, .add 30 20 11), (0x09D30480, .sll 29 16 9), (0x09C51500, .slt 28 17 10), (0x09B72580, .sltn 27 18 11), (0x09A93480, .xor 26 19 9),
     (0x099B4500, .srl 25 20 10), (0x09FD0580, .or 31 16 11), (0x09EF1480, .and 30 17 9), (0x09D12520, .sub 29 18 10), (0x09CB35A0, .sra 28 19 11),
     (0x09BD44A0, .orn 27 20 9), (0x09AF0520, .andn 26 16 10), (0x09991585, .min 25 17 11), (0x09FB2485, .max 31 18 9),
     (0x09ED3505, .minn 30 19 10), (0x09DF4585, .maxn 29 20 11)] = true := by decide +kernel

theorem test_decode_multiplies : decodesTo
    [(0x0BC10480, .mul 28 16 9), (0x0BB31500, .mulh 27 17 10), (0x0BA52580, .mulhn 26 18 11), (0x0B993480, .div 25 19 9),
     (0x0BFB4500, .divn 31 20 10), (0x0BED0580, .rem 30 16 11), (0x0BDF1480, .remn 29 17 9)] = true := by decide +kernel

theorem test_decode_jumps : decodesTo
    [(0x0DC9A565, .lhi 28 0x9A565), (0x0FB9A566, .apc 27 0x9A566), (0x11A9A567, .jal 26 0x9A567), (0x13910A8A, .jalr 25 16 0xA8A),
     (0x153115DD, .beq 0x9dd 17 11), (0x153324DE, .bne 0x9de 18 9), (0x1539355F, .blt 0x9df 19 10), (0x153B45E0, .bge 0x9e0 20 11),
     (0x153D04E1, .bltn 0x9e1 16 9), (0x153F1562, .bgen 0x9e2 17 10)] = true := by decide +kernel

theorem test_decode_fences : decodesTo
    [(0x16000002, .fence .comb), (0x16020003, .fenceK .die)] = true := by decide +kernel

theorem test_decode_atomics : decodesTo
    [(0x19E94500, .amoswap 30 .pkg 20 10 .rlx), (0x19DB058A, .amoadd 29 .sys 16 11 .acq), (0x19C11494, .amoand 28 .slot 17 9 .rel),
     (0x19B3251E, .amoor 27 .core 18 10 .ar), (0x19A535A0, .amoxor 26 .comb 19 11 .rlx), (0x199744AA, .amomin 25 .die 20 9 .acq),
     (0x19F90534, .amomax 31 .pkg 16 10 .rel), (0x19EB15BE, .amominn 30 .sys 17 11 .ar), (0x19D124C0, .amomaxn 29 .slot 18 9 .rlx),
     (0x19C3354A, .amocas 28 .core 19 10 .acq)] = true := by decide +kernel

theorem test_decode_full_empty : decodesTo
    [(0x1BB14A9D, .ldfe 27 20 0xA9D), (0x1BA30A9E, .ldff 26 16 0xA9E), (0x1B951A9F, .ldfx 25 17 0xA9F), (0x1B3725F2, .sdef 0x9f2 18 11),
     (0x1B3934F3, .sdff 0x9f3 19 9), (0x1A0B4AA2, .fempty 20 0xAA2), (0x1BCD0AA3, .fstate 28 16 0xAA3)] = true := by decide +kernel

theorem test_decode_vector_memory : decodesTo
    [(0x20B11001, .vld 11 17 .i8 1), (0x20A32A8A, .vlds 10 18 21 .z8 2), (0x209536A3, .vldx 9 19 13 .i32 3), (0x22F1402C, .vst 15 20 .z32 4),
     (0x22E30AB5, .vsts 14 16 21 .f32 5), (0x22D5173E, .vstx 13 17 14 .bf16 6)] = true := by decide +kernel

theorem test_decode_vector_arithmetic : decodesTo
    [(0x24C0B6C7, .vadd 12 11 13 .i64 7), (0x24B2C6C9, .vsub 11 12 13 .z64 1), (0x24A4D751, .vmul 10 13 14 .f64 1),
     (0x2496E602, .vdiv 9 14 12 .i8 2), (0x24F8868B, .vmin 15 8 13 .z8 3), (0x24EA97A4, .vmax 14 9 15 .i32 4), (0x24DCA62D, .vfma 13 10 12 .z32 5),
     (0x24CEB6B6, .vfms 12 11 13 .f32 6)] = true := by decide +kernel

theorem test_decode_vector_misc : decodesTo
    [(0x26B0C73F, .vand 11 12 14 .bf16 7), (0x27A0D641, .vor 10 13 12 .i64 1), (0x2690EEC9, .vxor 9 14 13 .z64 1),
     (0x26F28722, .vshl 15 8 14 .i32 2), (0x27E2962B, .vshr 14 9 12 .z32 3), (0x26D2AF44, .vsra 13 10 14 .i64 4),
     (0x2754B726, .vcmp .lt 5 11 14 .i32 6), (0x26B6C6AE, .vsel 11 12 13 .z32 6), (0x26A8D737, .vperm 10 13 14 .f32 7),
     (0x269AEB39, .vslide 9 14 22 .bf16 1)] = true := by decide +kernel

theorem test_decode_vector_unary : decodesTo
    [(0x26FC8041, .vabs 15 8 .i64 1), (0x26EC90CA, .vneg 14 9 .z64 2), (0x26DCA153, .vsqrt 13 10 .f64 3), (0x27CCB184, .vredsum 28 11 .i8 4),
     (0x27BCC20D, .vredmax 27 12 .z8 5), (0x27ACD2A6, .vredmin 26 13 .i32 6), (0x269D132F, .vbcast 9 17 .z32 7), (0x27FC83B0, .vmvx 31 8 .f32),
     (0x266C1407, .mand 6 1 7), (0x265C2484, .mor 5 2 4), (0x264C3500, .mnot 4 3), (0x27BC4580, .vpopm 27 4),
     (0x27BE6D15, .vcvt 11 6 .f64 .mk8 .ru 5)] = true := by decide +kernel

theorem test_decode_matrix : decodesTo
    [(0x30600570, .mmac 2 5 6 .mk8 false true true), (0x30233571, .mmacs 2 5 6 19 .bf16 false true false), (0x30040200, .mzero 1),
     (0x30071203, .mldz 17 1 .f64), (0x30092404, .mstz 18 2 .i8), (0x300A0100, .mscl 4), (0x300C0200, .macq 1),
     (0x300E0200, .mrel 1)] = true := by decide +kernel

theorem test_decode_rings : decodesTo
    [(0x32411000, .rgset 4 17), (0x32520000, .rgwf 5), (0x32640000, .rgwe 6), (0x32460000, .rghd 4), (0x32580000, .rgtl 5),
     (0x33AA6000, .rgrd 26 6), (0x320C0000, .rpbeg), (0x320C0001, .rpend), (0x320D4582, .rpgo 20 11), (0x320D0483, .rpgoa 16 9),
     (0x320C0004, .rpjoin)] = true := by decide +kernel

theorem test_decode_labels : decodesTo
    [(0x40312000, .lbroot 3 18), (0x40205481, .lbkid 2 5 9), (0x40106002, .lbapp 1 6), (0x40701003, .lbins 7 1), (0x40001004, .lbdel 1),
     (0x41D02285, .lbanc 29 2 5), (0x41C03306, .lbcmp 28 3 6), (0x40304007, .lbpar 3 4), (0x41A05008, .lbdep 26 5), (0x41906009, .lbres 25 6),
     (0x4070120A, .lbmov 7 1 4), (0x4060000B, .lbfix 6), (0x4050200C, .lbcp 5 2), (0x4041000D, .lblm 4 16), (0x4001128E, .lbsm 17 5),
     (0x41A0508F, .lbxg 26 5 1), (0x41926AEC, .lbld 25 6 0xAEC), (0x4144153F, .lbst 0xa3f 1 10)] = true := by decide +kernel

theorem test_decode_scans : decodesTo
    [(0x43E06AEE, .kfirst 30 6 0xAEE), (0x43D26AEF, .knext 29 6 0xAEF), (0x43A46AF0, .kredI32 26 6 0xAF0), (0x43A66AF1, .kredI64 26 6 0xAF1),
     (0x43A86AF2, .kredF32 26 6 0xAF2), (0x43AA6AF3, .kredF64 26 6 0xAF3), (0x44716AF4, .skey 7 22 0xAF4), (0x45E21AF5, .sld 30 1 0xAF5),
     (0x45D42AF6, .sst 29 2 0xAF6), (0x45C63AF7, .sadd 28 3 0xAF7), (0x45A84AF8, .scoord 26 4 0xAF8)] = true := by decide +kernel

theorem test_decode_tasks : decodesTo
    [(0x50011AF9, .spawn 17 0xAF9), (0x50020000, .sret), (0x50053000, .sync 19), (0x50060000, .yield), (0x50090000, .hop 16),
     (0x500A3AFE, .hopk 3 0xAFE), (0x500D2000, .ganggo 18), (0x500E0001, .gbar 1), (0x500E0010, .stop)] = true := by decide +kernel

theorem test_decode_messages : decodesTo
    [(0x52010507, .msend 16 10 7), (0x53E31581, .msendnb 30 17 11 1), (0x52040000, .mdone), (0x52065502, .mbput 5 10 2),
     (0x53B86003, .mbget 27 6 3)] = true := by decide +kernel

theorem test_decode_chains : decodesTo
    [(0x54010480, .chgo 16 9 .spread), (0x55920B08, .get 25 0xB08), (0x54052000, .put 18), (0x54E60B0A, .vget 14 0xB0A), (0x5408A000, .vput 10),
     (0x540A0000, .chend)] = true := by decide +kernel

theorem test_decode_moves : decodesTo
    [(0x61B51480, .mvcp 27 2 17 9), (0x61A72501, .mv2d 26 3 18 10), (0x61933582, .mvgth 25 1 19 11), (0x61F34483, .mvsct 31 1 20 9),
     (0x61E50504, .mvfill 30 2 16 10), (0x61D71585, .mvget 29 3 17 11), (0x61C32486, .mvput 28 1 18 9), (0x61B33507, .mvamo 27 1 19 10),
     (0x61A54588, .mvring 26 2 20 11), (0x61970489, .sdense 25 3 16 9), (0x61F3150A, .ssparse 31 1 17 10), (0x60032010, .mvwait 1 18),
     (0x61D40011, .mvid 29 2)] = true := by decide +kernel

theorem test_decode_system : decodesTo
    [(0x70000000, .ecall), (0x70000001, .ebreak), (0x70000002, .xret), (0x70000003, .wfm), (0x70000004, .fenceI), (0x71E20203, .srd 30 0x203),
     (0x71D50203, .swr 29 16 0x203), (0x71C71203, .sset 28 17 0x203), (0x71B92203, .sclr 27 18 0x203), (0x700B3500, .tlbinv 19 10),
     (0x700B4581, .dtwr 20 11), (0x700B0482, .dtrd 16 9), (0x700B1003, .wake 17), (0x700B2204, .mbind 18 4), (0x700B3085, .chsw 19 .folded),
     (0x71BB4506, .pshare 27 20 10)] = true := by decide +kernel

/-- The worked encodings of the chapters on encoding and on the scalar, vector, matrix and keyed forms. -/
theorem test_decode_worked : decodesTo
    [(0x06505008, .addi 5 5 8), (0x02665000, .ld 6 5 0), (0x15F2537C, .bne 0xFFC 5 6), (0x1876940A, .amoadd 7 .die 9 8 .acq),
     (0x30300299, .mmac 1 2 3 .bf16 true true false), (0x080C0000, .or 0 0 0), (0x06526800, .clz 5 6), (0x067A7403, .srai 7 7 3),
     (0x1AA0B008, .ldfe 10 11 8), (0x1A06B600, .sdef 0 11 12), (0x241021B0, .vadd 1 2 3 .f32 0), (0x2044A2A1, .vldx 4 10 5 .i32 1),
     (0x27241130, .vcmp .lt 2 1 2 .f32 0), (0x265C11B0, .vredsum 5 1 .f32 0), (0x266E7310, .vcvt 6 7 .f32 .mk8 .rne 0),
     (0x266E7B10, .vcvt 6 7 .f32 .mk8 .rz 0), (0x30734008, .mmacs 0 0 1 20 .mk8 true true true), (0x3008A401, .mstz 10 2 .bf16),
     (0x300C0600, .macq 3), (0x3240C000, .rgset 4 12), (0x325A1000, .rgrd 5 1), (0x320C6202, .rpgo 6 4), (0x320C6203, .rpgoa 6 4),
     (0x40501105, .lbanc 5 1 2), (0x4030110A, .lbmov 3 1 2), (0x4050108F, .lbxg 5 1 1), (0x40622010, .lbld 6 2 16),
     (0x40042398, .lbst 24 2 7), (0x42502005, .kfirst 5 2 5), (0x42AA4009, .kredF64 10 4 9), (0x4410A007, .skey 1 10 7),
     (0x44960007, .sadd 9 0 7)] = true := by decide +kernel

/-- Those of the chapters on threads, engines and system instructions. -/
theorem test_decode_worked_system : decodesTo
    [(0x18AAC5CE, .amocas 10 .sys 12 11 .ar), (0x16000005, .fence .sys), (0x16020003, .fenceK .die), (0x50008003, .spawn 8 3), (0x50020000, .sret),
     (0x50048000, .sync 8), (0x5008A000, .hop 10), (0x500A1005, .hopk 1 5), (0x500E0002, .gbar 2), (0x500E0010, .stop),
     (0x52526607, .msendnb 5 6 12 7), (0x52040000, .mdone), (0x52062381, .mbput 2 7 1), (0x5400A581, .chgo 10 11 .folded),
     (0x54520005, .get 5 5), (0x540A0000, .chend), (0x6050A580, .mvcp 5 0 10 11), (0x60045010, .mvwait 2 5), (0x60640011, .mvid 6 2),
     (0x700AA003, .wake 10), (0x700AA580, .tlbinv 10 11), (0x705AA586, .pshare 5 10 11), (0x700AA085, .chsw 10 .folded),
     (0x7052000A, .srd 5 0x00A), (0x70046008, .swr 0 6 0x008)] = true := by decide +kernel

/-- Words with a group, a form, a code or an unused field that R107 to R128 and R335 refuse, and one of each check on the fields. -/
theorem test_decode_refuses : refusedFor
    [(0x00000000, .unassignedOp), (0xFFFFFFFF, .unassignedOp), (0x04080000, .unassignedForm), (0x06020806, .unassignedForm),
     (0x16000006, .reservedCode), (0x18000001, .unusedField), (0x18000050, .unassignedForm), (0x20000018, .reservedCode),
     (0x21000000, .unusedField), (0x26020018, .reservedCode), (0x50020001, .unusedField), (0x500E0004, .unassignedForm),
     (0x26020030, .form .typeNotAccepted), (0x260E0330, .form .sameType), (0x30400001, .form .popScale), (0x30020002, .form .bitmapFormat),
     (0x42001000, .form .oddPair), (0x52000E80, .form .payloadRegister), (0x70020006, .form .unassignedRegister)] = true := by
  decide +kernel

end Sys2Proof.Tests
end

