-- ==== Sys2Proof/Tests/EngineWitness.lean ====
section
/-!
SUPPORT. Concrete states that meet the hypotheses of the statements about rings, the matrix engine and the repetition buffer.
-/
set_option Elab.async false
set_option maxRecDepth 100000

namespace Sys2Proof.Tests
open Sys2Proof Sys2Proof.Machine

/-- A ring of `n` 2048-byte slots from address 0. -/
def ringOf (n head tail filled : Nat) : Ring := { base := 0, n := n, size := 2048, head := head, tail := tail, filled := filled, held := [] }

/-- Ring 1 holds one filled slot of two, ring 2 none, ring 3 is full, ring 0 is not set. -/
def rings : State := withCore fun q => ((q.setRing 1 (ringOf 2 1 1 1)).setRing 2 (ringOf 2 0 0 0)).setRing 3 (ringOf 1 0 0 1)

theorem witness_RingForms (h : Obligations.RingForms) :
    exec (.rgwf 0) rings = .next (rings.traps 0x10 (xvalUnit (.rgwf 0) 0 1)) ∧
    exec (.rghd 2) rings = .next (rings.waits (.ringFilled 2)) ∧ exec (.rgtl 3) rings = .next (rings.waits (.ringFree 3)) ∧
    exec (.rgwf 1) rings = .next (rings.past 4) ∧ exec (.rgwe 1) rings = .next (rings.past 4) := by
  refine ⟨?_, ?_, ?_, ?_, ?_⟩
  · exact (h.1 rings 0 0 _ (.head _) (by decide +kernel)).1 (by decide +kernel)
  · exact ((h.1 rings 0 2 (.rghd 2) (.tail _ (.tail _ (.head _))) (by decide +kernel)).2 (ringOf 2 0 0 0) (by decide +kernel)).1
      (.tail _ (.head _)) rfl
  · exact ((h.1 rings 0 3 (.rgtl 3) (.tail _ (.tail _ (.tail _ (.head _)))) (by decide +kernel)).2 (ringOf 1 0 0 1) (by decide +kernel)).2.1
      (.tail _ (.head _)) rfl
  · exact ((h.1 rings 0 1 (.rgwf 1) (.head _) (by decide +kernel)).2 (ringOf 2 1 1 1) (by decide +kernel)).2.2.1 rfl (by decide)
  · exact ((h.1 rings 0 1 (.rgwe 1) (.tail _ (.head _)) (by decide +kernel)).2 (ringOf 2 1 1 1) (by decide +kernel)).2.2.2.1 rfl (by decide)

theorem witness_RingForms_move (h : Obligations.RingForms) :
    (∃ t, exec (.rghd 1) rings = .next t ∧ (t.myCore.ring 1).map (·.head) = some 0) ∧
    (∃ t, exec (.rgtl 1) rings = .next t ∧ (t.myCore.ring 1).map (·.tail) = some 0) ∧
    ∃ w : Word, exec (.rgrd 5 1) rings = .next (rings.wrote 5 w) ∧ w.extractLsb' 32 20 = 2048 := by
  refine ⟨?_, ?_, ?_⟩
  · exact ⟨_, ((h.1 rings 0 1 (.rghd 1) (.tail _ (.tail _ (.head _))) (by decide +kernel)).2 (ringOf 2 1 1 1) (by decide +kernel)).2.2.2.2.1 rfl (by decide),
      by decide +kernel⟩
  · exact ⟨_, ((h.1 rings 0 1 (.rgtl 1) (.tail _ (.tail _ (.tail _ (.head _)))) (by decide +kernel)).2 (ringOf 2 1 1 1) (by decide +kernel)).2.2.2.2.2.1 rfl
      (by decide), by decide +kernel⟩
  · obtain ⟨w, a, _, _, _, _, b, _⟩ := ((h.1 rings 5 1 (.rgrd 5 1) (.tail _ (.tail _ (.tail _ (.tail _ (.head _))))) (by decide +kernel)).2 (ringOf 2 1 1 1)
      (by decide +kernel)).2.2.2.2.2.2 rfl
    exact ⟨w, a, b⟩

/-- An entry for ring of kind 3 with the use right: base, n - 1 and the size code. -/
def ringEntry (base n1 size : Nat) : Nat := 0x43 + (base * 2 ^ 44 + n1 * 2 ^ 36 + size * 2 ^ 32) * 2 ^ 448

/-- An object table at 0x1000: entry 1 a ring at the end of the range allowed, 2 one 128 bytes too far, 3 one with a reserved bit. -/
def ringTable : State :=
  (withX [(6, 1), (7, 2), (8, 3)] ((withWord 0 7 rings).modMe fun t => { t with objbase := 0x1000, objlim := 3 })).memWrite 0x1040 192
    (ringEntry (spadSize 2 - 40960 - 2048) 0 4 + ringEntry (spadSize 2 - 40960 - 1920) 0 4 * 2 ^ 512 + (ringEntry 0 0 4 + 2 ^ 473) * 2 ^ 1024)

theorem witness_RingForms_set (h : Obligations.RingForms) :
    (∃ t, exec (.rgset 0 6) ringTable = .next t ∧ (t.myCore.ring 0).map (·.n) = some 1) ∧
    exec (.rgset 1 7) ringTable = .next (ringTable.traps 0x10 (xvalUnit (.rgset 1 7) 1 5)) ∧
    exec (.rgset 4 8) ringTable = .next (ringTable.traps 0x0A (xvalObject (.rgset 4 8) 3 7)) := by
  refine ⟨?_, ?_, ?_⟩
  · exact ⟨_, (h.2 ringTable 0 6 (BitVec.ofNat 512 (ringEntry (spadSize 2 - 40960 - 2048) 0 4)) (by decide +kernel) (by decide) (ok_ex (by decide +kernel))
      (by decide +kernel) (by decide +kernel)).2.2.2 (by decide +kernel) (by decide +kernel) (by decide +kernel), by decide +kernel⟩
  · exact (h.2 ringTable 1 7 (BitVec.ofNat 512 (ringEntry (spadSize 2 - 40960 - 1920) 0 4)) (by decide +kernel) (by decide) (ok_ex (by decide +kernel))
      (by decide +kernel) (by decide +kernel)).2.1 (by decide +kernel) (by decide +kernel)
  · exact (h.2 ringTable 4 8 (BitVec.ofNat 512 (ringEntry 0 0 4 + 2 ^ 473)) (by decide +kernel) (by decide) (ok_ex (by decide +kernel))
      (by decide +kernel) (by decide +kernel)).1 (by decide +kernel)

/-- Ring 0 has a slot held. -/
def ringHeld : State := ringTable.setMyCore (ringTable.myCore.setRing 0 { ringOf 1 0 0 0 with held := [{ index := 0, slot := 0, before := 0 }] })

theorem witness_RingForms_quiet (h : Obligations.RingForms) : exec (.rgset 0 6) ringHeld = .next (ringHeld.waits (.ringQuiet 0)) :=
  (h.2 ringHeld 0 6 (BitVec.ofNat 512 (ringEntry (spadSize 2 - 40960 - 2048) 0 4)) (by decide +kernel) (by decide) (ok_ex (by decide +kernel))
    (by decide +kernel) (by decide +kernel)).2.2.1 (by decide +kernel) (by decide +kernel)
    fun q => absurd (q.1 _ (show ringHeld.myCore.ring 0 = some { ringOf 1 0 0 0 with held := [{ index := 0, slot := 0, before := 0 }] } by decide +kernel))
      (by decide)

/-! The matrix engine. -/

/-- Slot 0 owns za3, slot 1 owns za1 and has an operation queued; ring 4 is a scale ring that mfmt names. -/
def owner : State := (rings.setMyCore { (rings.myCore.setRing 2 (ringOf 1 0 0 1)).setRing 4 { ringOf 1 0 0 1 with size := 128 } with
  zaOwner := #v[none, some (1, 0), none, some (0, 0)] }).modMe fun t => { t with mfmt := 0xC }

/-- The same with ring 1 empty, and the queue full. -/
def ownerEmpty : State := owner.setMyCore (owner.myCore.setRing 1 (ringOf 2 0 0 0))
def ownerFull : State := owner.setMyCore { owner.myCore with matrix := List.replicate 8 { slot := 1, z := 1, form := .zero } }

theorem witness_MatrixQueue (h : Obligations.MatrixQueue) :
    (∃ t, exec (.mmac 3 1 2 .mk8 true false true) owner = .next t ∧ (t.myCore.ring 1).map (·.filled) = some 0) ∧
    exec (.mmac 3 1 2 .mk8 true false true) ownerEmpty = .next (ownerEmpty.waits (.matrixQueue [1, 2, 4])) ∧
    exec (.mzero 3) ownerFull = .next (ownerFull.waits (.matrixQueue [])) ∧ ∃ t, exec (.mzero 3) owner = .next t ∧ t.myCore.matrix.length = 1 := by
  refine ⟨?_, ?_, ?_, ?_⟩
  · have k : ∀ g ∈ [((1 : BitVec 3), 2048), (2, 2048), (4, 128)], ∃ k, owner.myCore.ring g.1 = some k ∧ g.2 ≤ k.size ∧ k.filled ≠ 0 := by
      simp only [List.forall_mem_cons]
      exact ⟨⟨ringOf 2 1 1 1, by decide +kernel⟩, ⟨ringOf 1 0 0 1, by decide +kernel⟩, ⟨{ ringOf 1 0 0 1 with size := 128 }, by decide +kernel⟩, fun _ m => nomatch m⟩
    obtain ⟨t, a, _, _, _, _, b⟩ := ((h owner 3 1 2 0 .mk8 true false true (.mmac 3 1 2 .mk8 true false true) 0 (by decide +kernel) (by decide +kernel)).1
      (.head _) (by decide +kernel) (by decide +kernel) (by decide +kernel) (fun g m => (k g m).imp fun _ q => ⟨q.1, q.2.1⟩)).2 (by decide +kernel)
      (fun g m r e => by obtain ⟨r', x, _, y⟩ := k g m; rw [x] at e; cases e; exact y)
    exact ⟨t, a, (congrArg _ (b 1)).trans (by decide +kernel)⟩
  · have k : ∀ g ∈ [((1 : BitVec 3), 2048), (2, 2048), (4, 128)], ∃ k, ownerEmpty.myCore.ring g.1 = some k ∧ g.2 ≤ k.size := by
      simp only [List.forall_mem_cons]
      exact ⟨⟨ringOf 2 0 0 0, by decide +kernel⟩, ⟨ringOf 1 0 0 1, by decide +kernel⟩, ⟨{ ringOf 1 0 0 1 with size := 128 }, by decide +kernel⟩, fun _ m => nomatch m⟩
    exact ((h ownerEmpty 3 1 2 0 .mk8 true false true (.mmac 3 1 2 .mk8 true false true) 0 (by decide +kernel) (by decide +kernel)).1
      (.head _) (by decide +kernel) (by decide +kernel) (by decide +kernel) k).1
      fun q => q.2 (1, 2048) (.head _) (ringOf 2 0 0 0) (by decide +kernel) rfl
  · exact ((h ownerFull 3 0 0 0 .bf16 true false true (.mzero 3) 0 (by decide +kernel) (by decide +kernel)).2 rfl).1 (by decide +kernel)
  · exact ⟨_, ((h owner 3 0 0 0 .bf16 true false true (.mzero 3) 0 (by decide +kernel) (by decide +kernel)).2 rfl).2 (by decide +kernel), by decide +kernel⟩

/-- The places of the first 64-byte blocks of an image at `a`. -/
def blocks (a n : Nat) : List Loc :=
  (List.range n).map fun k => physical (a + 64 * k)

theorem witness_MatrixImages (h : Obligations.MatrixImages) :
    (∃ t, exec (.mldz 6 3 .bf16) (withX [(6, 0x1000)] owner) = .next t ∧ t.me.state = .engwait ∧ t.myCore.matrix.length = 1) ∧
    exec (.mstz 6 3 .f64) (withX [(6, 0x1020)] owner) = .next ((withX [(6, 0x1020)] owner).traps 0x04 0x1020) ∧
    exec (.mldz 6 3 .f32) (withX [(6, 0x40)] ownerFull) = .next ((withX [(6, 0x40)] ownerFull).waits (.matrixQueue [])) := by
  refine ⟨?_, ?_, ?_⟩
  · exact ⟨_, (h (withX [(6, 0x1000)] owner) 3 6 .bf16 _ _ (.head _) (by decide +kernel) (by decide +kernel) rfl).2.2 (by decide +kernel) (by decide +kernel),
      by decide +kernel⟩
  · exact (h (withX [(6, 0x1020)] owner) 3 6 .f64 _ _ (.tail _ (.head _)) (by decide +kernel) (by decide +kernel) rfl).1 (by decide +kernel)
  · exact (h (withX [(6, 0x40)] ownerFull) 3 6 .f32 _ _ (.head _) (by decide +kernel) (by decide +kernel) rfl).2.1 (by decide +kernel) (by decide +kernel)

/-- za3 holds ones; the engine has the operation at its queue, and slot 0 waits for it. -/
def engine (f : MatrixForm) : State := { (owner.setMyCore { owner.myCore with
  za := #v[0, 0, 0, BitVec.allOnes 32768], matrix := [{ slot := 0, z := 3, form := f }] }).modMe fun t => t.park .engwait (.engine .image) with args := { } }

/-- What the hypotheses about an image's blocks ask, where all blocks are at H. -/
theorem blocks_ok {s : State} {a n : Nat} {va : Word} {acc : Access}
    (h : ∀ k < n, (s.locate s.args.core (s.slot s.args.core 0) (va + BitVec.ofNat 64 (64 * k)) 64 acc).toOption = (blocks a n)[k]? ∧
      ∀ m < 8, s.isBad (.mem (a + 64 * k + 8 * m)) = false) :
    ∀ (k : Nat) (p : Loc), (blocks a n)[k]? = some p → s.locate s.args.core (s.slot s.args.core 0) (va + BitVec.ofNat 64 (64 * k)) 64 acc = .ok p ∧
      ∀ m < 8, s.isBad (p.place.plus (8 * m)) = false := by
  intro k p e
  have l : k < n := by simpa [blocks] using (List.getElem?_eq_some_iff.mp e).1
  have r := h k l
  rw [e] at r
  refine ⟨ok_ex r.1, fun m q => ?_⟩
  simp only [blocks, List.getElem?_map, List.getElem?_range l, Option.map_some] at e
  rw [← Option.some_inj.mp e]
  exact r.2 m q

/-- An access that does not reach an address the spec says does not exist. -/
def reachable (r : Except Stop Loc) : Bool := match r with | .error (.fault _) => false | _ => true

/-- Every block of an operation's image is such an access. -/
def imageReachable (s : State) (o : MatrixOp) : Bool :=
  let at_ (f : Fmt) (va : Word) (acc : Access) : Bool :=
    (List.range (imageBytes f / 64)).all fun k => reachable (s.locate s.args.core (s.slot s.args.core o.slot) (va + BitVec.ofNat 64 (64 * k)) 64 acc)
  match o.form with
  | .load f va _ => at_ f va .load
  | .store f va _ => at_ f va .store
  | _ => true

/-- What the premise on addresses outside the package asks. -/
theorem no_fault {s : State} {o : MatrixOp} (h : imageReachable s o = true) : ∀ f va w acc,
    (o.form, acc) ∈ [(MatrixForm.load f va w, Access.load), (.store f va w, .store)] → (s.slot s.args.core o.slot).wait = .engine .image →
    ∀ k < imageBytes f / 64, ∀ x, s.locate s.args.core (s.slot s.args.core o.slot) (va + BitVec.ofNat 64 (64 * k)) 64 acc ≠ .error (.fault x) := by
  intro f va w acc m _ k l x e
  have g : (List.range (imageBytes f / 64)).all (fun k =>
      reachable (s.locate s.args.core (s.slot s.args.core o.slot) (va + BitVec.ofNat 64 (64 * k)) 64 acc)) = true := by
    rcases List.mem_cons.mp m with m | m
    · obtain ⟨p, rfl⟩ := Prod.mk.inj m
      simpa only [imageReachable, p] using h
    · obtain ⟨p, rfl⟩ := Prod.mk.inj (List.mem_singleton.mp m)
      simpa only [imageReachable, p] using h
  have r := List.all_eq_true.mp g k (List.mem_range.mpr l)
  rw [e] at r
  cases r

theorem witness_MatrixEngine (h : Obligations.MatrixEngine) :
    (∃ t, exec .matrixOpComplete (engine .zero) = .next t ∧ (t.core 0).acc 3 = 0) ∧
    (∃ t, exec .matrixOpComplete (engine (.mac .i8 (1, 1) (2, 0) none 0x8000000000000000)) = .next t ∧
      ((t.core 0).acc 3).extractLsb' (32 * (32 * 31 + 31)) 32 = BitVec.allOnes 32) ∧
    (∃ t, exec .matrixOpComplete (engine (.mac .f64 (1, 1) (2, 0) none 0)) = .next t ∧
      ((t.core 0).acc 3).extractLsb' (64 * (16 * 15 + 15)) 64 = 0x7FF8000000000000#64) := by
  refine ⟨?_, ?_, ?_⟩
  · obtain ⟨t, a, _, _, _, b, _⟩ := h (engine .zero) { slot := 0, z := 3, form := .zero } [] (by decide +kernel) (no_fault (by decide +kernel))
    exact ⟨t, a, b rfl⟩
  · obtain ⟨t, a, _, _, _, _, _, b, _⟩ := h (engine (.mac .i8 (1, 1) (2, 0) none 0x8000000000000000))
      { slot := 0, z := 3, form := .mac .i8 (1, 1) (2, 0) none 0x8000000000000000 } [] (by decide +kernel) (no_fault (by decide +kernel))
    exact ⟨t, a, ((b _ _ _ _ _ rfl (by decide +kernel) (by decide +kernel) nofun).1 rfl 31 (by decide) 31 (by decide)).trans (by decide +kernel)⟩
  · obtain ⟨t, a, _, _, _, _, _, b, _⟩ := h (engine (.mac .f64 (1, 1) (2, 0) none 0))
      { slot := 0, z := 3, form := .mac .f64 (1, 1) (2, 0) none 0 } [] (by decide +kernel) (no_fault (by decide +kernel))
    exact ⟨t, a, ((b _ _ _ _ _ rfl (by decide +kernel) (by decide +kernel) nofun).2.2.2.2 rfl 15 (by decide) 15 (by decide)).trans (by decide +kernel)⟩

theorem witness_MatrixEngine_image (h : Obligations.MatrixEngine) :
    (∃ t, exec .matrixOpComplete (engine (.load .bf16 0x1000 0)) = .next t ∧ (t.slot 0 0).pc = 0x104 ∧ ((t.core 0).acc 3).extractLsb' 32736 32 = 0#32) ∧
    (∃ t, exec .matrixOpComplete (engine (.store .bf16 0x1000 0)) = .next t ∧ t.readLoc (.mem 0x17FF) 1 = 0x7F) ∧
    ∃ t, exec .matrixOpComplete (engine (.store .bf16 0x10000000000 0)) = .next t ∧ (t.slot 0 0).cause = some (0x05, 0x10000000000) := by
  refine ⟨?_, ?_, ?_⟩
  · obtain ⟨t, a, _, _, _, _, _, _, b, _⟩ := h (engine (.load .bf16 0x1000 0)) { slot := 0, z := 3, form := .load .bf16 0x1000 0 } [] (by decide +kernel) (no_fault (by decide +kernel))
    obtain ⟨_, _, c, d, _⟩ := b .bf16 0x1000 0 (blocks 0x1000 32) .load (.head _) rfl (by decide) (blocks_ok (by decide +kernel))
    exact ⟨t, a, c.trans (by decide +kernel), (d rfl rfl 1023 (by decide)).trans (by decide +kernel)⟩
  · obtain ⟨t, a, _, _, _, _, _, _, b, _⟩ := h (engine (.store .bf16 0x1000 0)) { slot := 0, z := 3, form := .store .bf16 0x1000 0 } [] (by decide +kernel) (no_fault (by decide +kernel))
    obtain ⟨_, _, _, _, _, c⟩ := b .bf16 0x1000 0 (blocks 0x1000 32) .store (.tail _ (.head _)) rfl (by decide) (blocks_ok (by decide +kernel))
    refine ⟨t, a, ((c rfl rfl).1 2047 (by decide) fun n' l p p' _ _ g => ?_).trans (by decide +kernel)⟩
    have : n' < 2048 := l
    omega
  · obtain ⟨t, a, _, _, _, _, _, _, _, b⟩ := h (engine (.store .bf16 0x10000000000 0)) { slot := 0, z := 3, form := .store .bf16 0x10000000000 0 } [] (by decide +kernel) (no_fault (by decide +kernel))
    have k := (b .bf16 0x10000000000 0 (blocks 0 0) .store 0x05 0x10000000000 (.tail _ (.head _)) rfl rfl (by decide) (blocks_ok (by decide +kernel))
      (stop_ex (by decide +kernel))).1
    exact ⟨t, a, (congrArg Slot.cause k).trans rfl⟩

theorem witness_Accumulators (h : Obligations.Accumulators) :
    exec (.macq 3) owner = .next (owner.past 4) ∧ (∃ t, exec (.macq 0) owner = .next t ∧ t.owns 0 = true) ∧
    (∃ t, exec (.macq 1) owner = .next t ∧ t.me.state = .engwait) ∧
    exec (.mrel 1) owner = .next (owner.traps 0x11 (xvalUnit (.mrel 1) 1 2)) ∧ exec (.mrel 3) (engine .zero) = .next ((engine .zero).waits (.release 3)) ∧
    (∃ t, exec (.mrel 3) owner = .next t ∧ t.owns 3 = false) ∧ ∃ t, exec (.mscl 7) owner = .next t ∧ t.me.mfmt = 0xF := by
  refine ⟨?_, ?_, ?_, ?_, ?_, ?_, ?_⟩
  · exact ((h owner 3 0).1 (by decide +kernel)).1 (by decide +kernel)
  · obtain ⟨t, a, b, _⟩ := ((h owner 0 0).1 (by decide +kernel)).2.1 (by decide +kernel) (by decide +kernel)
    exact ⟨t, a, b⟩
  · obtain ⟨t, a, b, _⟩ := ((h owner 1 0).1 (by decide +kernel)).2.2 (1, 0) (by decide +kernel) (by decide +kernel)
    exact ⟨t, a, by rw [b]; rfl⟩
  · exact ((h owner 1 0).2.1 (by decide +kernel)).1 (by decide +kernel)
  · exact ((h (engine .zero) 3 0).2.1 (by decide +kernel)).2.1 (by decide +kernel) (by decide +kernel)
  · exact ⟨_, ((h owner 3 0).2.1 (by decide +kernel)).2.2 (by decide +kernel) (by decide +kernel), by decide +kernel⟩
  · exact ⟨_, (h owner 0 7).2.2 (by decide +kernel), by decide +kernel⟩

/-! The repetition buffer. -/

/-- The buffer held by slot 0 in a phase, with words; x6 a count. -/
def buffer (p : RepPhase) (l : List Instr) (n : Word) : State := withX [(6, n)] (owner.setMyCore { owner.myCore with
  rep := { owner.myCore.rep with holder := some 0, phase := p, words := l } })

/-- Slot 0 is in a run-ahead. -/
def ahead : State := owner.setMyCore { owner.myCore with ahead := some {
  slot := 0, x := owner.me.x, v := owner.me.v, m := owner.me.m, lb := owner.me.lb, fflags := 0, seqFlags := 0, storeCount := 0, stores := [], insn := 0 } }

theorem witness_RepetitionForms (h : Obligations.RepetitionForms) :
    (∃ t, exec .rpbeg owner = .next t ∧ t.myCore.rep.holder = some 0) ∧
    (∃ t, exec (.addi 6 1 1) (buffer .recording (List.replicate 31 .rpjoin) 0) = .next t ∧ t.myCore.rep.words.length = 32) ∧
    (∃ t, exec .rpend (buffer .recording [.addi 6 1 1] 0) = .next t ∧ t.myCore.rep.phase = .ended) ∧
    (∃ t, exec (.rpgo 6 0) (buffer .ended [.addi 6 1 1] 0x100000000) = .next t ∧ t.myCore.rep.holder = none) ∧
    (∃ t, exec (.rpgo 6 15) (buffer .ended [.addi 6 1 1] 1) = .next t ∧ t.me.state = .engwait) ∧
    (∃ t, exec (.rpgoa 6 15) (buffer .ended [.addi 6 1 1] 0xFFFFFFFF) = .next t ∧ t.me.pc = 0x104 ∧ t.myCore.ahead ≠ none) ∧
    exec .rpjoin owner = .next (owner.past 4) ∧ exec .rpjoin ahead = .next (ahead.waits .join) := by
  refine ⟨?_, ?_, ?_, ?_, ?_, ?_, ?_, ?_⟩
  · obtain ⟨t, a, _, _, _, b, _⟩ := ((h owner 6 0).1 (by decide +kernel)).1 (by decide +kernel)
    exact ⟨t, a, b⟩
  · exact ⟨_, ((h (buffer .recording (List.replicate 31 .rpjoin) 0) 6 0).2.1 (.addi 6 1 1) rfl rfl rfl (by decide +kernel) (by decide +kernel)).1
      (by decide +kernel), by decide +kernel⟩
  · exact ⟨_, (h (buffer .recording [.addi 6 1 1] 0) 6 0).2.2.1 (by decide +kernel) (by decide +kernel) (by decide +kernel) (by decide +kernel),
      by decide +kernel⟩
  · obtain ⟨t, a, _, b, _⟩ := ((h (buffer .ended [.addi 6 1 1] 0x100000000) 6 0).2.2.2.1 _ (.head _) (by decide +kernel) rfl).1 rfl (by decide +kernel)
    exact ⟨t, a, b⟩
  · obtain ⟨t, a, _, _, _, b, _⟩ := ((h (buffer .ended [.addi 6 1 1] 1) 6 15).2.2.2.1 (.rpgo 6 15) (.head _) (by decide +kernel) rfl).2
      (.inl ⟨rfl, by decide +kernel⟩)
    exact ⟨t, a, by rw [(b rfl).1]; rfl⟩
  · obtain ⟨t, a, _, _, _, _, b⟩ := ((h (buffer .ended [.addi 6 1 1] 0xFFFFFFFF) 6 15).2.2.2.1 (.rpgoa 6 15) (.tail _ (.head _)) (by decide +kernel) rfl).2
      (.inl ⟨rfl, by decide +kernel⟩)
    exact ⟨t, a, by rw [(b rfl).1]; decide +kernel, by rw [(b rfl).2]; exact nofun⟩
  · exact (h owner 6 0).2.2.2.2.1 (by decide +kernel)
  · obtain ⟨r, e⟩ := some_ex (show (ahead.aheadOf 0 0).isSome by decide +kernel)
    exact (h ahead 6 0).2.2.2.2.2 r e

/-- The buffer runs `vxor v1, v2, v3` twice with stride 15, in iteration `n`; slot 0 waits for it. -/
def sequence (n : Nat) : State :=
  let s := (buffer .running [.vxor 1 2 3 .z64 0] 0).modMe fun t => { (((t.setV 2 5).setV 3 3).setV 1 9) with state := .engwait, wait := .engine .sequence }
  s.setMyCore { s.myCore with rep := { s.myCore.rep with count := 2, stride := 15, iter := n, pos := 0 } }

/-- Its operand v2 is pending. -/
def stalled : State := (sequence 0).modMe fun t => t.launchFlight (.v 2) false none

/-- A run-ahead of slot 0 with one buffered store, its sequence ended, waiting to join. -/
def runAhead : State :=
  let s := start.modMe fun t => t.park .engwait (.engine .join)
  let a : RunAhead := { slot := 0, x := s.me.x, v := s.me.v, m := s.me.m, lb := s.me.lb, fflags := 0, seqFlags := 0, storeCount := 1, insn := 0,
                        stores := [{ va := 0x200, loc := physical 0x200, bytes := [1, 2], narrow := false, covers := false, insn := 0 }] }
  s.setMyCore { s.myCore with ahead := some a }

theorem witness_BufferIssues (h : Obligations.BufferIssues) :
    (∃ t, exec .bufferIssue (sequence 0) = .next t ∧ (t.slot 0 0).getV 1 = 6 ∧ (t.core 0).rep.iter = 1) ∧
    (∃ t, exec .bufferIssue (sequence 1) = .next t ∧ (t.slot 0 0).getV 0 = 12 ∧ (t.slot 0 0).pc = 0x104) ∧
    exec .bufferIssue stalled = .next stalled ∧ ∃ t, exec .runaheadJoin runAhead = .next t ∧ t.readLoc (.mem 0x201) 1 = 2 := by
  refine ⟨?_, ?_, ?_, ?_⟩
  · obtain ⟨t, v, a, b, _, c, _, _, _, _, _, _, d, _⟩ := (h.1 (sequence 0) 0 1 2 3 15 0 .z64 .z64 0 0 .eq .rne 0 0 (.vxor 1 2 3 .z64 0) (.vxor 1 2 3 .z64 0)
      (by decide +kernel) rfl rfl rfl rfl rfl rfl (by decide) (by decide +kernel) (by decide +kernel) (.inl rfl) rfl rfl).1 (by decide +kernel)
    refine ⟨t, a, ?_, (d rfl (by decide)).2.2.1⟩
    rw [Slot.getV, show (t.slot 0 0).v = _ from c, ← Host.Outcome.next.inj (show exec (.vxor 1 2 3 .z64 0) _ = _ from b)]
    decide +kernel
  · obtain ⟨t, v, a, b, _, c, _, _, _, _, _, _, _, d⟩ := (h.1 (sequence 1) 0 1 2 3 15 0 .z64 .z64 0 0 .eq .rne 1 0 (.vxor 1 2 3 .z64 0) (.vxor 0 1 2 .z64 0)
      (by decide +kernel) rfl rfl rfl rfl rfl rfl (by decide) (by decide +kernel) (by decide +kernel) (.inl rfl) rfl rfl).1 (by decide +kernel)
    refine ⟨t, a, ?_, ((d rfl (by decide)).1 rfl).2.1.trans (by decide +kernel)⟩
    rw [Slot.getV, show (t.slot 0 0).v = _ from c, ← Host.Outcome.next.inj (show exec (.vxor 0 1 2 .z64 0) _ = _ from b)]
    decide +kernel
  · exact (h.1 stalled 0 1 2 3 15 0 .z64 .z64 0 0 .eq .rne 0 0 (.vxor 1 2 3 .z64 0) (.vxor 1 2 3 .z64 0)
      (by decide +kernel) rfl rfl rfl rfl rfl rfl (by decide) (by decide +kernel) (by decide +kernel) (.inl rfl) rfl rfl).2 (.v 2) (by decide +kernel) (by decide +kernel)
  · have one : ∀ i st, [{ va := 0x200, loc := physical 0x200, bytes := [1, 2], narrow := false, covers := false, insn := 0 : BufferedStore }][i]? = some st → i = 0 ∧ st.bytes = [1, 2] ∧ st.va = 0x200 := by
      intro i st e
      match i, e with
      | 0, e => rw [← Option.some_inj.mp e]; exact ⟨rfl, rfl, rfl⟩
    obtain ⟨t, a, _, _, _, b, _⟩ := h.2 runAhead _ (fun _ => physical 0x200) rfl (by decide +kernel) rfl rfl fun i st e => by
      obtain ⟨_, p, q⟩ := one i st e
      rw [p, q]
      exact ⟨by decide, ok_ex (by decide +kernel), fun _ => by decide +kernel⟩
    exact ⟨t, a, b 0 _ 1 2 rfl rfl fun i' st k l e => by obtain ⟨rfl, _⟩ := one i' st e; exact absurd l (by decide)⟩

end Sys2Proof.Tests
end

