-- ==== Sys2Proof/Tests/FabricWitness.lean ====
section
/-!
SUPPORT. Concrete states that meet the hypotheses of the statements about packets and about the management controller.
-/
set_option Elab.async false
set_option maxRecDepth 100000

namespace Sys2Proof.Tests
open Sys2Proof Sys2Proof.Machine

/-- A packet of endpoint 5 for tenant 7, about the word at 0x500. -/
def fromPeer (tenant : BitVec 16) (data : List Byte) : Packet :=
  { source := 5, tenant := tenant, seq := 3, addr := 0x500, len := 8, data := data, full := [false], op := .add, operand := 2, expected := 0 }

/-- Core 0 is in a partition whose import table takes tenant 7 of endpoint 5 for tenant 0, whose pages are its own; the word at 0x500
holds 0x77. -/
def atPeer (p : Packet) : State :=
  let s := ((start.memWrite 0 8 7).memWrite 0x1000 8 0x8005_0007_0000_0000).memWrite 0x500 8 0x77
  { s.modCore 0 fun q => { q with plen := 8, tlb := [{ tenant := 0, asid := 0, page := 0, bits := 36, pte := 0xDF }] } with args := { core := 0, pkt := some p } }

/-- The state in which a packet is served. -/
def served (s : State) : State := { s with cur := { core := s.args.core, slot := s.args.slot } }

/-- The answer that the last packet of the outbox carries. -/
def answerOf (s : State) : Option Answer :=
  match s.outbox.getLast? with
  | some (.packet q) => q.answer
  | _ => none

theorem answered {b v : State} {q : KeptPacket} {a : Option Answer} (h : v.outbox = b.outbox ++ [.packet q]) (e : q.answer = a) : answerOf v = a := by
  rw [answerOf, h, List.getLast?_concat]
  exact e

theorem witness_Fabric_refused (h : Obligations.Fabric) :
    (let s := { atPeer (fromPeer 7 []) with received := [(5, .read, 3, true)] }; exec .oneSidedRead s = .next (s.sendAck 5 .read 3 true)) ∧
    (let s := atPeer (fromPeer 8 []); ∃ v, exec .remoteAtomic s = .next v ∧ s.keepsBytes v ∧ answerOf v = some { seq := 3, ok := false, word := 0, data := [], full := [] }) ∧
    (let s := atPeer { fromPeer 7 [] with addr := 0x501 }; ∃ v, exec .oneSidedRead s = .next v ∧ s.keepsBytes v) := by
  refine ⟨?_, ?_, ?_⟩
  · exact (h.1 { atPeer (fromPeer 7 []) with received := [(5, .read, 3, true)] } start (fromPeer 7 []) Slot.powerOn _ _ (.head _) rfl).1 (by decide +kernel)
  · obtain ⟨v, a, b, _, _, c⟩ := ((h.1 (atPeer (fromPeer 8 [])) start (fromPeer 8 []) Slot.powerOn _ _ (.tail _ (.tail _ (.head _))) rfl).2.2
      (by decide +kernel) (by decide +kernel)).1 (by decide +kernel)
    rw [if_neg (by decide +kernel)] at c
    obtain ⟨q, d, _, _, _, e⟩ := c
    exact ⟨v, a, b, answered d e⟩
  · obtain ⟨t, g⟩ := some_ex (r := (atPeer { fromPeer 7 [] with addr := 0x501 }).servant { fromPeer 7 [] with addr := 0x501 }) (by decide +kernel)
    obtain ⟨e, u, k, l⟩ := errThen_ex (r := fetchWords (((atPeer { fromPeer 7 [] with addr := 0x501 }).servant { fromPeer 7 [] with addr := 0x501 }).getD Slot.powerOn)
      0x501 1 (served (atPeer { fromPeer 7 [] with addr := 0x501 }))) (k := fun e => match e with | .fault _ | .held _ _ _ => false | _ => true) (by decide +kernel)
    rw [g] at k
    obtain ⟨v, a, b, _⟩ := (((h.1 (atPeer { fromPeer 7 [] with addr := 0x501 }) u { fromPeer 7 [] with addr := 0x501 } t _ _ (.head _) rfl).2.2
      (by decide +kernel) (by decide +kernel)).2 g).2.1 e rfl k (fun x q => by rw [q] at l; exact absurd l nofun) (fun x y z q => by rw [q] at l; exact absurd l nofun)
    exact ⟨v, a, b⟩

theorem witness_Fabric_served (h : Obligations.Fabric) :
    (∃ v, exec .oneSidedRead (atPeer (fromPeer 7 [])) = .next v ∧
      answerOf v = some { seq := 3, ok := true, word := 0, data := [0x77, 0, 0, 0, 0, 0, 0, 0], full := [true] }) ∧
    (∃ v, exec .oneSidedWrite (atPeer (fromPeer 7 [1, 2, 3, 4, 5, 6, 7, 8])) = .next v ∧ Cells.readNat v.mem 0x500 8 = 0x08070605_04030201 ∧ v.memEmpty = [0x500]) ∧
    ∃ v, exec .remoteAtomic (atPeer (fromPeer 7 [])) = .next v ∧ v.readLoc (.mem 0x500) 8 = 0x79 := by
  refine ⟨?_, ?_, ?_⟩
  · obtain ⟨t, g⟩ := some_ex (r := (atPeer (fromPeer 7 [])).servant (fromPeer 7 [])) (by decide +kernel)
    obtain ⟨l, u, e, k⟩ := okThen_ex (r := fetchWords (((atPeer (fromPeer 7 [])).servant (fromPeer 7 [])).getD Slot.powerOn)
      0x500 1 (served (atPeer (fromPeer 7 [])))) (k := fun l _ => l = [(0x77, true)]) (by decide +kernel)
    rw [g, of_decide_eq_true k] at e
    obtain ⟨v, a, _, c⟩ := (((h.1 (atPeer (fromPeer 7 [])) u (fromPeer 7 []) t _ _ (.head _) rfl).2.2 (by decide +kernel) (by decide +kernel)).2 g).1 [(0x77, true)] rfl e
    rw [if_neg (by decide +kernel)] at c
    obtain ⟨q, d, _, _, _, f⟩ := c
    exact ⟨v, a, answered d (f.trans (by decide +kernel))⟩
  · obtain ⟨t, g⟩ := some_ex (r := (atPeer (fromPeer 7 [1, 2, 3, 4, 5, 6, 7, 8])).servant (fromPeer 7 [1, 2, 3, 4, 5, 6, 7, 8])) (by decide +kernel)
    obtain ⟨l, u, e, k⟩ := okThen_ex (r := depositWords (((atPeer (fromPeer 7 [1, 2, 3, 4, 5, 6, 7, 8])).servant (fromPeer 7 [1, 2, 3, 4, 5, 6, 7, 8])).getD
      Slot.powerOn) 0x500 (wordsOf [1, 2, 3, 4, 5, 6, 7, 8] [false] 1) (served (atPeer (fromPeer 7 [1, 2, 3, 4, 5, 6, 7, 8]))))
      (k := fun _ v => Cells.readNat v.mem 0x500 8 = 0x08070605_04030201 ∧ v.memEmpty = [0x500]) (by decide +kernel)
    rw [g] at e
    obtain ⟨v, a, b, c, _⟩ := (((h.1 (atPeer (fromPeer 7 [1, 2, 3, 4, 5, 6, 7, 8])) u (fromPeer 7 [1, 2, 3, 4, 5, 6, 7, 8]) t _ _ (.tail _ (.head _)) rfl).2.2
      (by decide +kernel) (by decide +kernel)).2 g).2.2.1 rfl (by decide) (by have x : l = () := rfl; subst x; exact e)
    obtain ⟨k, m⟩ := of_decide_eq_true k
    exact ⟨v, a, by rw [b]; exact k, by rw [c]; exact m⟩
  · obtain ⟨t, g⟩ := some_ex (r := (atPeer (fromPeer 7 [])).servant (fromPeer 7 [])) (by decide +kernel)
    obtain ⟨l, u, e, k⟩ := okThen_ex (r := reachFor (((atPeer (fromPeer 7 [])).servant (fromPeer 7 [])).getD Slot.powerOn)
      0x500 8 .rmw (served (atPeer (fromPeer 7 []))))
      (k := fun l v => l.place = .mem 0x500 ∧ v.badWord l.place 0x500 8 = none ∧ v.readLoc l.place 8 = 0x77) (by decide +kernel)
    rw [g] at e
    obtain ⟨k0, k1, k2⟩ := of_decide_eq_true k
    obtain ⟨v, a, _, c, _⟩ := (((h.1 (atPeer (fromPeer 7 [])) u (fromPeer 7 []) t _ _ (.tail _ (.tail _ (.head _))) rfl).2.2
      (by decide +kernel) (by decide +kernel)).2 g).2.2.2.2.1 l rfl e k1
    rw [k2] at c
    exact ⟨v, a, by rw [← k0]; exact c.trans (by decide +kernel)⟩

/-- A transfer of core 0 whose packet 3 is in the fabric, two words on their way. -/
def awaitingReply (flag : Bool) : State :=
  let a : Transfer := { op := .remotePut, id := 0, desc := Vector.replicate 6 0, arg := 0, agent := start.me, total := 4, done := 0, index := none,
                        got := [(1, true), (2, true)], owed := [3], stalled := none, heldSince := none, heldAt := 0, bad := none, entry := 0, walking := none }
  { start.modChannel 0 1 fun _ => { next := 1, queue := [a], latch := none } with args := { num := 3, flag := flag } }

theorem witness_Fabric_reply (h : Obligations.Fabric) :
    (∃ t, exec .fabricReply (awaitingReply true) = .next t ∧ (t.channel 0 1).queue.map (·.done) = [2]) ∧
    ∃ t, exec .fabricReply (awaitingReply false) = .next t ∧ (t.channel 0 1).queue.map (·.bad) = [some 3] := by
  refine ⟨?_, ?_⟩
  · obtain ⟨t, a, b⟩ := (h.2.1 (awaitingReply true) 0 1 _ [] rfl (by decide +kernel) rfl).1 rfl rfl
    exact ⟨t, a, by rw [b.2]; rfl⟩
  · obtain ⟨t, a, b⟩ := (h.2.1 (awaitingReply false) 0 1 _ [] rfl (by decide +kernel) rfl).2 rfl
    exact ⟨t, a, by rw [b]; rfl⟩

/-- An answer of endpoint 5, and the packet after which it was sent. -/
def answering (after : Option Nat) : State :=
  { start with args := { num := 4, code := 2, flag := true, after := after, pkt := some (fromPeer 7 []) } }

theorem witness_Fabric_answer (h : Obligations.Fabric) :
    (let s : State := { answering none with received := [(5, .write, 3, true)] }; exec .fabricReply s = .next (s.sendAck 5 .write 3 true)) ∧
    exec .fabricReply (answering (some 2)) = .next (answering (some 2)) ∧
    (∃ t, exec .fabricReply (answering none) = .next t ∧ t.received = [(5, .write, 3, true)] ∧ t.outbox = [.ack 5 .write 3 true]) ∧
    let s : State := { atPeer (fromPeer 7 []) with args := { (atPeer (fromPeer 7 [])).args with after := some 2 } }; exec .oneSidedRead s = .next s :=
  ⟨(h.2.2.1 { answering none with received := [(5, .write, 3, true)] } (fromPeer 7 []) .write rfl rfl).1 (by decide +kernel),
   (h.2.2.1 (answering (some 2)) (fromPeer 7 []) .write rfl rfl).2.1 (by decide +kernel) (by decide +kernel),
   (h.2.2.1 (answering none) (fromPeer 7 []) .write rfl rfl).2.2 (by decide +kernel) (by decide +kernel),
   (h.1 _ start (fromPeer 7 []) Slot.powerOn _ _ (.head _) rfl).2.1 (by decide +kernel) (by decide +kernel)⟩

/-- A message of slot 0 of core 0 to endpoint 5; a packet of it, or of none, that is kept until it is acknowledged. -/
def toEndpoint : Message := { dest := 0x28000, sender := 0, tenant := 7, cls := 2, origin := .slot, payload := #v[1, 2, 3, 4], body := .plain }

def toPeer (m : Bool) (resent : Bool) : KeptPacket :=
  { seq := 3, dest := 5, cls := .message, tenant := 7, msgs := if m then [toEndpoint] else [], wake := none, answer := none,
    after := none, transfer := none, addr := 0, len := 0, data := [], full := [], op := .add, operand := 0, expected := 0, sent := 0, resent := resent }

def keeping (m resent flag : Bool) : State := { start with kept := [toPeer m resent], now := 33000000, args := { num := 3, flag := flag } }

/-- A refused packet of a transfer. -/
def ofTransfer : State := { keeping false false true with kept := [{ toPeer false false with transfer := some (0, 1, 0) }] }

theorem witness_Fabric_kept (h : Obligations.Fabric) :
    exec .packetAcknowledgement (keeping true false false) = .next { keeping true false false with kept := [] } ∧
    (∃ t, exec .packetAcknowledgement (keeping true false true) = .next t ∧ ∃ e ∈ t.agenda, ∃ b, e.event.args.msg = some b ∧ b.payload[0] = bounceWord 2 7) ∧
    (∃ t, exec .fabricResendTimeout (keeping true false false) = .next t ∧ t.outbox = [.packet { toPeer true true with sent := 33000000 }]) ∧
    (∃ t, exec .packetUndeliverable (keeping false true false) = .next t ∧ t.kept = []) ∧
    exec .packetAcknowledgement ofTransfer = .next (({ ofTransfer with kept := [] } : State).failPacket 3) := by
  refine ⟨?_, ?_, ?_, ?_, ?_⟩
  · exact (h.2.2.2.1 (keeping true false false) _ rfl rfl).1 rfl
  · obtain ⟨t, a, _, e, m, _, b, c, _, d⟩ := (h.2.2.2.1 (keeping true false true) _ rfl rfl).2.1 toEndpoint rfl rfl rfl (by decide) (by decide +kernel)
    exact ⟨t, a, e, m, b, c, d⟩
  · obtain ⟨t, a, _, b⟩ := (h.2.2.2.1 (keeping true false false) _ rfl rfl).2.2.2.1 rfl
    exact ⟨t, a, b⟩
  · obtain ⟨t, a, b, _⟩ := (h.2.2.2.1 (keeping false true false) _ rfl rfl).2.2.2.2 rfl (by decide) rfl rfl
    exact ⟨t, a, b⟩
  · exact (h.2.2.2.1 ofTransfer _ rfl rfl).2.2.1 rfl rfl

theorem witness_Fabric_link (h : Obligations.Fabric) :
    (let s := { start with args := { num := 31, flag := false } }; ∃ t, exec .linkStateChange s = .next t ∧ t.controller.linkUp[31] = false) ∧
    (let s := { start with args := { num := 0, flag := false } }; ∃ t, exec .linkLevelRetry s = .next t ∧ t.controller.retries[0] = 1) ∧
    let s := { start with args := { num := 31, flag := true } }; ∃ t, exec .linkLevelRetry s = .next t ∧ t.controller.retries[31] = 0 := by
  refine ⟨?_, ?_, ?_⟩
  · obtain ⟨t, a, b, _⟩ := (h.2.2.2.2 { start with args := { num := 31, flag := false } } 31 rfl).1
    exact ⟨t, a, b⟩
  · obtain ⟨t, a, b⟩ := (h.2.2.2.2 { start with args := { num := 0, flag := false } } 0 rfl).2
    exact ⟨t, a, b.trans (by decide +kernel)⟩
  · obtain ⟨t, a, b⟩ := (h.2.2.2.2 { start with args := { num := 31, flag := true } } 31 rfl).2
    exact ⟨t, a, b⟩

/-- A request flit of endpoint 5, which is on the management list of a controller: its code, and its argument. -/
def asks (code arg : Nat) : List Byte := bytesOfNat code 2 ++ bytesOfNat 9 2 ++ bytesOfNat arg 4 ++ List.replicate 48 0 ++ bytesOfNat 50 8

def managed (flit : List Byte) (started noBank : Bool) (bank : Option Bool := none) (source : BitVec 10 := 5) : State :=
  { start with
    controller := { start.controller with started := started, noBank := noBank, allowed := [5], bank := bank }
    args := { endpoint := source, data := flit } }

theorem witness_Controller_start (h : Obligations.Controller) :
    (∃ t, exec .powerOn (managed [] true false) = .next t ∧ t.controller.started = false) ∧
    ∃ t, exec .powerOn (managed [] false false) = .next t ∧ t.controller.noBank = true := by
  have e (b : Bool) : ∃ t, exec .powerOn (managed [] b false) = .next t ∧ t.controller.noBank = true ∧ t.controller.started = false := by
    obtain ⟨t, a, k⟩ := h.1 (managed [] b false)
    have e : ((if (managed [] b false).controller.started || (managed [] b false).controller.noBank then (managed [] b false).powerCycle
      else managed [] b false).controller.program 0 []).choose = none := by cases b <;> decide +kernel
    revert k
    generalize hk : Controller.choose _ = o
    obtain rfl := hk.symm.trans e
    exact fun k => ⟨t, a, k.1, k.2.1⟩
  exact ⟨(e true).imp fun _ k => ⟨k.1, k.2.2⟩, (e false).imp fun _ k => ⟨k.1, k.2.1⟩⟩

/-- A held request and one behind it. -/
def behind (n : Nat) : State :=
  let s := managed (asks 4 0) true false
  { s with controller := { s.controller with heldRequests := [{ kind := .timeExchange, args := s.args }] }, args := { s.args with num := n } }

theorem witness_Controller_requests (h : Obligations.Controller) :
    (let s := managed (asks 3 0) false true; exec .logRead s = .next (s.reply (requestOf 5 (asks 3 0)) 4 [])) ∧
    (∃ t, exec .timeExchange (managed (asks 4 0) false false) = .next t ∧ t.controller.heldRequests.map (·.kind) = [.timeExchange]) ∧
    (∃ t, exec .timeExchange (behind 0) = .next t ∧ t.controller.heldRequests.length = 2) ∧
    (∃ t, exec .timeExchange (behind 1) = .next t ∧ t.controller.slew = 1650000) ∧
    (let s := managed (asks 5 0) true false none 6; exec .commitUpdate s = .next (s.reply (requestOf 6 (asks 5 0)) 1 [])) ∧
    (let s := managed (asks 6 0) true false; exec .logRead s = .next (s.reply (requestOf 5 (asks 6 0)) 2 [])) ∧
    (let s := managed (asks 1 0) true false none 6; exec .attestation s = .next (s.reply (requestOf 6 (asks 1 0)) 0 (s.report 0))) := by
  refine ⟨?_, ?_, ?_, ?_, ?_, ?_, ?_⟩
  · exact ((h.2.2.1 (managed (asks 3 0) false true) .logRead 3 (by decide)).2.2 [] _ (.inl ⟨rfl, rfl⟩)).1 rfl
  · exact ⟨_, (h.2.2.1 (managed (asks 4 0) false false) .timeExchange 4 (by decide)).1 rfl rfl, rfl⟩
  · exact ⟨_, (h.2.2.1 (behind 0) .timeExchange 4 (by decide)).2.1 _ [] rfl (.inl (by decide)), rfl⟩
  · obtain ⟨t, a, _, _, _, b, _⟩ := (((h.2.2.1 (behind 1) .timeExchange 4 (by decide)).2.2 [] _ (.inr ⟨rfl, rfl, rfl⟩)).2 rfl rfl).2.2 (by decide +kernel)
      (.inl (.head _)) |>.2.2.2.2.2.1 rfl
    exact ⟨t, a, b.trans (by decide +kernel)⟩
  · exact (((h.2.2.1 (managed (asks 5 0) true false none 6) .commitUpdate 5 (by decide)).2.2 [] _ (.inl ⟨rfl, rfl⟩)).2 rfl rfl).1 (by decide) (by decide +kernel)
  · exact (((h.2.2.1 (managed (asks 6 0) true false) .logRead 3 (by decide)).2.2 [] _ (.inl ⟨rfl, rfl⟩)).2 rfl rfl).2.1 (.head _) (.inr (by decide +kernel))
  · exact ((((h.2.2.1 (managed (asks 1 0) true false none 6) .attestation 1 (by decide)).2.2 [] _ (.inl ⟨rfl, rfl⟩)).2 rfl rfl).2.2 (by decide +kernel)
      (.inr rfl)).1 rfl |>.trans (congrArg (fun n => (Host.Outcome.next ((managed (asks 1 0) true false none 6).reply (requestOf 6 (asks 1 0)) 0
        ((managed (asks 1 0) true false none 6).report n)) : Host.Outcome State Fault Refusal)) (show (requestOf 6 (asks 1 0)).nonce = 0 by decide +kernel))

theorem witness_Controller_served (h : Obligations.Controller) :
    (let s := managed (asks 2 6) true false; exec .sensorRead s = .next ((s.sampled 6).reply (requestOf 5 (asks 2 6)) 0 [0, 0])) ∧
    (let s := managed (asks 2 7) true false; exec .sensorRead s = .next (s.reply (requestOf 5 (asks 2 7)) 3 [])) ∧
    (let s := managed (asks 3 4095) true false; ∃ l, exec .logRead s = .next (s.reply (requestOf 5 (asks 3 4095)) 0 l) ∧ l.length = 2048) ∧
    (let s := managed (asks 3 4096) true false; exec .logRead s = .next (s.reply (requestOf 5 (asks 3 4096)) 3 [])) ∧
    ∃ t, exec .commitUpdate (managed (asks 5 0) true false (some true)) = .next t ∧ t.outbox.length = 1 := by
  have k (s : State) (f : Instr) (code : Nat) (m : (f, code) ∈ [(Instr.attestation, 1), (.sensorRead, 2), (.logRead, 3), (.timeExchange, 4), (.commitUpdate, 5)])
      (a : s.controller.heldRequests = []) (b : s.controller.noBank = false) (c : s.controller.started = true) :=
    (((h.2.2.1 s f code m).2.2 [] s (.inl ⟨a, rfl⟩)).2 b c).2.2
  refine ⟨?_, ?_, ?_, ?_, ?_⟩
  · exact ((k (managed (asks 2 6) true false) .sensorRead 2 (by decide) rfl rfl rfl (by decide +kernel) (.inl (.head _))).2.1 6 rfl (by decide +kernel)).1
  · exact (k (managed (asks 2 7) true false) .sensorRead 2 (by decide) rfl rfl rfl (by decide +kernel) (.inl (.head _))).2.2.1 rfl (by decide +kernel)
  · exact (k (managed (asks 3 4095) true false) .logRead 3 (by decide) rfl rfl rfl (by decide +kernel) (.inl (.head _))).2.2.2.1 rfl (by decide +kernel)
  · exact (k (managed (asks 3 4096) true false) .logRead 3 (by decide) rfl rfl rfl (by decide +kernel) (.inl (.head _))).2.2.2.2.1 rfl (by decide +kernel)
  · obtain ⟨t, a, b, _⟩ := (k (managed (asks 5 0) true false (some true)) .commitUpdate 5 (by decide) rfl rfl rfl (by decide +kernel) (.inl (.head _))).2.2.2.2.2.2
      true rfl rfl
    exact ⟨t, a, b⟩

theorem witness_Controller_slew (h : Obligations.Controller) :
    let s : State := { start with controller := { start.controller with slew := -99, slewAt := 2 } }
    ({ s with now := 2 } : State).fineTime < ({ s with now := 3 } : State).fineTime := by
  have k := (h.2.2.2.1 { start with controller := { start.controller with slew := -99, slewAt := 2 } } 2 3 (by decide) (by decide)).1
  simp only at k ⊢
  omega

theorem witness_Controller_sensor (h : Obligations.Controller) :
    let s := { start with args := { num := 6, code := 0x55 } }
    ∃ t, exec .sensorAboveLimit s = .next t ∧ t.controller.sensors[6] = 0x55 := by
  obtain ⟨t, a, b, _⟩ := h.2.2.2.2 { start with args := { num := 6, code := 0x55 } } 6 rfl
  exact ⟨t, a, b⟩

end Sys2Proof.Tests
end

