-- ==== Sys2Proof/Tests/KeyWitness.lean ====
section
/-!
SUPPORT. Concrete states that meet the hypotheses of the statements about labels, trees, sparse regions and scans.
-/
set_option Elab.async false
set_option maxRecDepth 100000

namespace Sys2Proof.Tests
open Sys2Proof Sys2Proof.Machine

/-- b7 has its two halves apart; x6 addresses the package's first page at S. -/
def labels : State := (withX [(6, 0x300010), (7, 9)] regions).modMe fun t => t.setL 7 0x1111111111111111_2222222222222222

theorem witness_LabelRegisters (h : Obligations.LabelRegisters) :
    (∃ t, exec (.lbcp 0 7) labels = .next t ∧ t.me.getL 0 = 0x1111111111111111_2222222222222222) ∧
    (∃ t, exec (.lbxg 7 7 0) labels = .next t ∧ t.me.getL 7 = 0x1111111111111111_0000000000000009) ∧
    (∃ t, exec (.lbxg 0 7 1) labels = .next t ∧ t.me.getL 7 = 0x0000000000000000_2222222222222222 ∧ t.me.getX 0 = 0) ∧
    (∃ t, exec (.lblm 7 6) labels = .next t ∧ t.me.getL 7 = 0) ∧
    ∃ t, exec (.lbsm 6 7) labels = .next t ∧ t.readLoc (.mem 0x300010) 16 = 0x1111111111111111_2222222222222222 := by
  have p : (labels.locate labels.cur.core labels.me (labels.me.getX 6) 16 .load).toOption =
      some { place := .mem 0x300010, tag := { tenant := 0, line := 0x6000 }, home := 0 } := by decide +kernel
  have q : (labels.locate labels.cur.core labels.me (labels.me.getX 6) 16 .store).toOption =
      some { place := .mem 0x300010, tag := { tenant := 0, line := 0x6000 }, home := 0 } := by decide +kernel
  refine ⟨?_, ?_, ?_, ?_, ?_⟩
  · exact ⟨_, (h labels 0 7 0 (physical 0)).1 (by decide +kernel), by decide +kernel⟩
  · exact ⟨_, (h labels 0 7 7 (physical 0)).2.1 (by decide +kernel), by decide +kernel⟩
  · exact ⟨_, (h labels 0 7 0 (physical 0)).2.2.1 (by decide +kernel), by decide +kernel⟩
  · obtain ⟨t, a, b, _⟩ := (h labels 7 0 6 _).2.2.2.1 (by decide +kernel) (by decide +kernel) (by decide +kernel) p (by decide +kernel)
    exact ⟨t, a, b.trans (by decide +kernel)⟩
  · obtain ⟨t, a, b, _⟩ := (h labels 7 7 6 _).2.2.2.2 (by decide +kernel) (by decide +kernel) (by decide +kernel) q
    exact ⟨t, a, b.trans (by decide +kernel)⟩

/-- One operand of `i` and what follows. -/
theorem one_ex {i : Instr} {ch : Bool} {a : BitVec 3} {n : Option (BitVec 12)} {s : State} {k : Operand → Nat → State → Bool}
    (h : okThen ((oneLabel i ch a n).run s) (fun q t => k q.1 q.2 t) = true) : ∃ o p t, (oneLabel i ch a n).run s = .ok (o, p) t ∧ k o p t = true := by
  obtain ⟨⟨o, p⟩, t, a, b⟩ := okThen_ex h
  exact ⟨o, p, t, a, b⟩

/-- Two operands of `i` and what follows. -/
theorem two_ex {i : Instr} {a b : BitVec 3} {s : State} {k : Operand → Nat → Operand → Nat → State → Bool}
    (h : okThen (twoLabels i a b s) (fun q t => k q.1.1 q.1.2 q.2.1 q.2.2 t) = true) :
    ∃ o y q z t, twoLabels i a b s = .ok ((o, y), (q, z)) t ∧ k o y q z t = true := by
  obtain ⟨⟨⟨o, y⟩, q, z⟩, t, a, b⟩ := okThen_ex h
  exact ⟨o, y, q, z, t, a, b⟩

theorem witness_LabelQueries (h : Obligations.LabelQueries) :
    (∃ t, exec (.lbpar 7 3) grown = .next t ∧ t.me.getL 7 = 0x001_00_0_80000000000000000000000000) ∧
    (∃ t, exec (.lbfix 0) grown = .next t ∧ t.me.getL 0 = 0x001_00_0_00000000000000000000000000) ∧
    ∃ w : State, exec (.lbdep 5 3) grown = .next (w.wrote 5 2) := by
  refine ⟨?_, ?_, ?_⟩
  · obtain ⟨o, p, s1, a, k⟩ := one_ex (i := .lbpar 7 3) (ch := false) (a := 3) (n := none) (s := grown)
      (k := fun o p s1 => okThen (readControl o.region s1) fun c _ => labelOf o.region.index c.gen (parentPath p) = 0x001_00_0_80000000000000000000000000)
      (by decide +kernel)
    obtain ⟨c, s2, b, k⟩ := okThen_ex k
    obtain ⟨t, e, f, _⟩ := h.1 grown s1 s2 7 3 0 o p c _ _ (.head _) (by decide +kernel) a b
    exact ⟨t, e, f.trans (of_decide_eq_true k)⟩
  · obtain ⟨o, p, s1, a, k⟩ := one_ex (i := .lbfix 0) (ch := false) (a := 0) (n := none) (s := grown)
      (k := fun o p s1 => okThen (readControl o.region s1) fun c _ => labelOf o.region.index c.gen p = 0x001_00_0_00000000000000000000000000)
      (by decide +kernel)
    obtain ⟨c, s2, b, k⟩ := okThen_ex k
    obtain ⟨t, e, f, _⟩ := h.1 grown s1 s2 0 0 0 o p c _ _ (.tail _ (.head _)) (by decide +kernel) a b
    exact ⟨t, e, f.trans (of_decide_eq_true k)⟩
  · obtain ⟨o, p, s1, a, k⟩ := one_ex (i := .lbdep 5 3) (ch := false) (a := 3) (n := none) (s := grown)
      (k := fun _ p _ => (BitVec.ofNat 64 (depth p)) = 2) (by decide +kernel)
    exact ⟨s1, ((h.2.1 grown s1 3 5 o p (by decide +kernel) a).1).trans (by rw [of_decide_eq_true k])⟩

theorem witness_LabelQueries_two (h : Obligations.LabelQueries) :
    (∃ w : State, exec (.lbanc 5 3 1) grown = .next (w.wrote 5 0)) ∧ (∃ w : State, exec (.lbanc 5 1 1) grown = .next (w.wrote 5 1)) ∧
    (∃ w : State, exec (.lbcmp 5 3 2) grown = .next (w.wrote 5 (BitVec.allOnes 64))) ∧
    codesOf (parentPath (8 * 2 ^ 100 + 8 * 2 ^ 95)) = some [{ cls := 0, ord := 0 }] := by
  refine ⟨?_, ?_, ?_, ?_⟩
  · obtain ⟨o, y, q, z, s1, a, k⟩ := two_ex (i := .lbanc 5 3 1) (a := 3) (b := 1) (s := grown)
      (k := fun o y q z _ => y < 2 ^ 104 ∧ z < 2 ^ 104 ∧
        (if o.region.index.toNat = q.region.index.toNat ∧ y / 2 ^ (104 - filled y) = z / 2 ^ (104 - filled y) then (1 : Word) else 0) = 0) (by decide +kernel)
    have k := of_decide_eq_true k
    exact ⟨s1, (h.2.2.1 grown s1 3 1 5 o q y z _ _ (.head _) (by decide +kernel) k.1 k.2.1 a).1.trans (by rw [k.2.2])⟩
  · obtain ⟨o, y, q, z, s1, a, k⟩ := two_ex (i := .lbanc 5 1 1) (a := 1) (b := 1) (s := grown)
      (k := fun o y q z _ => y < 2 ^ 104 ∧ z < 2 ^ 104 ∧
        (if o.region.index.toNat = q.region.index.toNat ∧ y / 2 ^ (104 - filled y) = z / 2 ^ (104 - filled y) then (1 : Word) else 0) = 1) (by decide +kernel)
    have k := of_decide_eq_true k
    exact ⟨s1, (h.2.2.1 grown s1 1 1 5 o q y z _ _ (.head _) (by decide +kernel) k.1 k.2.1 a).1.trans (by rw [k.2.2])⟩
  · obtain ⟨o, y, q, z, s1, a, k⟩ := two_ex (i := .lbcmp 5 3 2) (a := 3) (b := 2) (s := grown)
      (k := fun o y q z _ => y < 2 ^ 104 ∧ z < 2 ^ 104 ∧
        (let u := (o.region.index.toNat, y)
         let v := (q.region.index.toNat, z)
         if u = v then (0 : Word) else if u.1 < v.1 ∨ (u.1 = v.1 ∧ u.2 < v.2) then BitVec.allOnes 64 else 1) = BitVec.allOnes 64) (by decide +kernel)
    have k := of_decide_eq_true k
    exact ⟨s1, (h.2.2.1 grown s1 3 2 5 o q y z _ _ (.tail _ (.head _)) (by decide +kernel) k.1 k.2.1 a).1.trans (by rw [k.2.2])⟩
  · exact (h.2.2.2 _ [{ cls := 0, ord := 0 }, { cls := 0, ord := 0 }] (by decide +kernel) (by decide +kernel)).2

/-- The root, where it is and where it is not. -/
theorem witness_LabelResolution_root (h : Obligations.LabelResolution) :
    (∃ t, exec (.lbroot 7 6) rooted = .next t ∧ t.me.getL 7 = 0x001_00_0_00000000000000000000000000) ∧
    ∃ t, exec (.lbroot 7 6) regions = .next t ∧ t.me.getL 7 = 0x001_00_0_00000000000000000000000000 := by
  refine ⟨?_, ?_⟩
  · obtain ⟨r, s1, a, k⟩ := okThen_ex (r := openRegion (.lbroot 7 6) 15 ((rooted.me.getX 6).toNat % 2 ^ 16) rooted)
      (k := fun r s1 => s1 = rooted ∧ objUse r.entry = true ∧ r.sparse = false ∧ r.index = 1 ∧
        okThen (resolvePath r 0 rooted) (fun v s2 => v.isSome && okThen (readControl r s2) fun c _ => labelOf 1 c.gen 0 = 0x001_00_0_00000000000000000000000000))
      (by decide +kernel)
    obtain ⟨rfl, u, p, x, k⟩ := of_decide_eq_true k
    obtain ⟨v, s2, b, k⟩ := okThen_ex k
    rw [Bool.and_eq_true] at k
    obtain ⟨⟨e, n⟩, rfl⟩ := some_ex k.1
    obtain ⟨c, s3, d, k⟩ := okThen_ex k.2
    obtain ⟨t, f, g, _⟩ := (h rooted rooted rooted s2 s3 rooted 7 0 6 0 ⟨0, 0, r⟩ r 0 n e [] c (physical 0) (by decide +kernel)).1 (by decide +kernel) a p
      (.inl ⟨u, b⟩) d
    exact ⟨t, f, g.trans (by rw [x]; exact of_decide_eq_true k)⟩
  · obtain ⟨r, s1, a, k⟩ := okThen_ex (r := openRegion (.lbroot 7 6) 15 ((regions.me.getX 6).toNat % 2 ^ 16) regions)
      (k := fun r s1 => s1 = regions ∧ objModify r.entry = true ∧ r.sparse = false ∧ r.index = 1 ∧
        okThen (resolvePath r 0 regions) (fun v s' => v.isNone && okThen (makeRoot r s') fun _ s2 => okThen (readControl r s2) fun c _ =>
          labelOf 1 c.gen 0 = 0x001_00_0_00000000000000000000000000)) (by decide +kernel)
    obtain ⟨rfl, u, p, x, k⟩ := of_decide_eq_true k
    obtain ⟨v, s', b, k⟩ := okThen_ex k
    rw [Bool.and_eq_true] at k
    obtain rfl := Option.isNone_iff_eq_none.mp k.1
    obtain ⟨_, s2, m, k⟩ := okThen_ex k.2
    obtain ⟨c, s3, d, k⟩ := okThen_ex k
    obtain ⟨t, f, g, _⟩ := (h regions regions s' s2 s3 regions 7 0 6 0 ⟨0, 0, r⟩ r 0 0 (.ofNat 0 0) [] c (physical 0) (by decide +kernel)).1 (by decide +kernel) a p
      (.inr ⟨u, b, m⟩) d
    exact ⟨t, f, g.trans (by rw [x]; exact of_decide_eq_true k)⟩

/-- The root's last child, and one past it. -/
def kids : State := withX [(7, 2)] family

theorem witness_LabelResolution_child (h : Obligations.LabelResolution) :
    (∃ t, exec (.lbkid 7 0 6) kids = .next t ∧ t.me.getL 7 = 0x001_00_0_88000000000000000000000000) ∧
    exec (.lbkid 7 0 7) kids = .next (kids.traps 0x0E (xvalKeyed (.lbkid 7 0 7) 1 0 5)) := by
  refine ⟨?_, ?_⟩
  · obtain ⟨o, p, s1, a, k⟩ := one_ex (i := .lbkid 7 0 6) (ch := false) (a := 0) (n := none) (s := kids)
      (k := fun o p s1 => okThen (resolve o p s1) fun _ s2 => okThen (children o.region p (filled p) s2) fun l s3 => okThen (readControl o.region s3) fun c _ =>
        l[(kids.me.getX 6).toNat]? = some ⟨0, 1⟩ ∧ childPath p (filled p) ⟨0, 1⟩ = some (0x88 * 2 ^ 96) ∧
        labelOf o.region.index c.gen (0x88 * 2 ^ 96) = 0x001_00_0_88000000000000000000000000) (by decide +kernel)
    obtain ⟨⟨e, n⟩, s2, b, k⟩ := okThen_ex k
    obtain ⟨l, s3, d, k⟩ := okThen_ex k
    obtain ⟨c, s4, f, k⟩ := okThen_ex k
    obtain ⟨x, y, z⟩ := of_decide_eq_true k
    obtain ⟨t, g, w, _⟩ := ((h kids kids s1 s2 s3 s4 7 0 6 0 o o.region p n e l c (physical 0) (by decide +kernel)).2.1 (by decide +kernel) a b d f).1 _ _ x y
    exact ⟨t, g, w.trans z⟩
  · obtain ⟨o, p, s1, a, k⟩ := one_ex (i := .lbkid 7 0 7) (ch := false) (a := 0) (n := none) (s := kids)
      (k := fun o p s1 => okThen (resolve o p s1) fun _ s2 => okThen (children o.region p (filled p) s2) fun l s3 => okThen (readControl o.region s3) fun _ _ =>
        l.length ≤ (kids.me.getX 7).toNat ∧ o.region.index = 1 ∧ o.op = 0) (by decide +kernel)
    obtain ⟨⟨e, n⟩, s2, b, k⟩ := okThen_ex k
    obtain ⟨l, s3, d, k⟩ := okThen_ex k
    obtain ⟨c, s4, f, k⟩ := okThen_ex k
    obtain ⟨x, y, z⟩ := of_decide_eq_true k
    rw [← y, ← z]
    exact ((h kids kids s1 s2 s3 s4 7 0 7 0 o o.region p n e l c (physical 0) (by decide +kernel)).2.1 (by decide +kernel) a b d f).2 x

/-- A record's first and last doubleword. -/
theorem witness_LabelResolution_record (h : Obligations.LabelResolution) :
    (∃ t, exec (.lbres 5 3) grown = .next t ∧ t.me.getX 5 = 0x200060) ∧ (∃ t, exec (.lbld 0 3 24) grown = .next t ∧ t.me.getX 0 = 0) ∧
    (∃ t, exec (.lbst 24 3 6) grown = .next t ∧ t.readLoc (.mem 0x200078) 8 = 1) ∧
    exec (.lbld 5 3 33) grown = .next (grown.traps 0x0A (xvalKeyed (.lbld 5 3 33) 1 3 5)) := by
  refine ⟨?_, ?_, ?_, ?_⟩
  · obtain ⟨n, s1, a, k⟩ := okThen_ex (r := recordOf (.lbres 5 3) false 3 none grown) (k := fun n _ => n = 0x200060) (by decide +kernel)
    obtain rfl := of_decide_eq_true k
    obtain ⟨t, f, g, _⟩ := (h grown grown s1 grown grown grown 0 3 5 0 ⟨0, 0, ⟨.lbres 5 3, 0, grown.me, 0, [], 0⟩⟩ ⟨.lbres 5 3, 0, grown.me, 0, [], 0⟩ 0 _ (.ofNat 0 0) []
      (.ofNat 0) (physical 0) (by decide +kernel)).2.2.1 (by decide +kernel) a
    exact ⟨t, f, g.trans (by decide +kernel)⟩
  · obtain ⟨n, s1, a, k⟩ := okThen_ex (r := recordOf (.lbld 0 3 24) false 3 (some 24) grown)
      (k := fun n s1 => (s1.locate s1.cur.core s1.me (BitVec.ofNat 64 (n + 24)) 8 .load).toOption.isSome ∧
        (s1.locate s1.cur.core s1.me (BitVec.ofNat 64 (n + 24)) 8 .load).toOption.all fun l => s1.badWord l.place (BitVec.ofNat 64 (n + 24)) 8 = none)
      (by decide +kernel)
    obtain ⟨p, q⟩ := of_decide_eq_true k
    obtain ⟨l, p⟩ := some_ex p
    have q : s1.badWord l.place (BitVec.ofNat 64 (n + 24)) 8 = none := by rw [p] at q; exact of_decide_eq_true q
    obtain ⟨t, f, g, _⟩ := (h grown grown s1 grown grown grown 0 3 0 24 ⟨0, 0, ⟨.lbres 5 3, 0, grown.me, 0, [], 0⟩⟩ ⟨.lbres 5 3, 0, grown.me, 0, [], 0⟩ 0 n (.ofNat 0 0) []
      (.ofNat 0) l (by decide +kernel)).2.2.2.1 (by decide +kernel) a (by decide +kernel) p q
    exact ⟨t, f, g⟩
  · obtain ⟨n, s1, a, k⟩ := okThen_ex (r := recordOf (.lbst 24 3 6) true 3 (some 24) grown)
      (k := fun n s1 => (s1.locate s1.cur.core s1.me (BitVec.ofNat 64 (n + 24)) 8 .store).toOption.map (·.place) = some (.mem 0x200078)) (by decide +kernel)
    obtain ⟨l, p, q⟩ := Option.map_eq_some_iff.mp (of_decide_eq_true k)
    obtain ⟨t, f, g, _⟩ := (h grown grown s1 grown grown grown 0 3 6 24 ⟨0, 0, ⟨.lbres 5 3, 0, grown.me, 0, [], 0⟩⟩ ⟨.lbres 5 3, 0, grown.me, 0, [], 0⟩ 0 n (.ofNat 0 0) []
      (.ofNat 0) l (by decide +kernel)).2.2.2.2.1 (by decide +kernel) a (by decide +kernel) p
    exact ⟨t, f, by rw [← q]; exact g.trans (by decide +kernel)⟩
  · obtain ⟨l, s0, a, k⟩ := okThen_ex (r := labelOperands (.lbld 5 3 33) false [3] grown) (k := fun l _ =>
      l.map (·.region.index) = [1]) (by decide +kernel)
    obtain ⟨o, e, k⟩ := List.map_eq_singleton_iff.mp (of_decide_eq_true k)
    rw [e] at a
    have b := (h grown s0 grown grown grown grown 0 3 5 33 o o.region 0 0 (.ofNat 0 0) [] (.ofNat 0) (physical 0) (by decide +kernel)).2.2.2.2.2 _ false (.head _)
      (by decide +kernel) a (.inl (by decide))
    rw [k] at b
    exact b

end Sys2Proof.Tests
end

