-- ==== Sys2Proof/Tests/MessageWitness.lean ====
section
/-!
SUPPORT. Concrete states that meet the hypotheses of the statements about messages.
-/
set_option Elab.async false
set_option maxRecDepth 100000

namespace Sys2Proof.Tests
open Sys2Proof Sys2Proof.Machine

/-- A message of a class for slot 2 of core 7, from slot 0 of core 0. -/
def letter (cls : BitVec 3) : Message :=
  { dest := 0x72, sender := 0, tenant := 0, cls := cls, origin := .slot, payload := #v[1, 2, 3, 4], body := .plain }

/-- Slot 0 of a partition of 8 cores; x6 names slot 2 of core 7, x8 to x11 a payload; `n` messages leave, and a change. -/
def sender (n : Nat) (f : Core → Core := id) : State :=
  (withX [(6, 0x72), (8, 1), (9, 2), (10, 3), (11, 2)]).modCore 0 fun q => f { q with plen := 8, iface := List.replicate n (letter 7) }

theorem witness_MessageForms_send (h : Obligations.MessageForms) :
    (∃ t, exec (.msend 6 8 0) (sender 0) = .next t ∧ ∃ e ∈ t.agenda, e.event.kind = .messageArrival ∧ e.event.args.core = 7) ∧
    (∃ t, exec (.msendnb 5 6 8 7) (sender 7) = .next t ∧ t.me.getX 5 = 0) ∧
    exec (.msend 6 8 0) (sender 8) = .next ((sender 8).modMe fun t => t.park .memwait .interface) ∧
    exec (.msendnb 5 6 8 7) (sender 8) = .next ((sender 8).wrote 5 1) := by
  refine ⟨?_, ?_, ?_, ?_⟩
  · obtain ⟨t, a, _, _, b, _⟩ := (h.1 (sender 0) 0 6 8 0 (.msend 6 8 0) (.head _) (by decide +kernel) (by decide +kernel) (by decide +kernel) (by decide +kernel)
      (by decide +kernel) (by decide +kernel)).1 (by decide +kernel)
    obtain ⟨e, m, c, d, _⟩ := b (by decide +kernel)
    exact ⟨t, a, e, m, c, d.trans (by decide +kernel)⟩
  · obtain ⟨t, a, _, b, _⟩ := (h.1 (sender 7) 5 6 8 7 (.msendnb 5 6 8 7) (.tail _ (.head _)) (by decide +kernel) (by decide +kernel) (by decide +kernel)
      (by decide +kernel) (by decide +kernel) (by decide +kernel)).1 (by decide +kernel)
    exact ⟨t, a, b rfl⟩
  · exact ((h.1 (sender 8) 0 6 8 0 (.msend 6 8 0) (.head _) (by decide +kernel) (by decide +kernel) (by decide +kernel) (by decide +kernel)
      (by decide +kernel) (by decide +kernel)).2 (by decide +kernel)).1 rfl
  · exact ((h.1 (sender 8) 5 6 8 7 (.msendnb 5 6 8 7) (.tail _ (.head _)) (by decide +kernel) (by decide +kernel) (by decide +kernel)
      (by decide +kernel) (by decide +kernel) (by decide +kernel)).2 (by decide +kernel)).2 rfl

/-- Slot 0 runs a handler, or is bound to class 7, or not. -/
def handling : State := (sender 0 fun q => { q with bindings := q.bindings.set 7 (some (0, 0x800)) }).modMe fun t => { t with handler := some 7 }
def bound : State := sender 0 fun q => { q with bindings := q.bindings.set 7 (some (0, 0x800)), inbox := [letter 7] }

theorem witness_MessageForms_handlers (h : Obligations.MessageForms) :
    exec .mdone handling = .next (handling.modMe fun t => { t.park .msgwait .none with handler := none }) ∧
    exec .mdone bound = .next (bound.traps 0x12 (xvalUnit .mdone 0 2)) ∧ exec .wfm bound = .next (bound.modMe fun t => t.park .msgwait .none) ∧
    exec .wfm (sender 0) = .next ((sender 0).traps 0x12 (xvalUnit .wfm 0 4)) := by
  refine ⟨?_, ?_, ?_, ?_⟩
  · exact (h.2.1 handling 7 (by decide +kernel)).1 (by decide +kernel)
  · exact (h.2.1 bound 7 (by decide +kernel)).2 (by decide +kernel)
  · exact (h.2.2.1 bound (by decide +kernel) (by decide +kernel)).1 (by decide +kernel)
  · exact (h.2.2.1 (sender 0) (by decide +kernel) (by decide +kernel)).2 (by decide +kernel)

theorem witness_MessageForms_bind (h : Obligations.MessageForms) :
    (∃ t, exec (.mbind 6 1) (withX [(6, 4)] (sender 0)) = .next t ∧ t.me.state = .msgwait) ∧
    (∃ t, exec (.mbind 6 7) (withX [(6, 5)] (sender 0)) = .next t ∧ t.me.pc = 0x104) ∧
    ∃ t, exec (.mbind 6 7) (withX [(6, 3)] bound) = .next t ∧ t.myCore.bindings[(7 : Fin 8)] = none := by
  refine ⟨?_, ?_, ?_⟩
  · obtain ⟨t, a, _, _, _, b⟩ := (h.2.2.2.1 (withX [(6, 4)] (sender 0)) 6 1 1 0 (by decide +kernel) (by decide +kernel) (by decide +kernel) (by decide +kernel)).1
      (by decide +kernel) (by decide +kernel)
    exact ⟨t, a, (b (by decide +kernel)).2⟩
  · obtain ⟨t, a, _, _, b, _⟩ := (h.2.2.2.1 (withX [(6, 5)] (sender 0)) 6 7 7 0 (by decide +kernel) (by decide +kernel) (by decide +kernel) (by decide +kernel)).1
      (by decide +kernel) (by decide +kernel)
    exact ⟨t, a, (b (by decide +kernel)).1⟩
  · obtain ⟨t, a, b, _⟩ := (h.2.2.2.1 (withX [(6, 3)] bound) 6 7 7 0x800 (by decide +kernel) (by decide +kernel) (by decide +kernel) (by decide +kernel)).2
      (by decide +kernel) (by decide +kernel)
    exact ⟨t, a, b⟩

/-- Mailbox word 3 of box 7 holds 9, full; the forager acts. -/
def mailbox : State :=
  let s := start.modCore 0 fun q => { q with mail := q.mail.set 31 { word := 9, full := true } }
  { s.setSlot 0 15 { s.me with pc := 0x300 } with cur := { core := 0, slot := 15 } }

theorem witness_MessageForms_mailbox (h : Obligations.MessageForms) :
    (∃ t, exec (.mbput 0 6 3) (sender 0) = .next t ∧ t.readLoc (.mail 0 0 3) 8 = 0x72) ∧ (∃ t, exec (.mbget 5 7 3) mailbox = .next t ∧ t.me.getX 5 = 9) ∧
    exec (.mbget 5 7 3) (sender 0) = .next ((sender 0).traps 0x12 (xvalUnit (.mbget 5 7 3) 7 6)) := by
  refine ⟨?_, ?_, ?_⟩
  · obtain ⟨t, a, b, _⟩ := (h.2.2.2.2.1 (sender 0) 0 6 0 3 (fun _ m => nomatch m)).1 (by decide +kernel) (by decide +kernel) (by decide +kernel)
    exact ⟨t, a, b.trans (by decide +kernel)⟩
  · obtain ⟨t, a, b, _⟩ := (h.2.2.2.2.1 mailbox 5 6 7 3 (fun _ m => nomatch m)).2.1 (by decide +kernel) (by decide +kernel) (by decide +kernel) (by decide +kernel)
    exact ⟨t, a, b.trans (by decide +kernel)⟩
  · exact (h.2.2.2.2.1 (sender 0) 5 6 7 3 (fun _ m => nomatch m)).2.2 (by decide +kernel) (by decide +kernel)

/-- x6 names slot 2 of core 7 of endpoint 5; the hypervisor acts. -/
def abroad : State := withX [(6, 0x28072)] ((sender 0).modMe fun t => { t with tenant := hvTenant })

theorem witness_MessageForms_wake (h : Obligations.MessageForms) :
    exec (.wake 6) (sender 0) = .next (((sender 0).post .wakeMessage { core := 7, slot := 2, word := 0x72 } 1).past 4) ∧
    (let s := withX [(6, 3 <<< 44)] ((sender 0).modMe fun t => { t with priv := .s }); exec (.wake 6) s = .next (s.past 4)) ∧
    (let s := withX [(6, 5 <<< 44)] (sender 0); exec (.wake 6) s = .next (s.traps 0x02 (xvalSub (.wake 6) 7))) ∧
    ∃ t, exec (.wake 6) abroad = .next t ∧ t.kept.map (·.wake) = [some 0x28072] := by
  refine ⟨?_, ?_, ?_, ?_⟩
  · refine ((h.2.2.2.2.2 (sender 0) 6 (by decide +kernel)).1 (by decide +kernel) (by decide +kernel)).trans ?_
    rw [show (sender 0).me.getX 6 = 0x72 by decide +kernel, show (sender 0).me.tenant = 0 by decide +kernel]
    rfl
  · exact (h.2.2.2.2.2 (withX [(6, 3 <<< 44)] ((sender 0).modMe fun t => { t with priv := .s })) 6 (by decide +kernel)).2.2.1 (by decide +kernel) (by decide +kernel)
  · exact (h.2.2.2.2.2 (withX [(6, 5 <<< 44)] (sender 0)) 6 (by decide +kernel)).2.2.2 (by decide +kernel) (by decide +kernel) (by decide +kernel)
  · exact ⟨_, (h.2.2.2.2.2 abroad 6 (by decide +kernel)).2.1 (.inl (by decide +kernel)) (by decide +kernel), by decide +kernel⟩

/-! Events. -/

/-- The message arrives at core 7, where class 7 is bound to slot 2 or to none. -/
def arriving (m : Message) (b : Option (SlotId × Word)) : State :=
  { (sender 0).modCore 7 fun q => { q with plen := 8, bindings := q.bindings.set 7 b } with args := { core := 7, msg := some m } }

theorem witness_MessageEvents_arrival (h : Obligations.MessageEvents) :
    (∃ t, exec .messageArrival (arriving (letter 7) (some (2, 0x800))) = .next t ∧ (t.core 7).inbox = [letter 7]) ∧
    ∃ t, exec .messageArrival (arriving (letter 7) none) = .next t ∧ ∃ e ∈ t.agenda, ∃ b, e.event.args.msg = some b ∧ b.payload[0] = 0x70212 := by
  refine ⟨?_, ?_⟩
  · obtain ⟨t, a, b, _⟩ := (h.1 (arriving (letter 7) (some (2, 0x800))) (letter 7) rfl rfl nofun (by decide +kernel) (by decide +kernel) rfl rfl rfl
      rfl rfl (by decide +kernel) rfl (by decide +kernel)).1 (by decide +kernel)
    exact ⟨t, a, b.trans (by decide +kernel)⟩
  · obtain ⟨t, a, _, _, e, m, _, _, b, c, _, _, d⟩ := (h.1 (arriving (letter 7) none) (letter 7) rfl rfl nofun (by decide +kernel) (by decide +kernel) rfl rfl rfl
      rfl rfl (by decide +kernel) rfl (by decide +kernel)).2 2 (by decide +kernel) (by decide +kernel)
      (by decide +kernel)
    exact ⟨t, a, e, m, b, c, by rw [d]; decide +kernel⟩

/-- Slot 2 of core 7 in a state, with an event about it. -/
def target (f : Slot → Slot) (w : Word) (l : List Message := []) : State :=
  let s := (sender 0).modCore 7 fun q => { q with inbox := l, bindings := q.bindings.set 7 (some (2, 0x800)) }
  { s.setSlot 7 2 (f { Slot.powerOn with inc := 0xFFFF, state := .run }) with args := { core := 7, slot := 2, word := w } }

/-- Slot 2 of core 7 at incarnation 0xFFFF, and at 0. -/
def dest (inc : Word) : Word := 0x72 ||| inc <<< 25

theorem witness_MessageEvents_slot (h : Obligations.MessageEvents) :
    (∃ t, exec .messageDelivery (target (fun t => t.park .msgwait .none) 0 [letter 7]) = .next t ∧ (t.slot 7 2).pc = 0x800 ∧ (t.slot 7 2).getX 13 = 4) ∧
    (let s := target (fun t => t.park .xlwait (.translation 0x40 .load)) (dest 0xFFFF); exec .wakeMessage s = .next (s.modSlot 7 2 Slot.unpark)) ∧
    (let s := target (fun t => t.park .xlwait (.translation 0x40 .load)) (dest 0xFFFF)
     exec .convert s = .next (s.modSlot 7 2 fun t => { t.unpark with cause := some (0x14, 0x40) })) ∧
    (let s := target id (dest 0xFFFF); exec .halt s = .next (s.modSlot 7 2 fun t => { t with stopped := true, stoppedAt := s.now })) ∧
    (let s := target id (dest 0xFFFF); exec .stopRequest s = .next (s.modSlot 7 2 fun t => { t with pendStop := true })) := by
  have k (f : Slot → Slot) := h.2.2.2.1 (target f (dest 0xFFFF)) (show (7 : CoreId) = destCore (dest 0xFFFF) by decide +kernel) rfl rfl rfl rfl rfl rfl
  refine ⟨?_, ?_, ?_, ?_, ?_⟩
  · obtain ⟨t, a, _, b, _, _, _, _, c, _⟩ := h.2.2.1 (target (fun t => t.park .msgwait .none) 0 [letter 7]) (letter 7) 7 2 0x800 (by decide +kernel) (by decide +kernel)
      (by decide +kernel) (by decide +kernel)
    exact ⟨t, a, b, c⟩
  · exact ((k _).2.1 (show wakeChannel (dest 0xFFFF) = none by decide +kernel) (by decide +kernel)).1 rfl
  · exact ((k _).2.1 (show wakeChannel (dest 0xFFFF) = none by decide +kernel) (by decide +kernel)).2.1 0x40 .load rfl rfl
  · exact ((k _).2.1 (show wakeChannel (dest 0xFFFF) = none by decide +kernel) (by decide +kernel)).2.2.1 rfl
  · exact ((k _).2.1 (show wakeChannel (dest 0xFFFF) = none by decide +kernel) (by decide +kernel)).2.2.2.2

/-- The transfer of a channel of core 7 is stalled, and a wake names channel `ch`. -/
def stalledAt (ch : BitVec 2) (w : Word) : State :=
  let a : Transfer := { op := .fill, id := 0, desc := Vector.replicate 6 0, arg := 0, agent := start.me, total := 4, done := 0, index := none,
                        got := [], owed := [], stalled := some (0x40, .store), heldSince := none, heldAt := 0, bad := none, entry := 0, walking := none }
  (target id w).modChannel 7 ch fun _ => { next := 1, queue := [a], latch := none }

theorem witness_MessageEvents_resume (h : Obligations.MessageEvents) :
    (∃ t, exec .slotResume (target (fun t => { t with stopped := true }) (dest 0xFFFF)) = .next t ∧ (t.slot 7 2).stopped = false) ∧
    exec .halt (target id (dest 0)) = .next (target id (dest 0)) ∧
    ∃ t, exec .wakeMessage (stalledAt 3 (channelWord 0 7 3)) = .next t ∧ (t.channel 7 3).queue.map (·.stalled) = [none] := by
  refine ⟨?_, ?_, ?_⟩
  · obtain ⟨t, a, b, _⟩ := ((h.2.2.2.1 (target (fun t => { t with stopped := true }) (dest 0xFFFF)) (by decide +kernel) rfl rfl rfl rfl rfl rfl).2.1
      (by decide +kernel) (by decide +kernel)).2.2.2.1 rfl
    refine ⟨t, a, ?_⟩
    rw [show destSlot (target (fun t => { t with stopped := true }) (dest 0xFFFF)).args.word = 2 by decide +kernel] at b
    exact (congrArg Slot.stopped b).trans rfl
  · exact (h.2.2.2.1 (target id (dest 0)) (by decide +kernel) rfl rfl rfl rfl rfl rfl).2.2 (by decide +kernel) (by decide +kernel) .halt (.tail _ (.tail _ (.head _)))
  · exact ⟨_, (h.2.2.2.1 (stalledAt 3 (channelWord 0 7 3)) (by decide +kernel) rfl rfl rfl rfl rfl rfl).1 3 (by decide +kernel), by decide +kernel⟩

/-- A hop of slot 0 on its way by comb 0, of core 0's partition. -/
def byComb : State :=
  let hs : HopState := { pc := 0, priv := 0, fflags := 0, fewlim := 0, xs := Vector.replicate 14 0, lbs := Vector.replicate 4 0 }
  { sender 0 with args := { core := 0, msg := some { letter 0 with body := .hop hs (some 0) } } }

theorem witness_MessageEvents_hop (h : Obligations.MessageEvents) : ∃ t, exec .messageArrival byComb = .next t ∧ ∃ e ∈ t.agenda, e.event.kind = .messageArrival := by
  obtain ⟨d, k⟩ := some_ex (show (byComb.hopTarget 0 0).isSome by decide +kernel)
  exact ⟨_, h.2.1 byComb _ _ 0 d rfl rfl rfl k, _, List.mem_append_right _ (.head _), rfl⟩

/-- A batch of one message for a host endpoint, due. -/
def batched : State :=
  { start with batches := [{ pbase := 0, endpoint := 512, tenant := 0, oldest := 3, msgs := [letter 7] }], args := { endpoint := 512, tenant := 0, num := 3 } }

theorem witness_MessageEvents_batch (h : Obligations.MessageEvents) : ∃ t, exec .hostBatchTimeout batched = .next t ∧ t.outbox.length = 1 :=
  by
  obtain ⟨t, p, a, _, b, _⟩ := h.2.2.2.2 batched _ [] rfl rfl rfl rfl rfl
  exact ⟨t, a, by rw [b]; rfl⟩

end Sys2Proof.Tests
end

