-- ==== Sys2Proof/Tests/MoveWitness.lean ====
section
/-!
SUPPORT. Concrete states that meet the hypotheses of the statement about the copy engine.
-/
set_option Elab.async false
set_option maxRecDepth 100000

namespace Sys2Proof.Tests
open Sys2Proof Sys2Proof.Machine

/-- The forager of core 0 at H, beside a descriptor at 0x400 that names 0x500 and 0x600; x6 is its address, x7 a length of 8. -/
def mover : State :=
  let s := ((start.memWrite 0x400 8 0x500).memWrite 0x408 8 0x600).memWrite 0x600 8 0x77
  let s := s.setSlot 0 15 { s.me with pc := 0x300 }
  ({ s with cur := { core := 0, slot := 15 } }).modMe fun t => t.setXs [(6, 0x400), (7, 8), (8, 0x401)]

/-- A copy of `n` words that has done `d`. -/
def copying (n d : Nat) (bad : Option Nat) : Transfer :=
  { op := .cp, id := 9, desc := #v[0x500, 0x600, 0, 0, 0, 0], arg := 8, agent := mover.me, total := n, done := d, index := none, got := [], owed := [],
    stalled := none, heldSince := none, heldAt := 0, bad := bad, entry := 0, walking := none }

/-- Channel 3 with a queue and a latch. -/
def channel (l : List Transfer) (next : BitVec 32) (latch : Option (BitVec 32 × Nat)) : State :=
  { mover.modChannel 0 3 fun _ => { next := next, queue := l, latch := latch } with args := { core := 0, ch := 3 } }

theorem witness_Transfers_command (h : Obligations.Transfers) :
    (∃ t, exec (.mvcp 5 3 6 7) (channel [] 0xFFFFFFFF none) = .next t ∧ t.me.getX 5 = 0xFFFFFFFF ∧ (t.channel 0 3).next = 0) ∧
    (let s := channel (List.replicate 16 (copying 1 0 none)) 0 none; exec (.mvcp 5 3 6 7) s = .next (s.waits (.channelRoom 3))) ∧
    ∃ t a, exec (.mvcp 5 3 6 8) (channel [] 0 none) = .next t ∧ (t.channel 0 3).queue = [a] ∧ a.bad = some 5 := by
  refine ⟨?_, ?_, ?_⟩
  · obtain ⟨w, v, a, k⟩ := okThen_ex (r := readDescriptor ((channel [] 0xFFFFFFFF none).me.getX 6) (channel [] 0xFFFFFFFF none))
      (k := fun _ v => v.channel v.cur.core 3 = { next := 0xFFFFFFFF, queue := [], latch := none }) (by decide +kernel)
    have k := of_decide_eq_true k
    obtain ⟨t, x, b, c, _, _, _, _, _, d, _⟩ := (h.1 (channel [] 0xFFFFFFFF none) _ v 5 6 7 3 (.mvcp 5 3 6 7) _ 0 0 w.1 w.2 (.head _) (by decide +kernel)
      (by decide +kernel) rfl a (fun e => by rcases e with e | e <;> cases e)).2 (by rw [k]; decide)
    exact ⟨t, b, by rw [c, k]; rfl, d.trans (by rw [k]; rfl)⟩
  · obtain ⟨w, v, a, k⟩ := okThen_ex (r := readDescriptor ((channel (List.replicate 16 (copying 1 0 none)) 0 none).me.getX 6)
      (channel (List.replicate 16 (copying 1 0 none)) 0 none)) (k := fun _ v => (v.channel v.cur.core 3).queue.length = 16) (by decide +kernel)
    exact (h.1 (channel (List.replicate 16 (copying 1 0 none)) 0 none) _ v 5 6 7 3 (.mvcp 5 3 6 7) _ 0 0 w.1 w.2 (.head _) (by decide +kernel)
      (by decide +kernel) rfl a (fun e => by rcases e with e | e <;> cases e)).1 (by rw [of_decide_eq_true k] <;> decide)
  · obtain ⟨w, v, a, k⟩ := okThen_ex (r := readDescriptor ((channel [] 0 none).me.getX 6) (channel [] 0 none))
      (k := fun w v => v.channel v.cur.core 3 = { next := 0, queue := [], latch := none } ∧ v.commandBad v.cur.core .cp w.1 0x401 = true) (by decide +kernel)
    obtain ⟨k, m⟩ := of_decide_eq_true k
    obtain ⟨t, x, b, _, _, _, _, _, _, _, d, _, _, _, _, _, _, e⟩ := (h.1 (channel [] 0 none) _ v 5 6 8 3 (.mvcp 5 3 6 8) _ 0 0 w.1 w.2 (.head _) (by decide +kernel)
      (by decide +kernel) rfl a (fun e => by rcases e with e | e <;> cases e)).2 (by rw [k]; decide)
    have y : (channel [] 0 none).me.getX 8 = 0x401 := by decide +kernel
    exact ⟨t, x, b, d.trans (by rw [k]; rfl), by rw [e, y, m]; rfl⟩

theorem witness_Transfers_watermark (h : Obligations.Transfers) :
    (∃ t, exec (.mvid 5 3) (channel [copying 1 0 none] 10 none) = .next t ∧ t.me.getX 5 = 9) ∧
    (let s := channel [copying 1 0 none] 10 none; exec (.mvwait 3 7) s = .next (s.past 4)) ∧
    (let s := channel [copying 1 0 none] 0x401 none; exec (.mvwait 3 8) s = .next (s.waits (.transfer 3 0x401))) ∧
    (let s := channel [] 12 (some (8, 5)); ∃ t, exec (.mvwait 3 7) s = .next t ∧ (t.channel 0 3).latch = none ∧ t.me.bankH.xval = 0x00000008_00050003) ∧
    (let s := channel [] 12 (some (9, 5)); exec (.mvwait 3 7) s = .next (s.past 4)) := by
  refine ⟨?_, ?_, ?_, ?_, ?_⟩
  · exact ⟨_, (h.2.1 (channel [copying 1 0 none] 10 none) 5 7 3).1 (by decide +kernel), by decide +kernel⟩
  · exact ((h.2.1 (channel [copying 1 0 none] 10 none) 5 7 3).2 (by decide +kernel)).2.1 (by decide +kernel) (by decide +kernel)
  · exact ((h.2.1 (channel [copying 1 0 none] 0x401 none) 5 8 3).2 (by decide +kernel)).1 (by decide +kernel)
  · exact ⟨_, ((h.2.1 (channel [] 12 (some (8, 5))) 5 7 3).2 (by decide +kernel)).2.2.1 8 5 (by decide +kernel) (by decide +kernel) (by decide +kernel) (by decide +kernel),
      by decide +kernel⟩
  · exact ((h.2.1 (channel [] 12 (some (9, 5))) 5 7 3).2 (by decide +kernel)).2.2.2 9 5 (by decide +kernel) (by decide +kernel) (by decide +kernel)

/-- An mvring that waits for a slot of ring 1. -/
def ringMove : State := (channel [{ copying 0 0 none with op := .ring, desc := #v[1, 0x600, 0, 0, 0, 0] }] 10 none).modCore 0 fun q =>
  q.setRing 1 { base := 0, n := 4, size := 128, head := 0, tail := 3, filled := 3, held := [] }

/-- An mvfill of two words with 8. -/
def filling : Transfer := { copying 2 0 none with op := .fill, desc := #v[0x500, 8, 0, 0, 0, 0], arg := 16 }

theorem witness_Transfers_unit (h : Obligations.Transfers) :
    (∃ t, exec .transferComplete (channel [copying 1 0 (some 5)] 10 none) = .next t ∧ (t.channel 0 3).latch = some (9, 5)) ∧
    (∃ t, exec .transferComplete (channel [copying 2 1 none] 10 none) = .next t ∧ (t.channel 0 3).queue = []) ∧
    (∃ t, exec .transferComplete (channel [copying 2 0 none] 10 none) = .next t ∧ (t.channel 0 3).queue = [copying 2 1 none]) ∧
    (∃ t, exec .transferComplete (channel [copying 2 2 none] 10 none) = .next t ∧ (t.channel 0 3).queue = []) ∧
    (∃ t, exec .transferComplete (channel [filling] 10 none) = .next t ∧ Cells.readNat t.mem 0x500 8 = 8) ∧
    ∃ t, exec .mvringSlotFree ringMove = .next t ∧ (t.channel 0 3).queue.map (·.index) = [some 3] := by
  refine ⟨?_, ?_, ?_, ?_, ?_, ?_⟩
  · obtain ⟨t, a, _, _, b⟩ := (h.2.2 (channel [copying 1 0 (some 5)] 10 none) _ [] rfl).1 5 rfl (by decide)
    exact ⟨t, a, b.trans rfl⟩
  · let s := channel [copying 2 1 none] 10 none
    obtain ⟨w, u, a, k⟩ := okThen_ex (r := fetchWord mover.me 0x608 { s with cur := { core := 0, slot := forager } })
      (k := fun w u => okThen (depositWord mover.me 0x508 w.1 w.2 u) fun _ _ => true) (by decide +kernel)
    obtain ⟨_, v, b, _⟩ := okThen_ex k
    obtain ⟨t, c, _, _, _, d, _⟩ := (h.2.2 s _ [] rfl).2.1 8 w u v (by decide +kernel) rfl rfl (by decide) nofun (by decide) a b
    exact ⟨t, c, d rfl⟩
  · let s := channel [copying 2 0 none] 10 none
    obtain ⟨w, u, a, k⟩ := okThen_ex (r := fetchWord mover.me 0x600 { s with cur := { core := 0, slot := forager } })
      (k := fun w u => okThen (depositWord mover.me 0x500 w.1 w.2 u) fun _ _ => true) (by decide +kernel)
    obtain ⟨_, v, b, _⟩ := okThen_ex k
    obtain ⟨t, c, _, _, _, _, d⟩ := (h.2.2 s _ [] rfl).2.1 0 w u v (by decide +kernel) rfl rfl (by decide) nofun (by decide) a b
    exact ⟨t, c, d (by decide)⟩
  · obtain ⟨t, a, b, _⟩ := (h.2.2 (channel [copying 2 2 none] 10 none) _ [] rfl).2.2.2.1 rfl (by decide +kernel) (by decide)
    exact ⟨t, a, b⟩
  · obtain ⟨b, v, a, k⟩ := okThen_ex (r := transferUnit 3 filling { channel [filling] 10 none with cur := { core := 0, slot := forager } })
      (k := fun _ v => Cells.readNat v.mem 0x500 8 = 8) (by decide +kernel)
    obtain ⟨t, c, d, _⟩ := (h.2.2 (channel [filling] 10 none) _ [] rfl).2.2.1 b v (by decide +kernel) rfl (by decide) nofun a
    exact ⟨t, c, (congrArg (Cells.readNat · 0x500 8) d).trans (of_decide_eq_true k)⟩
  · obtain ⟨t, a, b, _⟩ := (h.2.2 ringMove { copying 0 0 none with op := .ring, desc := #v[1, 0x600, 0, 0, 0, 0] } [] (by decide +kernel)).2.2.2.2 _ rfl rfl rfl
      (show (ringMove.core 0).ring 1 = some { base := 0, n := 4, size := 128, head := 0, tail := 3, filled := 3, held := [] } by decide +kernel) (by decide)
    exact ⟨t, a, by rw [show t.channel 0 3 = t.channel ringMove.args.core ringMove.args.ch from rfl, b]; rfl⟩

end Sys2Proof.Tests
end

