-- ==== Sys2Proof/Tests/PartitionWitness.lean ====
section
/-!
SUPPORT. Concrete states that meet the hypotheses of the statement about partitions and their schedulers.
-/
set_option Elab.async false
set_option maxRecDepth 100000

namespace Sys2Proof.Tests
open Sys2Proof Sys2Proof.Machine

/-- The first tenant entry of the partition of core 0 (R265): flags, budget bytes, tenant 7, period 100000, context area 0x10000. -/
def tenantCells (flags b0 b1 b2 : Byte) : List Host.Cell :=
  keepIf (fun c => c.2 ≠ 0)
    [(1072, flags), (1073, 7), (1075, 0xA0), (1076, 0x86), (1077, 1), (1079, b0), (1080, b1), (1081, b2), (1085, 1)]

/-- The partition of cores 0 to 7 with a request word of bytes `w`, and an empty status word. -/
def partition (w : List Host.Cell) (e : List Host.Cell) (d : Option Scheduler) : State :=
  let s := { start with mem := w ++ e, memEmpty := [8], schedulers := match d with | some d => [d] | none => [], args := { core := 0 } }
  s.modCore 0 fun q => { q with plen := 8 }

/-- Entry 0 valid with a budget of 1000, in a state; one without a budget; one that takes the whole period. -/
def tenant (st : Byte) : List Host.Cell := tenantCells (0x80 + 16 * st) 0xE8 3 0

/-- The scheduler of the partition, with that entry committed. -/
def admits (st : Byte) : Scheduler :=
  { newScheduler 0 with admitted := [(0, BitVec.ofNat 512 ((tenant st).foldl (fun a c => a + c.2.toNat * 2 ^ (8 * (c.1 - 1024))) 0))] }

theorem witness_Partitions_commit (h : Obligations.Partitions) :
    (∃ t, exec .commit (partition [(0, 1)] (tenantCells 0x80 0 0 0) none) = .next t ∧ t.memRead 8 8 % 2 ^ 32 = 2) ∧
    (∃ t, exec .commit (partition [(0, 1)] (tenantCells 0x80 0xA0 0x86 1) none) = .next t ∧ t.memRead 8 8 % 2 ^ 32 = 1) ∧
    (∃ t, exec .commit (partition [(0, 1)] (tenant 0) none) = .next t ∧ t.memRead 8 8 % 2 ^ 32 = 0 ∧ entryState (t.tenantEntry 0 0) = 1) ∧
    (∃ t, exec .commit (partition [(0, 7)] (tenant 0) none) = .next t ∧ t.memRead 8 8 % 2 ^ 32 = 4) ∧
    ∃ t, exec .commit (partition [(0, 1), (1, 1)] (tenant 0) none) = .next t ∧ t.memRead 8 8 % 2 ^ 32 = 4 := by
  refine ⟨?_, ?_, ?_, ?_, ?_⟩
  · obtain ⟨t, a, _, b, _⟩ := ((h.1 (partition [(0, 1)] (tenantCells 0x80 0 0 0) none) 1 .commit 0 _ 0 (by decide +kernel) (by decide +kernel) (by decide +kernel)
      (by decide +kernel) (fun _ m => nomatch m) (by decide +kernel) rfl (by decide +kernel)).1 (by decide +kernel) (by decide +kernel) rfl).1 (by decide +kernel)
    exact ⟨t, a, b⟩
  · obtain ⟨t, a, _, b, _⟩ := ((h.1 (partition [(0, 1)] (tenantCells 0x80 0xA0 0x86 1) none) 1 .commit 0 _ 0 (by decide +kernel) (by decide +kernel)
      (by decide +kernel) (by decide +kernel) (fun _ m => nomatch m) (by decide +kernel) rfl (by decide +kernel)).1 (by decide +kernel) (by decide +kernel) rfl).2.1
      (by decide +kernel) (by decide +kernel)
    exact ⟨t, a, b⟩
  · obtain ⟨t, a, ⟨_, b, _⟩, c⟩ := ((h.1 (partition [(0, 1)] (tenant 0) none) 1 .commit 0 _ 0 (by decide +kernel) (by decide +kernel)
      (by decide +kernel) (by decide +kernel) (fun _ m => nomatch m) (by decide +kernel) rfl (by decide +kernel)).1 (by decide +kernel) (by decide +kernel) rfl).2.2
      (by decide +kernel) (by decide +kernel) rfl rfl rfl
    exact ⟨t, a, b, (c 0 (by decide) (by decide +kernel)).1⟩
  · obtain ⟨t, a, _, b, _⟩ := (h.1 (partition [(0, 7)] (tenant 0) none) 7 .commit 0 _ 0 (by decide +kernel) (by decide +kernel)
      (by decide +kernel) (by decide +kernel) (fun _ m => nomatch m) (by decide +kernel) rfl (by decide +kernel)).2.1 (by decide +kernel) rfl
    exact ⟨t, a, b⟩
  · obtain ⟨t, a, _, b, _⟩ := (h.1 (partition [(0, 1), (1, 1)] (tenant 0) none) 0x101 .commit 0 _ 0 (by decide +kernel) (by decide +kernel)
      (by decide +kernel) (by decide +kernel) (fun _ m => nomatch m) (by decide +kernel) rfl (by decide +kernel)).2.1 (by decide +kernel) rfl
    exact ⟨t, a, b⟩

/-- A request about core 7, of which tenant 7 has been vacated or not, with a forwarding entry. -/
def moving (w : List Host.Cell) (v : List (BitVec 16 × BitVec 10)) (f : List Forwarding) (d : Option Scheduler := some (admits 1)) : State :=
  (partition w (tenant 1) d).modCore 7 fun q => { q with plen := 8, vacated := v, forwarding := f, dead := w = [(0, 3), (4, 7)] }

def forwarding : Forwarding := { tenant := 7, package := 0, core := 9, expires := 50 }

theorem witness_Partitions_move (h : Obligations.Partitions) :
    (∃ t, exec .saveCore (moving [(0, 2), (4, 8)] [] []) = .next t ∧ t.memRead 8 8 % 2 ^ 32 = 4) ∧
    (∃ t, exec .saveCore (moving [(0, 2), (4, 7)] [] []) = .next t ∧ (t.core 7).vacated = [(7, 0)]) ∧
    (∃ t, exec .saveCore (moving [(0, 2), (4, 7), (5, 0x48)] [(7, 0)] []) = .next t ∧ ((t.core 7).forwarding.getLast?).map (·.core) = some 9) ∧
    (∃ t, exec .restoreCore (moving [(0, 3), (4, 7)] [(7, 0)] [forwarding]) = .next t ∧ (t.core 7).dead = false ∧ (t.core 7).vacatedFor 7 = false) ∧
    ∃ t, exec .clearForwarding (moving [(0, 4), (4, 7)] [] [forwarding]) = .next t ∧ ∀ g ∈ (t.core 7).forwarding, g.tenant ≠ 7 := by
  refine ⟨?_, ?_, ?_, ?_, ?_⟩
  · obtain ⟨t, a, _, b, _⟩ := (h.1 (moving [(0, 2), (4, 8)] [] []) 0x8_00000002 .saveCore 0 _ 8 (by decide +kernel) (by decide +kernel)
      (by decide +kernel) (by decide +kernel) (fun _ m => nomatch m) (by decide +kernel) rfl (by decide +kernel)).2.2.1 (by decide +kernel) (.head _)
    exact ⟨t, a, b⟩
  · obtain ⟨t, a, b, _⟩ := ((h.1 (moving [(0, 2), (4, 7)] [] []) 0x7_00000002 .saveCore 0 _ 7 (by decide +kernel) (by decide +kernel)
      (by decide +kernel) (by decide +kernel) (fun _ m => nomatch m) (by decide +kernel) rfl (by decide +kernel)).2.2.2.1 (by decide +kernel) (by decide +kernel)
      rfl (by decide +kernel)).1 (by decide +kernel) (by decide +kernel)
    exact ⟨t, a, b.trans (by decide +kernel)⟩
  · obtain ⟨t, g, a, _, b, _, c, _⟩ := ((h.1 (moving [(0, 2), (4, 7), (5, 0x48)] [(7, 0)] []) 0x4807_00000002 .saveCore 0 _ 7 (by decide +kernel) (by decide +kernel)
      (by decide +kernel) (by decide +kernel) (fun _ m => nomatch m) (by decide +kernel) rfl (by decide +kernel)).2.2.2.1 (by decide +kernel) (by decide +kernel)
      rfl (by decide +kernel)).2 (by decide +kernel)
    exact ⟨t, a, by rw [b]; exact congrArg some c⟩
  · obtain ⟨t, a, _, b, c, _⟩ := (h.1 (moving [(0, 3), (4, 7)] [(7, 0)] [forwarding]) 0x7_00000003 .restoreCore 0 _ 7 (by decide +kernel) (by decide +kernel)
      (by decide +kernel) (by decide +kernel) (fun _ m => nomatch m) (by decide +kernel) rfl (by decide +kernel)).2.2.2.2.1 (by decide +kernel) (by decide +kernel)
      rfl (by decide +kernel) (by decide +kernel) (by decide +kernel)
    exact ⟨t, a, b, c⟩
  · obtain ⟨t, a, _, b⟩ := (h.1 (moving [(0, 4), (4, 7)] [] [forwarding]) 0x7_00000004 .clearForwarding 0 _ 7 (by decide +kernel) (by decide +kernel)
      (by decide +kernel) (by decide +kernel) (fun _ m => nomatch m) (by decide +kernel) rfl (by decide +kernel)).2.2.2.2.2.1 (by decide +kernel)
      (by decide +kernel) rfl
    exact ⟨t, a, b⟩

theorem witness_Partitions_freeze (h : Obligations.Partitions) :
    (∃ t, exec .freeze (partition [(0, 5)] (tenant 1) (some (admits 1))) = .next t ∧ (t.scheduler 0).frozenAt = [(0, 0)]) ∧
    (∃ t, exec .freeze (partition [(0, 5)] (tenant 1) (some { admits 1 with frozenAt := [(0, 0)], engineOps := some 0 })) = .next t ∧
      entryState (t.tenantEntry 0 0) = 2) ∧
    ∃ t, exec .resume (partition [(0, 6)] (tenant 2) (some { admits 2 with frozenAt := [(0, 0)] })) = .next t ∧ entryState (t.tenantEntry 0 0) = 1 := by
  refine ⟨?_, ?_, ?_⟩
  · obtain ⟨t, a, b, _⟩ := ((h.1 (partition [(0, 5)] (tenant 1) (some (admits 1))) 5 .freeze 0 _ 0 (by decide +kernel) (by decide +kernel) (by decide +kernel) (by decide +kernel)
      (fun _ m => nomatch m) (by decide +kernel) rfl (by decide +kernel)).2.2.2.2.2.2.1 (by decide +kernel) rfl (by decide +kernel) (by decide +kernel)).1
      (by decide +kernel) (by decide +kernel) (fun _ m => nomatch m)
    exact ⟨t, a, b.trans (by decide +kernel)⟩
  · obtain ⟨t, a, b, _⟩ := ((h.1 (partition [(0, 5)] (tenant 1) (some { admits 1 with frozenAt := [(0, 0)], engineOps := some 0 })) 5 .freeze 0 _ 0
      (by decide +kernel) (by decide +kernel) (by decide +kernel) (by decide +kernel) (fun _ m => nomatch m) (by decide +kernel) rfl
      (by decide +kernel)).2.2.2.2.2.2.1 (by decide +kernel) rfl (by decide +kernel) (by decide +kernel)).2 0 0 rfl rfl rfl rfl (by decide +kernel)
    exact ⟨t, a, b⟩
  · obtain ⟨t, a, _, b, _⟩ := (h.1 (partition [(0, 6)] (tenant 2) (some { admits 2 with frozenAt := [(0, 0)] })) 6 .resume 0 _ 0 (by decide +kernel)
      (by decide +kernel) (by decide +kernel) (by decide +kernel) (fun _ m => nomatch m) (by decide +kernel) rfl (by decide +kernel)).2.2.2.2.2.2.2 0
      (by decide +kernel) (by decide +kernel) rfl (by decide +kernel) (by decide +kernel) rfl rfl
    exact ⟨t, a, b⟩

/-- The scheduler serves none while tenant 7 has work in slot 3 of core 0; or hands slots over from entry 0 to none. -/
def busyTenant : State :=
  (partition [] (tenant 1) (some (admits 1))).setSlot 0 3 { Slot.powerOn with tenant := 7, state := .run, pc := 0x900 }

def handing : State :=
  let s := (partition [] (tenant 1) (some { admits 1 with outgoing := some 0, handover := [(0, 3), (0, 4)] })).setSlot 0 3
    { Slot.powerOn with tenant := 7, state := .run, pc := 0x900 }
  { s with args := { core := 0, slot := 3 } }

theorem witness_Partitions_schedule (h : Obligations.Partitions) :
    (∃ t, exec .tenantDeadline (partition [] (tenant 1) (some (admits 1))) = .next t ∧ entryDeadline (t.tenantEntry 0 0) = 100000) ∧
    (let s := { partition [] (tenant 1) (some (admits 1)) with args := { core := 0, flag := true, num := 4 } }; exec .budgetExhausted s = .next s) ∧
    (∃ t, exec .slotHandover handing = .next t ∧ (t.scheduler 0).handover = [(0, 4)] ∧ t.readWord (contextAddr 0x10000 3 + 1472) = 0x900) ∧
    ∃ t, exec .forwardingExpiry { start.modCore 5 (fun q => { q with forwarding := [forwarding] }) with args := { core := 5, tenant := 7, num := 50 } } = .next t ∧
      (t.core 5).forwarding = [] := by
  refine ⟨?_, ?_, ?_, ?_⟩
  · obtain ⟨t, a, b⟩ := h.2.1 (partition [] (tenant 1) (some (admits 1))) (by decide +kernel) (by decide +kernel) (by decide +kernel) (by decide +kernel)
    exact ⟨t, a, (b.2.trans b.1).trans (by decide +kernel)⟩
  · exact (h.2.2.1 { partition [] (tenant 1) (some (admits 1)) with args := { core := 0, flag := true, num := 4 } } start (newScheduler 0)).1 rfl (by decide +kernel)
  · obtain ⟨t, a, b, c, _⟩ := h.2.2.2.1 handing { admits 1 with outgoing := some 0, handover := [(0, 3), (0, 4)] } 7 0x10000 0 (by decide +kernel) (.head _)
      ⟨(0, 4), .tail _ (.head _), by decide⟩ rfl (by decide +kernel) rfl (by decide +kernel) (by decide +kernel) (by decide +kernel) (by decide +kernel)
    exact ⟨t, a, b.trans (by decide +kernel), c.trans (by decide +kernel)⟩
  · obtain ⟨t, a, b, _⟩ := h.2.2.2.2 { start.modCore 5 (fun q => { q with forwarding := [forwarding] }) with args := { core := 5, tenant := 7, num := 50 } } forwarding
      (by decide +kernel) rfl rfl
    exact ⟨t, a, b⟩

theorem witness_Partitions_budget (h : Obligations.Partitions) : ∃ t, exec .budgetExhausted busyTenant = .next t ∧ (t.scheduler 0).serving = some 0 := by
  obtain ⟨t, a, b, _⟩ := (h.2.2.1 busyTenant _ _).2 rfl rfl (by decide +kernel) (by decide +kernel) rfl (by decide +kernel) (by decide +kernel)
  exact ⟨t, a, b.trans (by decide +kernel)⟩

end Sys2Proof.Tests
end

