-- ==== Sys2Proof/Tests/TreeWitness.lean ====
section
/-!
SUPPORT. Concrete states that meet the hypotheses of the statement about changes of a tree.
-/
set_option Elab.async false
set_option maxRecDepth 100000

namespace Sys2Proof.Tests
open Sys2Proof Sys2Proof.Machine

/-- No move of a region is under way. -/
def noMove (o : Operand) (s : State) : Bool := !s.moveUnderWay o.region.agent.tenant o.region.index

theorem noMove_ex {o : Operand} {s : State} {b : Bool} (h : (noMove o s && b) = true) :
    s.moveUnderWay o.region.agent.tenant o.region.index = false ∧ b = true := by
  rw [noMove, Bool.and_eq_true, Bool.not_eq_true'] at h
  exact h

/-- What follows the operand of `lbapp b7, b0`. -/
def appends (o : Operand) (p : Nat) (s1 : State) : Bool :=
  noMove o s1 && okThen (resolve o p s1) fun _ s2 => okThen (children o.region p (filled p) s2) fun l s3 =>
    okThen (insertChild o p l l.length true s3) fun y s4 => okThen (readControl o.region s4) fun c _ =>
    labelOf o.region.index c.gen y = 0x001_00_0_90000000000000000000000000

theorem append_runs : okThen ((oneLabel (.lbapp 7 0) true 0 none).run family) (fun q t => appends q.1 q.2 t) = true := by decide +kernel

theorem witness_TreeChanges_append (h : Obligations.TreeChanges) :
    ∃ t, exec (.lbapp 7 0) family = .next t ∧ t.me.getL 7 = 0x001_00_0_90000000000000000000000000 := by
  obtain ⟨o, p, s1, a, k⟩ := one_ex (k := appends) append_runs
  obtain ⟨mu, k⟩ := noMove_ex k
  obtain ⟨⟨e, n⟩, s2, b, k⟩ := okThen_ex k
  obtain ⟨l, s3, d, k⟩ := okThen_ex k
  obtain ⟨y, s4, f, k⟩ := okThen_ex k
  obtain ⟨c, s5, g, k⟩ := okThen_ex k
  obtain ⟨_, t, u, w, _⟩ := (((h.1 family s1 s2 s3 s4 s5 7 0 o p y n e l c (by decide +kernel)).2 mu).1 (by decide +kernel) a b d f g)
  exact ⟨t, u, w.trans (of_decide_eq_true k)⟩

/-- What follows the operand of `lbins b7, b2`. -/
def inserts (o : Operand) (p : Nat) (s1 : State) : Bool :=
  noMove o s1 && okThen (resolve o p s1) fun _ s2 => p ≠ 0 ∧ codeAt p (filled (parentPath p)) = some ⟨0, 1⟩ ∧
    okThen (children o.region (parentPath p) (filled (parentPath p)) s2) fun l s3 =>
    okThen (insertChild o (parentPath p) l (positionOf ⟨0, 1⟩ l + 1) false s3) fun y s4 => okThen (readControl o.region s4) fun c _ =>
    labelOf o.region.index c.gen y = 0x001_00_0_90000000000000000000000000

theorem insert_runs : okThen ((oneLabel (.lbins 7 2) true 2 none).run family) (fun q t => inserts q.1 q.2 t) = true := by decide +kernel

theorem witness_TreeChanges_insert (h : Obligations.TreeChanges) :
    ∃ t, exec (.lbins 7 2) family = .next t ∧ t.me.getL 7 = 0x001_00_0_90000000000000000000000000 := by
  obtain ⟨o, p, s1, a, k⟩ := one_ex (k := inserts) insert_runs
  obtain ⟨mu, k⟩ := noMove_ex k
  obtain ⟨⟨e, n⟩, s2, b, k⟩ := okThen_ex k
  obtain ⟨z, x, k⟩ := of_decide_eq_true k
  obtain ⟨l, s3, d, k⟩ := okThen_ex k
  obtain ⟨y, s4, f, k⟩ := okThen_ex k
  obtain ⟨c, s5, g, k⟩ := okThen_ex k
  obtain ⟨_, t, u, w, _⟩ := ((h.1 family s1 s2 s3 s4 s5 7 2 o p y n e l c (by decide +kernel)).2 mu).2.1 (by decide +kernel) a b z d ⟨_, x, f⟩ g
  exact ⟨t, u, w.trans (of_decide_eq_true k)⟩

theorem witness_TreeChanges_delete (h : Obligations.TreeChanges) : ∃ t, exec (.lbdel 2) family = .next t ∧ t.me.getL 2 = family.me.getL 2 := by
  obtain ⟨o, p, s1, a, k⟩ := one_ex (i := .lbdel 2) (ch := true) (a := 2) (n := none) (s := family)
    (k := fun o p s1 => noMove o s1 && okThen (resolve o p s1) fun _ s2 => p ≠ 0 ∧
      okThen (deleteEvent o.region p (filled p) s2) fun _ s3 => s3.me.getL 2 = family.me.getL 2) (by decide +kernel)
  obtain ⟨mu, k⟩ := noMove_ex k
  obtain ⟨⟨e, n⟩, s2, b, k⟩ := okThen_ex k
  obtain ⟨z, k⟩ := of_decide_eq_true k
  obtain ⟨_, s3, d, k⟩ := okThen_ex k
  obtain ⟨t, u, _, _, w⟩ := ((h.1 family s1 s2 s3 family family 0 2 o p 0 n e [] (.ofNat 0) (by decide +kernel)).2 mu).2.2 (by decide +kernel) a b z d
  exact ⟨t, u, (w 2).trans (of_decide_eq_true k)⟩

/-- A move of region 1 waits for its subtree's entry. -/
def moveWaits : State := { family with prefixJobs := [{
  id := 3, tenant := 0, region := 1, entry := 1, object := 0, agent := family.me, combs := [0], era := 0, move := some (0x80 * 2 ^ 96, 0x8C * 2 ^ 96),
  owed := [0], core := 0, slot := 1, pc := 0, at_ := physical 0, answer := none, ch := none, heldSince := none, heldAt := 0 }] }

theorem witness_TreeChanges_held (h : Obligations.TreeChanges) :
    ∃ r, exec (.lbdel 2) moveWaits = .next (moveWaits.modMe fun t => t.park .memwait (.region r)) := by
  obtain ⟨o, p, s1, a, k⟩ := one_ex (i := .lbdel 2) (ch := true) (a := 2) (n := none) (s := moveWaits)
    (k := fun o _ s1 => s1.moveUnderWay o.region.agent.tenant o.region.index) (by decide +kernel)
  exact ⟨_, (h.1 moveWaits s1 s1 s1 s1 s1 0 2 o p 0 0 (.ofNat 0 0) [] (.ofNat 0) (by decide +kernel)).1 (.lbdel 2) (.tail _ (.tail _ (.head _)))
    (by decide +kernel) a k⟩

/-- The two operands of a move and what follows. -/
theorem move_ex {i : Instr} {a b : BitVec 3} {s : State} {k : Operand → Nat → Shard → Operand → Nat → Shard → State → Bool}
    (h : okThen (moveLabels i a b s) (fun q t => k q.1.1 q.1.2.1 q.1.2.2 q.2.1 q.2.2.1 q.2.2.2 t) = true) :
    ∃ o x e q y g t, moveLabels i a b s = .ok ((o, x, e), (q, y, g)) t ∧ k o x e q y g t = true := by
  obtain ⟨⟨⟨o, x, e⟩, q, y, g⟩, t, a, b⟩ := okThen_ex h
  exact ⟨o, x, e, q, y, g, t, a, b⟩

theorem witness_TreeChanges_move (h : Obligations.TreeChanges) :
    ∃ t, exec (.lbmov 7 1 2) detached = .next t ∧ t.me.getL 7 = 0x001_01_0_8C000000000000000000000000 := by
  obtain ⟨o, p, e, q, y, g, s1, a, k⟩ := move_ex (i := .lbmov 7 1 2) (a := 1) (b := 2) (s := detached)
    (k := fun o p _ _ y _ s1 => noMove o s1 && decide (p ≠ 0 ∧ starts y p (filled p) = false ∧
      parentPath p ≠ y ∧ okThen (children o.region y (filled y) s1) fun l s2 => l.length < 16384 ∧
      appendCode o.region.gap l.getLast? = some ⟨0, 0⟩ ∧ childPath y (filled y) ⟨0, 0⟩ = some (0x8C * 2 ^ 96) ∧
      okThen ((do shardsOf o.region (← readControl o.region) : M (List Shard)) s2) fun sh s3 => (sh.any fun f => f.stem = p ∧ f.plen = filled p) ∧
      okThen (moveFits o.region sh p (filled (0x8C * 2 ^ 96)) s3) fun ok s4 => ok ∧
      okThen (reserve o.region o.op 0 (packedNodes 0 levels) false false s4) fun _ s5 =>
      okThen (moveEvent o.region p (filled p) (0x8C * 2 ^ 96) (filled (0x8C * 2 ^ 96)) s5) fun _ s6 =>
      okThen (readControl o.region s6) fun c _ => labelOf o.region.index c.gen (0x8C * 2 ^ 96) = 0x001_01_0_8C000000000000000000000000)) (by decide +kernel)
  obtain ⟨mu, k⟩ := noMove_ex k
  obtain ⟨z, st, pp, k⟩ := of_decide_eq_true k
  obtain ⟨l, s2, ch, k⟩ := okThen_ex k
  obtain ⟨len, ac, cp, k⟩ := of_decide_eq_true k
  obtain ⟨sh, s3, shs, k⟩ := okThen_ex k
  obtain ⟨an, k⟩ := of_decide_eq_true k
  obtain ⟨ok, s4, mf, k⟩ := okThen_ex k
  obtain ⟨rfl, k2⟩ := of_decide_eq_true k
  obtain ⟨_, s5, rs, k⟩ := okThen_ex k2
  obtain ⟨_, s6, mv, k⟩ := okThen_ex k
  obtain ⟨c, s7, rc, k⟩ := okThen_ex k
  obtain ⟨f, fm, fp⟩ := List.any_eq_true.mp an
  obtain ⟨t, u, w, _⟩ := h.2.1 detached s1 s2 s3 s4 s5 s6 s7 s7 7 1 2 o q p y _ e g l l c o.region ⟨0, 0⟩ sh rfl
    (by decide +kernel) (by decide +kernel) a z st mu ch (by rw [if_neg pp]) len shs ac cp mf ⟨f, fm, by simpa using fp⟩ rs mv rc
  exact ⟨t, u, w.trans (of_decide_eq_true k)⟩

/-! The same at H, where the pools lie steadily in memory. -/

/-- Slot 0 is at H. -/
def atH (s : State) : State := s.modMe fun t => { t with priv := .h }

theorem steady_h {r : Region} {s : State} (p : r.agent.priv = .h) (a : r.rplim ≤ r.ixbase ∨ r.ixlim ≤ r.rpbase) (b : r.ixbase % 512 = 0)
    (i : r.ixlim ≤ physLimit) (j : r.rplim ≤ physLimit) (m : s.memBad = [])
    (w : s.waiters = [] ∧ s.failedShards = [] ∧ s.prefixJobs = [] ∧ s.reductions = []) : r.steady id s := by
  refine ⟨a, b, fun _ _ _ _ e => e, fun _ _ _ _ => rfl, fun va _ => ⟨by rw [State.memIsBad, m]; rfl, rfl⟩, fun t _ va acc n _ => ?_, w⟩
  have l : va < physLimit := by rcases n with ⟨_, n⟩ | ⟨_, n⟩ <;> omega
  have e : (BitVec.ofNat 64 va).toNat = va := Nat.mod_eq_of_lt (Nat.lt_trans l (by decide))
  refine ⟨poolLoc ((BitVec.ofNat 64 va).extractLsb' 29 8) hvTenant va va, ?_, rfl⟩
  have x : ¬va ≥ 2 ^ 40 := Nat.not_le.mpr (Nat.lt_trans l (by decide))
  simp only [poolPlace, p, e, if_true, if_neg x, State.second, l]
  rfl

/-- What a region at H is asked for, in a form that can be decided. -/
def Region.still (r : Region) (s : State) : Bool :=
  r.agent.priv = .h && (r.rplim ≤ r.ixbase || r.ixlim ≤ r.rpbase) && r.ixbase % 512 = 0 && r.ixlim ≤ physLimit && r.rplim ≤ physLimit && s.memBad = [] &&
  s.waiters = [] && s.failedShards = [] && s.prefixJobs = [] && s.reductions = []

theorem still_steady {r : Region} {s : State} (h : Region.still r s = true) : r.steady id s := by
  simp only [Region.still, Bool.and_eq_true, Bool.or_eq_true, decide_eq_true_eq] at h
  obtain ⟨⟨⟨⟨⟨⟨⟨⟨⟨p, a⟩, b⟩, i⟩, j⟩, m⟩, w⟩, x⟩, y⟩, z⟩ := h
  exact steady_h p a b i j m ⟨w, x, y, z⟩

/-- The same for one shard that is one leaf: its control block, shard and entries. -/
def Region.leaf (r : Region) (s : State) (k : ControlBlock → Shard → List (Nat × Nat) → Bool) : Bool :=
  Region.still r s && okThen (readControl r s) fun c s1 => s1 = s && okThen (shardsOf r c s) fun es s2 => s2 = s &&
    match es with
    | [e] => okThen (readNode r e e.root s) fun d s3 => s3 = s && (e.count = d.entries.length && e.root ≠ noNode && r.nodeAddr e.root + 512 ≤ r.ixlim &&
        d.level = 0 && d.next = noNode && d.entries.length < 20) && k c e d.entries
    | _ => false

theorem leaf_ex {r : Region} {s : State} {k : ControlBlock → Shard → List (Nat × Nat) → Bool} (h : Region.leaf r s k = true) :
    ∃ c e l, r.oneLeaf id s c e l ∧ k c e l = true := by
  rw [Region.leaf, Bool.and_eq_true] at h
  obtain ⟨c, s1, a, b⟩ := okThen_ex h.2
  rw [Bool.and_eq_true, decide_eq_true_eq] at b
  obtain rfl := b.1
  obtain ⟨es, s2, d, f⟩ := okThen_ex b.2
  rw [Bool.and_eq_true, decide_eq_true_eq] at f
  obtain rfl := f.1
  match es, f.2 with
  | [e], f =>
    obtain ⟨n, s3, g, i⟩ := okThen_ex f
    simp only [Bool.and_eq_true, decide_eq_true_eq, ne_eq] at i
    obtain ⟨⟨rfl, ⟨⟨⟨⟨i1, i2⟩, i3⟩, i4⟩, i5⟩, i6⟩, i7⟩ := i
    exact ⟨c, e, n.entries, ⟨still_steady h.1, a, d, ⟨i1, i2, i3, n, g, i4, rfl, i5⟩, i6⟩, i7⟩

theorem witness_TreeChanges_found (h : Obligations.TreeChanges) :
    ∃ t, exec (.lbapp 7 0) (atH family) = .next t ∧ ∃ r : Region, r.recordAt t (0x90 * 2 ^ 96) = some (some 0x200060) := by
  obtain ⟨o, p, s1, a, k⟩ := one_ex (i := .lbapp 7 0) (ch := true) (a := 0) (n := none) (s := atH family)
    (k := fun o p s1 => noMove o s1 && okThen (resolve o p s1) fun _ s2 => okThen (children o.region p (filled p) s2) fun l s3 => l.length < 16384 ∧
      appendCode o.region.gap l.getLast? = some ⟨0, 2⟩ ∧ childPath p (filled p) ⟨0, 2⟩ = some (0x90 * 2 ^ 96) ∧
      Region.leaf o.region s3 fun c e _ => e.stem = 0 ∧ e.plen = 0 ∧ c.nodefree = noNode ∧ 2 ≤ o.region.nodeRoom c ∧ c.records + 1 < 2 ^ 40 ∧
        (if c.recfree = 0 then c.recbump else c.recfree) = 0x200060 ∧ o.region.rpbase ≤ 0x200060 ∧ 0x200060 + o.region.recordBytes ≤ o.region.rplim)
    (by decide +kernel)
  obtain ⟨mu, k⟩ := noMove_ex k
  obtain ⟨⟨e, n⟩, s2, b, k⟩ := okThen_ex k
  obtain ⟨l, s3, d, k⟩ := okThen_ex k
  obtain ⟨len, ac, cp, k⟩ := of_decide_eq_true k
  obtain ⟨c, f, es, lf, k⟩ := leaf_ex k
  obtain ⟨k0, k1, k2, k3, k4, k5, k6, k7⟩ := of_decide_eq_true k
  obtain ⟨t, u, _, w, _⟩ := h.2.2.1 (atH family) s1 s2 s3 (.lbapp 7 0) 7 0 o p n p (0x90 * 2 ^ 96) 0x200060 e f l c ⟨0, 2⟩ es id o.region rfl (by decide +kernel)
    (by decide +kernel) a mu b (.inl ⟨rfl, rfl, ac⟩) d len cp (by decide) lf k0 k1 k2 k3 k4 k5.symm k6 k7 (by decide)
  exact ⟨t, u, _, w⟩

theorem witness_TreeChanges_gone (h : Obligations.TreeChanges) :
    ∃ t, exec (.lbdel 2) (atH family) = .next t ∧ ∃ r : Region, r.recordAt t (0x88 * 2 ^ 96) = some none := by
  obtain ⟨o, p, s1, a, k⟩ := one_ex (i := .lbdel 2) (ch := true) (a := 2) (n := none) (s := atH family)
    (k := fun o p s1 => noMove o s1 && okThen (resolve o p s1) fun _ s2 => p = 0x88 * 2 ^ 96 ∧
      Region.leaf o.region s2 fun c e l => e.stem = 0 ∧ e.plen = 0 ∧ l.Pairwise (fun x y => x.1 < y.1) ∧
        (∀ q ∈ l, o.region.rpbase ≤ q.2 ∧ q.2 + 8 ≤ o.region.rplim ∧ q.2 % 8 = 0) ∧
        okThen (readEvent o.region (c.gen + 1) s2) fun old _ => old.kind ≠ 2) (by decide +kernel)
  obtain ⟨mu, k⟩ := noMove_ex k
  obtain ⟨⟨e, n⟩, s2, b, k⟩ := okThen_ex k
  obtain ⟨rfl, j⟩ := of_decide_eq_true k
  obtain ⟨c, f, es, lf, k⟩ := leaf_ex j
  obtain ⟨k0, k1, k2, k3, k⟩ := of_decide_eq_true k
  obtain ⟨old, s3, ev, k⟩ := okThen_ex k
  obtain ⟨t, u, w⟩ := h.2.2.2.1 (atH family) s1 s2 s3 2 o _ n e f c es id old o.region rfl (by decide +kernel)
    (by decide +kernel) a mu b (by decide) (by decide) (by decide) lf k0 k1 k2 k3 ev (of_decide_eq_true k)
  exact ⟨t, u, _, (w (0x88 * 2 ^ 96) (by decide)).trans (if_pos (by decide))⟩

theorem witness_TreeChanges_moved (h : Obligations.TreeChanges) :
    ∃ t, exec (.lbmov 7 1 2) (atH detached) = .next t ∧ ∃ r : Region, r.recordAt t (0x80 * 2 ^ 96) = some none ∧
      r.recordAt t (0x8C * 2 ^ 96) = some (some 0x200020) := by
  obtain ⟨o, p, e, q, y, g, s1, a, k⟩ := move_ex (i := .lbmov 7 1 2) (a := 1) (b := 2) (s := atH detached)
    (k := fun o p _ _ y _ s1 => noMove o s1 && decide (p = 0x80 * 2 ^ 96 ∧ y = 0x88 * 2 ^ 96 ∧
      okThen (children o.region y (filled y) s1) fun l s2 => l.length < 16384 ∧ appendCode o.region.gap l.getLast? = some ⟨0, 0⟩ ∧
      childPath y (filled y) ⟨0, 0⟩ = some (0x8C * 2 ^ 96) ∧ Region.still o.region s2 ∧
      okThen (readControl o.region s2) fun c s3 => s3 = s2 ∧
      okThen (shardsOf o.region c s2) fun sh s4 => s4 = s2 ∧
      okThen (moveFits o.region sh p (filled (0x8C * 2 ^ 96)) s2) fun ok s5 => s5 = s2 ∧ ok ∧
      (match sh with
      | [f, f1] => decide (f.stem = 0 ∧ f.plen = 0 ∧ f1.stem = p ∧ f1.plen = filled p ∧
        okThen (readNode o.region f f.root s2) fun d s6 => s6 = s2 ∧ f.count = d.entries.length ∧ f.root ≠ noNode ∧
          o.region.nodeAddr f.root + 512 ≤ o.region.ixlim ∧ d.level = 0 ∧ d.next = noNode ∧ placeOf p ∉ d.entries.map Prod.fst ∧
        okThen (readNode o.region f1 f1.root s2) fun d s7 => s7 = s2 ∧ f1.count = d.entries.length ∧ f1.root ≠ noNode ∧
          o.region.nodeAddr f1.root + 512 ≤ o.region.ixlim ∧ d.level = 0 ∧ d.next = noNode ∧
          firstOf (fun p => p.1 = 0) d.entries = some (0, 0x200020) ∧
        okThen (readEvent o.region (c.gen + 1) s2) fun old _ => old.kind ≠ 2)
      | _ => false) = true)) (by decide +kernel)
  obtain ⟨mu, k⟩ := noMove_ex k
  obtain ⟨rfl, rfl, k1⟩ := of_decide_eq_true k
  obtain ⟨l, s2, ch, k⟩ := okThen_ex k1
  obtain ⟨len, ac, cp, st, k⟩ := of_decide_eq_true k
  obtain ⟨c, s3, rc, k⟩ := okThen_ex k
  obtain ⟨rfl, k2⟩ := of_decide_eq_true k
  obtain ⟨sh, s4, shs, k⟩ := okThen_ex k2
  obtain ⟨rfl, k3⟩ := of_decide_eq_true k
  obtain ⟨ok, s5, mf, k⟩ := okThen_ex k3
  obtain ⟨rfl, rfl, k4⟩ := of_decide_eq_true k
  clear k
  match sh, shs, mf, k4 with
  | [f, f1], shs, mf, k =>
    obtain ⟨a0, a1, b0, b1, k⟩ := of_decide_eq_true k
    obtain ⟨d0, s6, r0, k⟩ := okThen_ex k
    obtain ⟨rfl, c0, c1, c2, c3, c4, c5, k5⟩ := of_decide_eq_true k
    obtain ⟨d1, s7, r1, k⟩ := okThen_ex k5
    obtain ⟨rfl, e0, e1, e2, e3, e4, e5, k6⟩ := of_decide_eq_true k
    obtain ⟨old, s8, ev, k⟩ := okThen_ex k6
    obtain ⟨t, u, _, w, x⟩ := h.2.2.2.2 (atH detached) s1 _ s8 s8 7 1 2 o q _ _ (0x8C * 2 ^ 96) 0x200020 e g f f1 l l c o.region ⟨0, 0⟩ _ d0.entries d1.entries id old rfl
      (by decide +kernel) (by decide +kernel) a (by decide) (by decide) (by decide) (by decide) mu ch (by rw [if_neg (by decide)]) len ac cp (by decide) (by decide)
      (by decide) (still_steady st) rc shs (.inl rfl) mf a0 a1 b0 b1 ⟨c0, c1, c2, d0, r0, c3, rfl, c4⟩ ⟨e0, e1, e2, d1, r1, e3, rfl, e4⟩ c5 e5 ev
      (of_decide_eq_true k)
    exact ⟨t, u, _, x, w⟩

end Sys2Proof.Tests
end

