-- ==== Sys2Proof/Tests/ScanWitness.lean ====
section
/-!
SUPPORT. Concrete states that meet the hypotheses of the statements about sparse regions and scans.
-/
set_option Elab.async false
set_option maxRecDepth 100000
set_option exponentiation.threshold 600

namespace Sys2Proof.Tests
open Sys2Proof Sys2Proof.Machine

/-- A region that a form names, which the check leaves the state as it is. -/
theorem region_ex {i : Instr} {n : BitVec 12} {ch : Bool} {c : Suits} {s : State} {k : Region → Bool}
    (h : okThen (namedRegion i n ch c s) (fun r t => t = s && k r) = true) : ∃ r, namedRegion i n ch c s = .ok r s ∧ k r = true := by
  obtain ⟨r, t, a, b⟩ := okThen_ex h
  simp only [Bool.and_eq_true, decide_eq_true_eq] at b
  exact ⟨r, by rw [a, b.1], b.2⟩

theorem witness_SparseForms_keys (h : Obligations.SparseForms) :
    (∃ t, exec (.skey 7 10 2) sparse = .next t ∧ t.me.getL 7 = 0x28#128 <<< 120) ∧
    (∃ t, exec (.scoord 30 5 2) sparse = .next t ∧ t.me.getX 30 = 0x2_0000_0001 ∧ t.me.getX 31 = 0) ∧
    coordOf (BitVec.ofNat 512 (2 ^ 415 + 2 ^ 384)) (packKey (BitVec.ofNat 512 (2 ^ 415 + 2 ^ 384)) fun _ => 0x80000001) 0 = 0x80000001 := by
  refine ⟨?_, ?_, ?_⟩
  · obtain ⟨r, a, k⟩ := region_ex (i := .skey 7 10 2) (n := 2) (ch := false) (c := .sparse) (s := sparse)
      (k := fun r => (sparse.shapeOf sparse.me r.shape r.efmt).isSome && (sparse.shapeOf sparse.me r.shape r.efmt).all fun e =>
        (∀ i ∈ dimOrder e, coordField (sparse.me.getX 10) (sparse.me.getX (10 + 1)) i < dimExtent e i) ∧
        BitVec.ofNat 128 (packKey e (coordField (sparse.me.getX 10) (sparse.me.getX (10 + 1)))) = 0x28#128 <<< 120) (by decide +kernel)
    rw [Bool.and_eq_true] at k
    obtain ⟨e, b⟩ := some_ex k.1
    have k := k.2
    rw [b] at k
    obtain ⟨x, y⟩ := of_decide_eq_true k
    refine ⟨_, h.2.1 sparse 7 10 2 r e (by decide +kernel) a b x, ?_⟩
    rw [y]; decide +kernel
  · obtain ⟨r, a, k⟩ := region_ex (i := .scoord 30 5 2) (n := 2) (ch := false) (c := .sparse) (s := sparse)
      (k := fun r => (sparse.shapeOf sparse.me r.shape r.efmt).isSome && (sparse.shapeOf sparse.me r.shape r.efmt).all fun e =>
        keyValid e (sparse.me.getL 5).toNat = true ∧ dimCount e = 2 ∧ coordOf e (sparse.me.getL 5).toNat 0 = 1 ∧ coordOf e (sparse.me.getL 5).toNat 1 = 2)
      (by decide +kernel)
    rw [Bool.and_eq_true] at k
    obtain ⟨e, b⟩ := some_ex k.1
    have k := k.2
    rw [b] at k
    obtain ⟨x, y, z, w⟩ := of_decide_eq_true k
    refine ⟨_, h.2.2.1 sparse 5 30 2 r e (by decide +kernel) a b x, ?_⟩
    simp only [y, z, w, show ¬(3 : Nat) < 2 by decide, show ¬(2 : Nat) < 2 by decide, if_false]; decide +kernel
  · exact (h.1 (BitVec.ofNat 512 (2 ^ 415 + 2 ^ 384)) (fun _ => 0x80000001) (by decide +kernel) (by decide +kernel)).2 0 (by decide +kernel)

theorem witness_SparseForms_load (h : Obligations.SparseForms) : ∃ t, exec (.sld 5 5 2) sparse = .next t ∧ t.me.getX 5 = 5 := by
  obtain ⟨r, a, k⟩ := region_ex (i := .sld 5 5 2) (n := 2) (ch := false) (c := .sparse) (s := sparse)
    (k := fun r => (sparse.shapeOf sparse.me r.shape r.efmt).isSome && ((sparse.shapeOf sparse.me r.shape r.efmt).all fun e =>
      keyValid e (sparse.me.getL 5).toNat) && decide (r.agent = sparse.me) && okThen (loadElem r (sparse.me.getL 5).toNat sparse) fun old _ =>
      (if r.efmt = 4 then (BitVec.ofNat 32 (old.getD 0)).signExtend 64 else BitVec.ofNat 64 (old.getD 0)) = 5) (by decide +kernel)
  simp only [Bool.and_eq_true, decide_eq_true_eq] at k
  obtain ⟨⟨⟨p, v⟩, g⟩, k⟩ := k
  obtain ⟨e, b⟩ := some_ex p
  obtain ⟨old, s1, l, k⟩ := okThen_ex k
  rw [b] at v
  obtain ⟨t, u, w, _⟩ := (h.2.2.2 sparse s1 5 5 2 r e (.sld 5 5 2) old (by decide +kernel) (by decide +kernel) b v g).1 rfl a l
  exact ⟨t, u, w.trans (of_decide_eq_true k)⟩

/-- A store of -1, and a sum that wraps. -/
theorem witness_SparseForms_store (h : Obligations.SparseForms) :
    (∃ t, exec (.sst 7 5 2) sparse = .next t ∧ Cells.readNat t.mem 0x188430 4 = 0xFFFFFFFF) ∧
    ∃ t, exec (.sadd 7 5 2) sparse = .next t ∧ Cells.readNat t.mem 0x188430 4 = 4 := by
  refine ⟨?_, ?_⟩
  · obtain ⟨r, a, k⟩ := region_ex (i := .sst 7 5 2) (n := 2) (ch := true) (c := .sparse) (s := sparse)
      (k := fun r => (sparse.shapeOf sparse.me r.shape r.efmt).isSome && ((sparse.shapeOf sparse.me r.shape r.efmt).all fun e =>
        keyValid e (sparse.me.getL 5).toNat) && decide (r.agent = sparse.me) &&
        okThen (storeElem r (opNo 5) (sparse.me.getL 5).toNat (elemOf r.efmt (sparse.me.getX 7)) sparse) fun _ s2 =>
          Cells.readNat s2.mem 0x188430 4 = 0xFFFFFFFF) (by decide +kernel)
    simp only [Bool.and_eq_true, decide_eq_true_eq] at k
    obtain ⟨⟨⟨p, v⟩, g⟩, k⟩ := k
    obtain ⟨e, b⟩ := some_ex p
    obtain ⟨job, s2, l, k⟩ := okThen_ex k
    rw [b] at v
    obtain ⟨t, u, _, w, _⟩ := (h.2.2.2 sparse sparse 5 7 2 r e (.sst 7 5 2) none (by decide +kernel) (by decide +kernel) b v g).2.1 _ job sparse s2
      (.inl ⟨rfl, rfl, rfl⟩) a l
    exact ⟨t, u, (congrArg (Cells.readNat · 0x188430 4) w).trans (of_decide_eq_true k)⟩
  · obtain ⟨r, a, k⟩ := region_ex (i := .sadd 7 5 2) (n := 2) (ch := true) (c := .sparse) (s := sparse)
      (k := fun r => (sparse.shapeOf sparse.me r.shape r.efmt).isSome && ((sparse.shapeOf sparse.me r.shape r.efmt).all fun e =>
        keyValid e (sparse.me.getL 5).toNat) && decide (r.agent = sparse.me) && okThen (loadElem r (sparse.me.getL 5).toNat sparse) fun old s0 =>
        okThen (storeElem r (opNo 5) (sparse.me.getL 5).toNat (elemAdd r.efmt (old.getD 0) (elemOf r.efmt (sparse.me.getX 7))) s0) fun _ s2 =>
          Cells.readNat s2.mem 0x188430 4 = 4) (by decide +kernel)
    simp only [Bool.and_eq_true, decide_eq_true_eq] at k
    obtain ⟨⟨⟨p, v⟩, g⟩, k⟩ := k
    obtain ⟨e, b⟩ := some_ex p
    obtain ⟨old, s0, q, k⟩ := okThen_ex k
    obtain ⟨job, s2, l, k⟩ := okThen_ex k
    rw [b] at v
    obtain ⟨t, u, _, w, _⟩ := (h.2.2.2 sparse s0 5 7 2 r e (.sadd 7 5 2) old (by decide +kernel) (by decide +kernel) b v g).2.1 _ job s0 s2
      (.inr ⟨rfl, rfl, q⟩) a l
    exact ⟨t, u, (congrArg (Cells.readNat · 0x188430 4) w).trans (of_decide_eq_true k)⟩

/-- At H: a value stored is found, and a zero leaves no element. -/
theorem witness_SparseForms_found (h : Obligations.SparseForms) :
    (∃ t, exec (.sst 7 5 2) (atH sparse) = .next t ∧ ∃ r : Region, r.elemAt t (0x28 * 2 ^ 120) = some (some 0xFFFFFFFF)) ∧
    ∃ t, exec (.sst 9 5 2) (atH sparse) = .next t ∧ ∃ r : Region, r.elemAt t (0x28 * 2 ^ 120) = some none := by
  have e (x : BitVec 5) (v : Nat) (k : okThen (namedRegion (.sst x 5 2) 2 true .sparse (atH sparse)) (fun r t => t = atH sparse &&
      ((atH sparse).shapeOf (atH sparse).me r.shape r.efmt).isSome && ((atH sparse).shapeOf (atH sparse).me r.shape r.efmt).all
        (fun e => keyValid e ((atH sparse).me.getL 5).toNat) && (r.agent = (atH sparse).me && r.efmt = 4 && elemOf r.efmt ((atH sparse).me.getX x) = v) &&
      Region.leaf r (atH sparse) fun c e _ => e.holds ((atH sparse).me.getL 5).toNat = true ∧ c.nodefree = noNode ∧ 2 ≤ r.nodeRoom c ∧ c.records + 1 < 2 ^ 40))
      (i : (atH sparse).issues (.sst x 5 2) = true) (l : v < 2 ^ 64) :
      ∃ t, exec (.sst x 5 2) (atH sparse) = .next t ∧ ∃ r : Region, r.elemAt t (0x28 * 2 ^ 120) = some (if elemZero 4 v then none else some v) := by
    obtain ⟨r, t, a, b⟩ := okThen_ex k
    simp only [Bool.and_eq_true, decide_eq_true_eq] at b
    obtain ⟨⟨⟨⟨rfl, p⟩, q⟩, ⟨g, m⟩, y⟩, b⟩ := b
    obtain ⟨e, f⟩ := some_ex p
    rw [f] at q
    obtain ⟨c, sh, es, n, k⟩ := leaf_ex b
    obtain ⟨k0, k1, k2, k3⟩ := of_decide_eq_true k
    obtain ⟨t, u, w, _⟩ := (h.2.2.2 (atH sparse) (atH sparse) 5 x 2 r e (.sst x 5 2) none (by decide +kernel) i f q g).2.2.1 v sh c es id (atH sparse)
      (.inl ⟨rfl, y.symm, rfl⟩) a n k0 k1 k2 k3 l
    rw [m] at w
    exact ⟨t, u, r, w⟩
  exact ⟨e 7 0xFFFFFFFF (by decide +kernel) (by decide +kernel) (by decide), e 9 0 (by decide +kernel) (by decide +kernel) (by decide)⟩

/-! Scans. -/

/-- The range of a scan in b4 and b5: all keys below and at the element's; and below it. -/
def below : State := sparse.modMe fun t => t.setL 5 (0x27#128 <<< 120)

theorem scan_ex {i : Instr} {a : BitVec 3} {n : BitVec 12} {s : State} {k : Region → Bool}
    (h : okThen (scanRegion i a n s) (fun r t => t = s && k r) = true) : ∃ r, scanRegion i a n s = .ok r s ∧ k r = true := by
  obtain ⟨r, t, a, b⟩ := okThen_ex h
  simp only [Bool.and_eq_true, decide_eq_true_eq] at b
  exact ⟨r, by rw [a, b.1], b.2⟩

theorem witness_KeyScans_next (h : Obligations.KeyScans) :
    (∃ t, exec (.kfirst 5 4 2) sparse = .next t ∧ t.me.getX 5 = 1 ∧ t.me.getL 4 = 0x28#128 <<< 120) ∧
    ∃ t, exec (.knext 5 4 2) below = .next t ∧ t.me.getX 5 = 0 := by
  refine ⟨?_, ?_⟩
  · obtain ⟨r, a, k⟩ := scan_ex (i := .kfirst 5 4 2) (a := 4) (n := 2) (s := sparse)
      (k := fun r => okThen (scanBounds r 4 sparse) fun q s1 =>
        okThen ((do nextIn r (← shardsOf r (← readControl r)) (r.firstOf q.1 + 0) (r.lastOf q.2) : M (Option (Shard × Nat × Nat))) s1) fun f s2 => f.isSome &&
        f.all fun f => okThen (scanWord r f.2.1 s2) fun w _ => w = 0x28#128 <<< 120) (by decide +kernel)
    obtain ⟨⟨lo, hi⟩, s1, b, k⟩ := okThen_ex k
    obtain ⟨f, s2, d, k⟩ := okThen_ex k
    rw [Bool.and_eq_true] at k
    obtain ⟨q, rfl⟩ := some_ex k.1
    obtain ⟨w, s3, e, k⟩ := okThen_ex k.2
    obtain ⟨t, u, x, y, _⟩ := (h.1 sparse s1 s2 s3 5 4 2 _ _ r lo hi _ (.head _) (by decide +kernel) (by decide +kernel) a b d).2 q w rfl e
    exact ⟨t, u, x.trans (by decide), y.trans (of_decide_eq_true k)⟩
  · obtain ⟨r, a, k⟩ := scan_ex (i := .knext 5 4 2) (a := 4) (n := 2) (s := below)
      (k := fun r => okThen (scanBounds r 4 below) fun q s1 =>
        okThen ((do nextIn r (← shardsOf r (← readControl r)) (r.firstOf q.1 + 1) (r.lastOf q.2) : M (Option (Shard × Nat × Nat))) s1) fun f _ => f = none) (by decide +kernel)
    obtain ⟨⟨lo, hi⟩, s1, b, k⟩ := okThen_ex k
    obtain ⟨f, s2, d, k⟩ := okThen_ex k
    obtain ⟨t, u, x, _⟩ := (h.1 below s1 s2 s2 5 4 2 _ _ r lo hi f (.tail _ (.head _)) (by decide +kernel) (by decide +kernel) a b d).1 (of_decide_eq_true k)
    exact ⟨t, u, x⟩

theorem witness_KeyScans_reduce (h : Obligations.KeyScans) : ∃ t, exec (.kredI32 12 4 2) sparse = .next t ∧ t.me.state = .engwait := by
  obtain ⟨r, a, k⟩ := scan_ex (i := .kredI32 12 4 2) (a := 4) (n := 2) (s := sparse)
    (k := fun r => r.sparse && decide (r.efmt = 4) && okThen (scanBounds r 4 sparse) fun _ _ => true) (by decide +kernel)
  simp only [Bool.and_eq_true, decide_eq_true_eq] at k
  obtain ⟨⟨lo, hi⟩, s1, b, _⟩ := okThen_ex k.2
  obtain ⟨t, u, x, _⟩ := h.2.1 sparse s1 12 4 2 (.kredI32 12 4 2) _ _ lo hi r (.head _) (by decide +kernel) (by decide +kernel) a
    (by rw [if_pos k.1.1]; exact ⟨by decide +kernel, k.1.2⟩) b
  exact ⟨t, u, by rw [x]; rfl⟩

/-- Slot 0 waits for its reduction over the whole range of the sparse region. -/
def reducing (m : List Host.Cell) : State :=
  let s := (keyed (tables ++ treeEmpty ++ m)).modMe fun t => (t.setX 12 7).park .engwait (.engine .kred)
  let g : Reduction := { core := 0, slot := 0, insn := wordOf (.kredI32 12 4 2), region := 2, agent := s.me, era := 0, off := 0, lo := 0, hi := 2 ^ 128 - 1,
                         entry := BitVec.ofNat 512 (natOfBytes ((List.range 64).map fun i => Cells.read (0x1080 + i) tables)),
                         last := none, sum := 0, count := 0, heldSince := none, heldAt := 0 }
  { s with args := { core := 0, slot := 0 }, reductions := [g] }

def reductionOf (s : State) : Reduction := s.reductions.headD {
  core := 0, slot := 0, insn := 0, region := 0, entry := 0, agent := s.me, era := 0, off := 0, lo := 0, hi := 0, last := none, sum := 0, count := 0, heldSince := none,
  heldAt := 0 }

theorem witness_KeyScans_complete (h : Obligations.KeyScans) :
    (∃ t, exec .kredComplete (reducing sparseOne) = .next t ∧ t.reductions.map (·.sum) = [5]) ∧
    ∃ t, exec .kredComplete (reducing sparseEmpty) = .next t ∧ t.me.getX 12 = 0 ∧ t.me.getX 13 = 0 := by
  have part (s : State) (k : Option (Shard × Nat × Nat) → Region → State → Bool)
      (e : okThen (readCombs (reductionOf s).agent (reductionOf s).entry causeConverted 0 { s with cur := { core := s.args.core, slot := s.args.slot } })
        (fun l t => t = { s with cur := { core := s.args.core, slot := s.args.slot } } &&
          let r : Region := { form := .kredI32 12 4 2, index := 2, agent := (reductionOf s).agent, entry := (reductionOf s).entry, combs := l, era := (reductionOf s).era }
          okThen ((do nextIn r (← shardsOf r (← readControl r)) (r.firstOf 0) (r.lastOf (2 ^ 128 - 1)) : M (Option (Shard × Nat × Nat)))
            { s with cur := { core := s.args.core, slot := s.args.slot } }) fun f s1 => k f r s1)) :
      ∃ l r f s1, readCombs (reductionOf s).agent (reductionOf s).entry causeConverted 0 { s with cur := { core := s.args.core, slot := s.args.slot } } =
          .ok l { s with cur := { core := s.args.core, slot := s.args.slot } } ∧
        r = { form := .kredI32 12 4 2, index := 2, agent := (reductionOf s).agent, entry := (reductionOf s).entry, combs := l, era := (reductionOf s).era } ∧
        (do nextIn r (← shardsOf r (← readControl r)) (r.firstOf 0) (r.lastOf (2 ^ 128 - 1)) : M (Option (Shard × Nat × Nat)))
          { s with cur := { core := s.args.core, slot := s.args.slot } } = .ok f s1 ∧ k f r s1 = true := by
    obtain ⟨l, t, a, b⟩ := okThen_ex e
    rw [Bool.and_eq_true, decide_eq_true_eq] at b
    obtain ⟨f, s1, c, d⟩ := okThen_ex b.2
    exact ⟨l, _, f, s1, by rw [a, b.1], rfl, c, d⟩
  refine ⟨?_, ?_⟩
  · obtain ⟨l, r, f, s1, a, b, c, d⟩ := part (reducing sparseOne) (fun f r s1 => f.isSome && f.all fun f => okThen (kredField r 4 0 f.2.2 s1) fun x s2 =>
      elemAdd 4 0 x = 5 && s2.reductions = (reducing sparseOne).reductions) (by decide +kernel)
    rw [Bool.and_eq_true] at d
    obtain ⟨⟨e, p, v⟩, rfl⟩ := some_ex d.1
    obtain ⟨x, s2, g, d⟩ := okThen_ex d.2
    simp only [Bool.and_eq_true, decide_eq_true_eq] at d
    refine ⟨_, (h.2.2.1 (reducing sparseOne) s1 s2 (reductionOf (reducing sparseOne)) (.kredI32 12 4 2) 12 4 _ l r _ rfl (by decide +kernel) (by decide +kernel) a b rfl c).2
      e p v x rfl g, ?_⟩
    show (replaceFirst _ _ s2.reductions).map (·.sum) = [5]
    rw [d.2]
    exact congrArg (fun n => [n]) d.1
  · obtain ⟨l, r, f, s1, a, b, c, d⟩ := part (reducing sparseEmpty) (fun f _ _ => f = none) (by decide +kernel)
    obtain rfl := of_decide_eq_true d
    obtain ⟨t, u, w, x, _⟩ := (h.2.2.1 (reducing sparseEmpty) s1 s1 (reductionOf (reducing sparseEmpty)) (.kredI32 12 4 2) 12 4 _ l r _ rfl (by decide +kernel)
      (by decide +kernel) a b rfl c).1 rfl
    exact ⟨t, u, w.trans (by decide +kernel), x.trans (by decide +kernel)⟩

/-- A job whose entry's valid bit is written where the walk of its pool leads. -/
def placed (j : PrefixJob) : PrefixJob :=
  { j with at_ := match (poolPlace j.reachedAs (j.reachedAs.shardAddr j.entry + validByte) .store).run sparse with | .ok l _ => l | .error _ _ => j.at_ }

/-- A prefix map job, for which the cores `owed` owe acknowledgements, for an entry and a move to follow; and its core, with a key engine's
answer under way. -/
def job (owed : List CoreId) (entry : Nat := 0) (move : Option (Nat × Nat) := none) : PrefixJob := {
  id := 3, tenant := 0, region := 2, entry := entry, agent := sparse.me, owed := owed, core := 0, slot := 0, answer := some (.x 5), ch := none,
  object := BitVec.ofNat 512 (natOfBytes ((List.range 64).map fun i => Cells.read (0x1080 + i) tables)), combs := [0], era := 0, move := move,
  pc := 0, at_ := physical 0, heldSince := none, heldAt := 0 }

def withJob (j : PrefixJob) : State :=
  let s := sparse.modMe fun t => (t.park .memwait (.region 2)).launchFlight (.x 5) true none
  { s with args := { core := 0, slot := 0, reg := .x 5, num := 3 }, prefixJobs := [j] }

theorem witness_KeyScans_events (h : Obligations.KeyScans) :
    (∃ t, exec .keyEngineAnswer (withJob (job [0])) = .next t ∧ (t.slot 0 0).flights = []) ∧
    (∃ t, exec .heldKeyedRequest (withJob (job [0])) = .next t ∧ (t.slot 0 0).state = .run) ∧
    (∃ t, exec .prefixInvalidate (withJob (job [0])) = .next t ∧ ∀ u ∈ t.prefixJobs, (0 : CoreId) ∉ u.owed) ∧
    ∃ t, exec .prefixEntryActivate (withJob (placed (job []))) = .next t ∧ t.prefixJobs = [] := by
  refine ⟨?_, ?_, ?_, ?_⟩
  · obtain ⟨t, a, b, _⟩ := h.2.2.2.1 (withJob (job [0]))
    exact ⟨t, a, b.trans (by decide +kernel)⟩
  · exact ⟨_, h.2.2.2.2.1 (withJob (job [0])) 2 (by decide +kernel) (by decide +kernel), by decide +kernel⟩
  · obtain ⟨t, a, _, b, _⟩ := (h.2.2.2.2.2 (withJob (job [0])) (withJob (job [0])) _ rfl rfl).1
    exact ⟨t, a, b⟩
  · obtain ⟨_, s1, a, b⟩ := okThen_ex (r := (setValid (placed (job []))).run { withJob (placed (job [])) with prefixJobs := [], cur := { core := 0, slot := 0 } })
      (k := fun _ s1 => s1.prefixJobs = []) (by decide +kernel)
    exact ⟨_, (h.2.2.2.2.2 (withJob (placed (job []))) s1 _ rfl rfl).2.2.2 rfl a, of_decide_eq_true b⟩

/-- The first child has been detached, and its move below the second is next; b7 waits for the new label. -/
def movedJob : PrefixJob := { job [] 1024 (some (0x80 * 2 ^ 96, 0x8C * 2 ^ 96)) with
  region := 1, agent := detached.me, answer := some (.lb 7),
  object := BitVec.ofNat 512 (natOfBytes ((List.range 64).map fun i => Cells.read (0x1040 + i) tables)) }

def moved : State :=
  { detached.modMe fun t => t.launchFlight (.lb 7) true none with args := { core := 0, slot := 0, num := 3 }, prefixJobs := [movedJob] }

/-- The entry that a move waits for becomes valid; then the move follows. -/
theorem witness_KeyScans_move (h : Obligations.KeyScans) :
    (∃ t, exec .prefixEntryActivate (withJob (placed (job [] 0 (some (0, 0))))) = .next t ∧ t.prefixJobs = [{ placed (job [] 0 (some (0, 0))) with entry := 1024 }]) ∧
    ∃ t, exec .prefixEntryActivate moved = .next t ∧ t.me.getL 7 = 0x001_01_0_8C000000000000000000000000 := by
  refine ⟨?_, ?_⟩
  · obtain ⟨_, s1, a, b⟩ := okThen_ex (r := (setValid (placed (job [] 0 (some (0, 0))))).run { withJob (placed (job [] 0 (some (0, 0)))) with
      prefixJobs := [], cur := { core := 0, slot := 0 } }) (k := fun _ s1 => s1.prefixJobs = []) (by decide +kernel)
    obtain ⟨t, c, _, d, _⟩ := (h.2.2.2.2.2 (withJob (placed (job [] 0 (some (0, 0))))) s1 _ rfl rfl).2.1 0 0 rfl (by decide) a (of_decide_eq_true b)
    exact ⟨t, c, d⟩
  · obtain ⟨_, s1, a, b⟩ := okThen_ex (r := (finishMove movedJob (0x80 * 2 ^ 96) (0x8C * 2 ^ 96)).run { moved with
      prefixJobs := [], cur := { core := 0, slot := 0 } }) (k := fun _ s1 => s1.me.getL 7 = 0x001_01_0_8C000000000000000000000000) (by decide +kernel)
    exact ⟨s1, (h.2.2.2.2.2 moved s1 movedJob rfl rfl).2.2.1 _ _ rfl (by decide) a, of_decide_eq_true b⟩

end Sys2Proof.Tests
end

