-- ==== Sys2Proof/Tests/Slice0.lean ====
section
/-!
SUPPORT. The author's own tests, and concrete states that meet the hypotheses of the statements: a theorem `witness_<Name>` applies
the statement `<Name>` to such a state, each hypothesis shown there by evaluation.
-/
set_option Elab.async false
set_option maxRecDepth 100000

namespace Sys2Proof.Tests
open Sys2Proof Sys2Proof.Machine

/-! Form. -/

/-- A term that each check refuses, and why. -/
theorem test_ill_formed :
    (Instr.vsqrt 1 2 .i32 0).formError = some .typeNotAccepted ∧ (Instr.vshl 1 2 3 .f32 0).formError = some .typeNotAccepted ∧
    (Instr.vcvt 1 2 .f32 .f32 .rne 0).formError = some .sameType ∧ (Instr.mmac 0 0 1 .bf16 true true true).formError = some .popScale ∧
    (Instr.mmacs 0 0 1 5 .f64 false false false).formError = some .bitmapFormat ∧ (Instr.kfirst 5 1 9).formError = some .oddPair ∧
    (Instr.kredI64 0 2 9).formError = some .oddPair ∧ (Instr.msend 5 29 0).formError = some .payloadRegister ∧
    (Instr.srd 5 0x006).formError = some .unassignedRegister := by decide +kernel

/-- The same forms with the field at the end of its range. -/
theorem test_well_formed :
    (Instr.vsqrt 1 2 .bf16 0).WellFormed ∧ (Instr.vcvt 1 2 .f32 .f64 .rne 0).WellFormed ∧ (Instr.mmac 0 0 1 .mk8 true true true).WellFormed ∧
    (Instr.mmacs 0 0 1 5 .bf16 false false false).WellFormed ∧ (Instr.kfirst 5 6 9).WellFormed ∧ (Instr.kredI64 2 2 9).WellFormed ∧
    (Instr.msend 5 28 0).WellFormed ∧ (Instr.srd 5 0x005).WellFormed := by decide +kernel

/-- The word of an ill-formed term is no instruction, and an event has no word. -/
theorem test_ill_formed_word : (encode (.msend 5 29 0)).map (fun w => (decode w).toOption) = some none ∧ encode .launch = none := by decide +kernel

/-! Numbering. -/

/-- The curve begins at (0, 0), visits (0, 1), (1, 1) and (1, 0), and ends at (7, 0); every index names one comb (R7). -/
theorem test_hilbert : hilbert 0 0 = 0 ∧ hilbert 0 1 = 1 ∧ hilbert 1 1 = 2 ∧ hilbert 1 0 = 3 ∧ hilbert 7 0 = 63 ∧
    ∀ x y u v, hilbert x y = hilbert u v → x = u ∧ y = v := by decide +kernel

/-! Issue. -/

/-- `addi x5, x5, 8` at the pc. -/
def atAddi : State := { (start.memWrite 0x100 4 0x06505008) with schedule := [{ pick := 0, cycles := 2, input := none }] }

theorem witness_IssueRunsDecoded (h : Obligations.IssueRunsDecoded) : ∃ s', atAddi.issueNow = exec (.addi 5 5 8) s' := by
  obtain ⟨⟨w, s'⟩, hf, hw⟩ := gotThen_ex (r := atAddi.fetch 0 0) (k := fun p => (decode p.1).toOption = some (.addi 5 5 8)) (by decide +kernel)
  exact ⟨s', h.1 atAddi s' w _ (by decide +kernel) (by decide +kernel) (by decide +kernel) hf (by simpa using hw)⟩

/-- The state in which a step of two cycles makes its move. -/
def due (s : State) : State := ({ s.wake.serveDue with schedule := [] } : State).pass 2

theorem witness_IssueRunsDecoded_step (h : Obligations.IssueRunsDecoded) :
    step atAddi = match ((due atAddi).takeTurn 0 0).issueNow with
      | .next t => .next (if (t.slot 0 0).wait.beforeIssue then t.turnBack (due atAddi) 0 0 else t)
      | o => o :=
  (h.2 atAddi 0 [] 0 0 (by decide +kernel) (by decide +kernel)).2 (by decide +kernel) (by decide +kernel)

/-- The same slot after a `yield`. -/
def atYielded : State := atAddi.modMe fun t => { t with yielded := true }

theorem witness_IssueRunsDecoded_yielded (h : Obligations.IssueRunsDecoded) :
    step atYielded = .next (((due atYielded).passOver 0 ((due atYielded).searchOf 0).1).searched 0) :=
  (h.2 atYielded 0 [] 0 0 (by decide +kernel) (by decide +kernel)).1 (by decide +kernel)

/-- The all-zero word at the pc, at U with the S handler at 0x401. -/
def atZero : State := start.modMe fun t => { t with bankH := { t.bankH with xvec := 0x401 } }

theorem witness_IllegalWordTraps (h : Obligations.IllegalWordTraps) : ∃ t, atZero.issueNow = .next t ∧ t.me.pc = 0x400 := by
  obtain ⟨⟨w, s'⟩, hf, hw⟩ := gotThen_ex (r := atZero.fetch 0 0) (k := fun p => (decode p.1).toOption = none) (by decide +kernel)
  obtain ⟨t, a, b, c, d⟩ := h atZero s' w (by decide +kernel) (by decide +kernel) (by decide +kernel) hf (by simpa using hw) (by decide +kernel)
    (by decide +kernel)
  exact ⟨t, a, c.trans (by decide +kernel)⟩

theorem witness_StepKeepsMemoryForm (h : Obligations.StepKeepsMemoryForm) : ∃ t, step atAddi = .next t ∧ t.memoryCanonical := by
  have n : (match step atAddi with | .next _ => true | _ => false) = true := by decide +kernel
  cases hs : step atAddi with
  | next t => exact ⟨t, rfl, h atAddi t (by unfold State.memoryCanonical; decide +kernel) hs⟩
  | fault f => rw [hs] at n; cases n
  | refused r => rw [hs] at n; cases n

/-! Scalar forms. -/

theorem witness_EncodeThenDecode (h : Obligations.EncodeThenDecode) : (decode 0x06505FFF#32).toOption = some (.addi 5 5 0xFFF) :=
  h (.addi 5 5 0xFFF) _ (by decide +kernel) (by decide +kernel)

theorem witness_DecodeThenEncode (h : Obligations.DecodeThenEncode) : encode (.addi 5 5 8) = some 0x06505008#32 :=
  (h 0x06505008#32 (.addi 5 5 8) (by decide +kernel)).2

theorem witness_NoInstructionWords (h : Obligations.NoInstructionWords) : (decode 0x1C000001#32).toOption = none :=
  h.1 _ (by decide +kernel)

def two : State := withX [(6, 1), (7, BitVec.allOnes 64)]

theorem witness_ImmediateForms (h : Obligations.ImmediateForms) : exec (.addi 5 6 0xFFF) two = .next (two.wrote 5 0) :=
  (h two 5 6 0xFFF 63).1 (by decide +kernel)

theorem witness_UnaryForms (h : Obligations.UnaryForms) : exec (.sextw 0 7) two = .next (two.wrote 0 (BitVec.allOnes 64)) :=
  (h two 0 7).2.2.2.1 (by decide +kernel)

theorem witness_RegisterForms (h : Obligations.RegisterForms) : exec (.add 31 6 7) two = .next (two.wrote 31 0) :=
  (h two 31 6 7).1 (by decide +kernel)

theorem witness_MultiplyDivide (h : Obligations.MultiplyDivide) : ∃ t, exec (.mul 5 7 7) two = .next t ∧ t.me.getX 5 = 1 := by
  obtain ⟨t, a, b, c⟩ := h two 5 7 7 (.mul 5 7 7) _ (.head _) (by decide +kernel)
  exact ⟨t, a, b.trans (by decide +kernel)⟩

theorem witness_UpperAndJumps (h : Obligations.UpperAndJumps) :
    exec (.jalr 6 6 3) two = .next (two.modMe fun t => { t.setX 6 (t.pc + 4) with pc := (t.getX 6 + (3 : BitVec 12).signExtend 64) &&& ~~~3#64 }) :=
  (h two 6 6 0 3).2.2.2 (by decide +kernel)

theorem witness_Branches (h : Obligations.Branches) : exec (.beq 0xFFF 6 6) two = .next (two.past (4 * (0xFFF : BitVec 12).signExtend 64)) :=
  (h two 0xFFF 6 6 _ _ (.head _) (by decide +kernel)).1 rfl

theorem witness_RegisterFrame (h : Obligations.RegisterFrame) : ∃ t, exec (.addi 0 6 1) two = .next t ∧ t.me.getX 0 = 0 := by
  obtain ⟨t, a, _, c, _⟩ := h two 0 6 0 1 0 0 (.addi 0 6 1) [0] (.head _) (by decide +kernel)
  exact ⟨t, a, c⟩

/-- A byte 0x80 at 0x208. -/
def atByte : State := withX [(6, 0x207), (7, 0xFFFFFFFFFFF00000)] (withWord 0x208 0x80)

theorem witness_Loads (h : Obligations.Loads) : ∃ t, exec (.lb 5 6 1) atByte = .next t ∧ t.me.getX 5 = 0xFFFFFFFFFFFFFF80 := by
  obtain ⟨t, a, b, c⟩ := h atByte 5 6 1 _ _ _ (physical 0x208) (.head _) (by decide +kernel) (by decide +kernel) (by decide +kernel)
    (by decide +kernel) (by decide +kernel)
  exact ⟨t, a, b.trans (by decide +kernel)⟩

/-- A store at the first byte of scratchpad. -/
theorem witness_Stores (h : Obligations.Stores) : ∃ t, exec (.sb 0 7 6) atByte = .next t ∧ t.readLoc (.spad 0 0) 1 = 7 := by
  obtain ⟨t, a, b, c⟩ := h atByte 7 6 0 _ _ { place := .spad 0 0, tag := { tenant := 0, line := 0 }, home := 0 } (.head _) (by decide +kernel)
    (by decide +kernel) (by decide +kernel) (by decide +kernel) (by decide +kernel)
  exact ⟨t, a, b.trans (by decide +kernel)⟩

/-- The word 5 at 0x200. -/
def atWord : State := withX [(6, 0x200), (7, 3)] (withWord 0x200 5)

theorem witness_Atomics (h : Obligations.Atomics) : ∃ t, exec (.amoadd 5 .core 6 7 .rlx) atWord = .next t ∧ t.readLoc (.mem 0x200) 8 = 8 := by
  obtain ⟨t, a, _, b, c⟩ := h atWord 5 6 7 .core .rlx _ _ (physical 0x200) (.tail _ (.head _)) (by decide +kernel) (by decide +kernel)
    (by decide +kernel) (by decide +kernel)
  exact ⟨t, a, b.trans (by decide +kernel)⟩

/-- The slot with a load of x9 in flight. -/
def inFlight : State := atWord.modMe fun t => t.launchFlight (.x 9) true none

theorem witness_Fences (h : Obligations.Fences) : exec .fenceI inFlight = .next (inFlight.modMe fun t => t.park .memwait .accesses) :=
  (h inFlight .die .fenceI (.tail _ (.tail _ (.head _))) (by decide +kernel)).1 (by decide +kernel)

/-- The slot with a product of x9 in flight, which is no access. -/
def computing : State := atWord.modMe fun t => t.launchFlight (.x 9) false none

/-- Each kind of fence goes on, past a pending product too. -/
theorem witness_Fences_performed (h : Obligations.Fences) :
    (∃ t, exec (.fence .die) atWord = .next t) ∧ (∃ t, exec (.fenceK .core) computing = .next t ∧ t.me.flights = computing.me.flights) ∧
    ∃ t, exec .fenceI computing = .next t ∧ t.myCore.icache = [] := by
  refine ⟨?_, ?_, ?_⟩
  · exact ((h atWord .die (.fence .die) (.head _) (by decide +kernel)).2 (by decide +kernel)).imp fun _ q => q.1
  · exact ((h computing .core (.fenceK .core) (.tail _ (.head _)) (by decide +kernel)).2 (by decide +kernel)).imp fun _ q => ⟨q.1, q.2.2.2.1⟩
  · exact ((h computing .die .fenceI (.tail _ (.tail _ (.head _))) (by decide +kernel)).2 (by decide +kernel)).imp fun _ q => ⟨q.1, q.2.2.2.2.2.2.2.2 rfl⟩

/-- The same word empty. -/
def atEmpty : State := atWord.memSetFull 0x200 false

theorem witness_FullEmptyReads (h : Obligations.FullEmptyReads) :
    (∃ t, exec (.ldfe 5 6 0) atWord = .next t ∧ t.me.getX 5 = 5) ∧ (∃ t, exec (.fempty 6 0) atWord = .next t) ∧
    (∃ t, exec (.sdef 0 6 7) atEmpty = .next t) ∧ ∃ t, exec (.ldfe 5 6 0) atEmpty = .next t ∧ t.me.state = .fewait := by
  have f (g : Instr) (i : atWord.issues g = true) := h atWord 5 6 7 0 (physical 0x200) g i (by decide +kernel) (by decide +kernel) (by decide +kernel)
    (by decide +kernel) (by decide +kernel)
  have e (g : Instr) (i : atEmpty.issues g = true) := h atEmpty 5 6 7 0 (physical 0x200) g i (by decide +kernel) (by decide +kernel) (by decide +kernel)
    (by decide +kernel) (by decide +kernel)
  refine ⟨?_, ?_, ?_, ?_⟩
  · exact ((f _ (by decide +kernel)).1 5 false (by decide +kernel)).imp fun _ q => ⟨q.1, q.2.1⟩
  · exact ((f _ (by decide +kernel)).2.1 rfl).imp fun _ q => q.1
  · exact ((e _ (by decide +kernel)).2.2.1 (by decide +kernel)).imp fun _ q => q.1
  · obtain ⟨t, q, a, b, c⟩ := (e (.ldfe 5 6 0) (by decide +kernel)).2.2.2 .ldfe (by decide +kernel)
    exact ⟨t, a, b⟩

/-- A waiter for the word at 0x200. -/
def waiter (k : SlotId) (kind : WaitKind) (d : BitVec 5) : Waiter :=
  { loc := (physical 0x200).point, agent := .slot 0 k, tenant := 0, kind := kind, dest := d, value := 0, va := 0x200, since := 0 }

/-- Three slots wait for it. -/
def threeWait : State :=
  { (([1, 2, 3] : List SlotId).foldl (fun s k => s.modSlot 0 k fun t => { t with state := .fewait }) atEmpty) with
    waiters := [waiter 1 .ldff 5, waiter 2 .ldfe 0, waiter 3 .ldff 7] }

theorem witness_FillServes (h : Obligations.FillServes) : (threeWait.fillWord (physical 0x200) 9).waiters = [waiter 3 .ldff 7] :=
  (h threeWait (physical 0x200) 9 _ _ _ 0 0 1 2 rfl rfl rfl rfl rfl rfl rfl rfl rfl (.inr (by decide)) (by decide +kernel) (fun _ _ e => by cases e)
    (by decide +kernel) (by decide +kernel) (by decide +kernel) (by decide +kernel) (by decide +kernel)).1

/-! Decimal and vector forms. -/

theorem witness_DecimalCodesReturn (h : Obligations.DecimalCodesReturn) : mk8Encode true (mk8Magnitude 255).1 (mk8Magnitude 255).2 = (255, noFlags) :=
  (h 255 (by decide) (by decide) (by decide)).1

end Sys2Proof.Tests
end

