-- ==== Sys2Proof/Tests/SystemWitness.lean ====
section
/-!
SUPPORT. Concrete states that meet the hypotheses of the statements about system registers, tables, frames and shootdowns.
-/
set_option Elab.async false
set_option maxRecDepth 100000

namespace Sys2Proof.Tests
open Sys2Proof Sys2Proof.Machine

/-- x6 holds all ones, x7 zero. -/
def ones : State := withX [(6, BitVec.allOnes 64), (7, 0)]

theorem witness_SystemRegisters_forms (h : Obligations.SystemRegisters) :
    (∃ t, exec (.srd 5 0x008) ones = .next t ∧ t.me.getX 5 = 0) ∧ (∃ t, exec (.swr 0 6 0x00A) ones = .next t ∧ t.sysRead 0 0 0x00A = 0x1F) ∧
    (∃ t, exec (.sset 5 6 0x108) ones = .next t ∧ t.sysRead 0 0 0x108 = sysMask 0x108) ∧ ∃ t, exec (.sclr 5 6 0x102) ones = .next t ∧ t.sysRead 0 0 0x102 = 0 := by
  refine ⟨?_, ?_, ?_, ?_⟩
  · obtain ⟨t, a, b, _⟩ := h.1 ones 5 0 0x008 (.srd 5 0x008) _ (.head _) (by decide +kernel)
    exact ⟨t, a, b.trans (by decide +kernel)⟩
  · obtain ⟨t, a, _, _, _, _, b⟩ := h.1 ones 0 6 0x00A (.swr 0 6 0x00A) _ (.tail _ (.head _)) (by decide +kernel)
    exact ⟨t, a, (b (by decide) _ rfl).1.trans (by decide +kernel)⟩
  · obtain ⟨t, a, _, _, _, _, b⟩ := h.1 ones 5 6 0x108 (.sset 5 6 0x108) _ (.tail _ (.tail _ (.head _))) (by decide +kernel)
    exact ⟨t, a, (b (by decide) _ rfl).1.trans (by decide +kernel)⟩
  · obtain ⟨t, a, _, _, _, _, b⟩ := h.1 ones 5 6 0x102 (.sclr 5 6 0x102) _ (.tail _ (.tail _ (.tail _ (.head _)))) (by decide +kernel)
    exact ⟨t, a, (b (by decide) _ rfl).1.trans (by decide +kernel)⟩

/-- A write of a register of core 0 takes effect. -/
def writes (sr : BitVec 12) (w : Word) (f : Core → Core := id) : State := { start.modCore 0 f with args := { core := 0, slot := 1, sr := sr, word := w } }

/-- A core with no work. -/
def workless : State :=
  { start.setSlot 0 0 Slot.powerOn with args := { core := 0 } }.modCore 0 fun q => { q with partWrites := [(0x201, 0x7FF), (0x202, 1)] }

theorem witness_SystemRegisters_events (h : Obligations.SystemRegisters) :
    (∃ t, exec .systemRegisterWrite (writes 0x106 (BitVec.allOnes 64)) = .next t ∧ t.sysRead 0 1 0x106 = sysMask 0x106) ∧
    (∃ t, exec .sramcfgWrite (writes 0 2) = .next t ∧ (t.core 0).splitWanted = some 2) ∧
    (∃ t, exec .sramcfgWrite (writes 0 3) = .next t ∧ (t.core 0).splitWanted = none) ∧
    (∃ t, exec .splitTakesEffect (writes 0 0 fun q => { q with splitWanted := some 0 }) = .next t ∧ (t.core 0).split = 0) ∧
    (∃ t, exec .partitionRegisterWrite workless = .next t ∧ (t.core 0).pbase = 0x7FF ∧ (t.core 0).plen = 1) ∧
    exec .partitionRegisterWrite (writes 0 0) = .next (writes 0 0) := by
  refine ⟨?_, ?_, ?_, ?_, ?_, ?_⟩
  · obtain ⟨t, a, b, _⟩ := h.2.1 (writes 0x106 (BitVec.allOnes 64)) (by decide +kernel)
    exact ⟨t, a, b.trans (by decide +kernel)⟩
  · obtain ⟨t, a, b, _⟩ := (h.2.2.1 (writes 0 2)).1
    exact ⟨t, a, b⟩
  · obtain ⟨t, a, b, _⟩ := (h.2.2.1 (writes 0 3)).1
    exact ⟨t, a, b⟩
  · obtain ⟨t, a, b, _⟩ := (h.2.2.1 (writes 0 0 fun q => { q with splitWanted := some 0 })).2.1 0 (by decide +kernel) (by decide +kernel) (by decide +kernel)
    exact ⟨t, a, b⟩
  · obtain ⟨t, a, b, c, _⟩ := (h.2.2.1 workless).2.2.1 _ _ (by decide +kernel) rfl
    exact ⟨t, a, b, c⟩
  · exact (h.2.2.1 (writes 0 0)).2.2.2 (by decide +kernel)

/-- At S with an object table of four entries, the last empty; x7 names it, x8 an image of a ring at 0x300000, x9 the third entry, a shape. -/
def editing : State :=
  let s := withX [(7, 4), (8, 0x300000), (9, 3)] (keyed (tables ++ [(0x300000, 0x43)]))
  s.modMe fun t => { t with objlim := 4 }

theorem witness_SystemRegisters_table (h : Obligations.SystemRegisters) :
    (∃ t, exec (.dtwr 7 8) editing = .next t ∧ t.readLoc (.mem 0x1100) 64 = 0x43) ∧ ∃ t, exec (.dtrd 9 8) editing = .next t ∧ t.readLoc (.mem 0x300000) 64 % 256 = 0x41 := by
  refine ⟨?_, ?_⟩
  · obtain ⟨⟨i, e⟩, s1, a, k⟩ := okThen_ex (r := namedEntry (.dtwr 7 8) (editing.me.getX 7) editing) (k := fun q s1 => s1 = editing ∧
      okThen (loadVA (editing.me.getX 8) 64 editing) fun v u => imageOk (BitVec.ofNat 512 v.1) = true ∧ v.1 = 0x43 ∧
        u.changeRefused u.me q.1.toNat q.2 (BitVec.ofNat 512 v.1) = false ∧
        okThen (guestAccess (u.me.objectAddr q.1.toNat) 64 .store u) fun l w => w = u ∧ l.place = .mem 0x1100) (by decide +kernel)
    obtain ⟨rfl, k0⟩ := of_decide_eq_true k
    obtain ⟨⟨v, line⟩, u, b, k⟩ := okThen_ex k0
    obtain ⟨k1, k2, k3, k⟩ := of_decide_eq_true k
    obtain ⟨l, w, c, k⟩ := okThen_ex k
    obtain ⟨rfl, k4⟩ := of_decide_eq_true k
    obtain ⟨t, d, f, _⟩ := h.2.2.2.1 editing w 7 8 i e v line l (by decide +kernel) (by decide +kernel) a b k1 k3 c
    exact ⟨t, d, by rw [← k4, f]; exact k2⟩
  · obtain ⟨⟨i, e⟩, s1, a, k⟩ := okThen_ex (r := namedEntry (.dtrd 9 8) (editing.me.getX 9) editing) (k := fun q s1 => s1 = editing ∧ q.2.toNat % 256 = 0x41)
      (by decide +kernel)
    obtain ⟨rfl, k0⟩ := of_decide_eq_true k
    have l : (editing.locate editing.cur.core editing.me (editing.me.getX 8) 64 .store).toOption =
      some { place := .mem 0x300000, tag := { tenant := 0, line := 0x6000 }, home := 0 } := by decide +kernel
    obtain ⟨t, d, f, _⟩ := h.2.2.2.2.1 editing 9 8 i e _ (by decide +kernel) (by decide +kernel) (by decide +kernel) a l
    exact ⟨t, d, by rw [f]; exact k0⟩

/-- The count of frame 3 is 0xFFFF. -/
def frames : State := withX [(7, 3 <<< 14), (8, 2)] (keyed ((tables.take 19) ++ [(0x2006, 0xFF), (0x2007, 0xFF)] ++ tables.drop 19)) |>.modMe fun t =>
  { t with frbase := 0x2000 }

theorem witness_SystemRegisters_share (h : Obligations.SystemRegisters) :
    ∃ t, exec (.pshare 5 7 8) frames = .next t ∧ t.me.getX 5 = 1 ∧ t.readLoc (.mem 0x2006) 2 = 1 := by
  obtain ⟨l, s1, a, k⟩ := okThen_ex (r := guestAccess (frames.me.frbase.toNat + 2 * ((frames.me.getX 7).extractLsb' 14 26).toNat) 2 .rmw frames)
    (k := fun l s1 => s1 = frames ∧ l.place = .mem 0x2006) (by decide +kernel)
  obtain ⟨rfl, k0⟩ := of_decide_eq_true k
  obtain ⟨t, b, c, d, _⟩ := h.2.2.2.2.2.1 frames 5 7 8 l (by decide +kernel) (by decide +kernel) a (by rw [k0]; decide +kernel)
  rw [k0] at c d
  exact ⟨t, b, d.trans (by decide +kernel), c.trans (by decide +kernel)⟩

/-- x7 an address, x8 kind 5 at H and kind 3 at S. -/
def shooting (p : Level) : State := (withX [(7, 0x4000), (8, if p = .h then 5 <<< 16 else 3 <<< 16)]).modMe fun t => { t with priv := p }

/-- Core 0 has an entry of another page beside one of the page shot down, for slot 0, which waits. -/
def shot : State :=
  let s := start.modMe fun t => t.park .memwait (.acks 4)
  { s.modCore 0 fun q => { q with tlb := [⟨0, 0, 1, 14, 0xDF⟩, ⟨0, 0, 2, 14, 0xDF⟩] } with
    args := { core := 0, num := 4 },
    shootdowns := [{ id := 4, core := 0, slot := 0, tenant := 0, kind := 0, asid := 0, addr := 0x4000, owed := [0] }] }

theorem witness_SystemRegisters_shootdown (h : Obligations.SystemRegisters) :
    (∃ t, exec (.tlbinv 7 8) (shooting .h) = .next t ∧ t.me.state = .memwait) ∧ (∃ t, exec (.tlbinv 7 8) (shooting .s) = .next t ∧ t.me.state = .memwait) ∧
    (∃ t, exec .shootdown shot = .next t ∧ (⟨0, 0, 2, 14, 0xDF⟩ : TlbEntry) ∈ (t.core 0).tlb ∧ (⟨0, 0, 1, 14, 0xDF⟩ : TlbEntry) ∉ (t.core 0).tlb) ∧
    ∃ t, exec .shootdownAck shot = .next t ∧ (t.slot 0 0).pc = 0x104 := by
  refine ⟨?_, ?_, ?_, ?_⟩
  · obtain ⟨t, d, a, b, _⟩ := h.2.2.2.2.2.2.1 (shooting .h) 7 8 (by decide +kernel) (by decide +kernel) (by decide +kernel) (by decide +kernel)
    exact ⟨t, a, by rw [b]; rfl⟩
  · obtain ⟨t, d, a, b, _⟩ := h.2.2.2.2.2.2.1 (shooting .s) 7 8 (by decide +kernel) (by decide +kernel) (by decide +kernel) (by decide +kernel)
    exact ⟨t, a, by rw [b]; rfl⟩
  · obtain ⟨t, a, b, c, _⟩ := (h.2.2.2.2.2.2.2 shot _ rfl rfl).1 (fun _ => by decide +kernel)
    refine ⟨t, a, c _ (.tail _ (.head _)) (by decide +kernel), fun m => ?_⟩
    exact absurd (b _ m) (by decide +kernel)
  · obtain ⟨t, a, _, b⟩ := (h.2.2.2.2.2.2.2 shot _ rfl rfl).2 rfl (by decide +kernel)
    exact ⟨t, a, (congrArg Slot.pc b).trans rfl⟩

end Sys2Proof.Tests
end

