-- ==== Sys2Proof/Tests/TaskWitness.lean ====
section
/-!
SUPPORT. Concrete states that meet the hypotheses of the statements about tasks, hops and the start of work.
-/
set_option Elab.async false
set_option maxRecDepth 100000

namespace Sys2Proof.Tests
open Sys2Proof Sys2Proof.Machine

/-- A continuation record of slot 0 at incarnation 0 with frame 0x200. -/
def record : Continuation :=
  { pc := 0x500, frame := 0x200, mfmt := 9, slot := 0, inc := 0, tenant := 0, priv := .h, x3 := 3, x4 := 4, h := #v[8, 9, 10, 11, 12, 13, 14, 15] }

/-- The frame at 0x200 counts `n` tasks and has `w` in its second word; the deque holds `l`. -/
def frame (n w : Nat) (l : List Continuation) : State :=
  (withX [(6, 0x200), (1, 0x200)] ((start.memWrite 0x200 8 n).memWrite 0x208 8 w)).modCore 0 fun q => { q with deque := l }

theorem witness_TasksAndHops_spawn (h : Obligations.TasksAndHops) :
    (∃ t, exec (.spawn 6 0xFFF) (frame 0 0 []) = .next t ∧ t.me.pc = 0xFC ∧ t.me.getX 1 = 0x200) ∧
    ∃ t, exec (.spawn 6 0xFFF) (frame 0 0 (List.replicate 256 record)) = .next t ∧ t.me.getX 1 = 0x105 := by
  refine ⟨?_, ?_⟩
  · obtain ⟨t, r, a, b, c, _⟩ := (h.1 (frame 0 0 []) 6 0xFFF (by decide +kernel) (by decide +kernel)).2 (physical 0x200) (by decide +kernel) (by decide +kernel)
      (by decide +kernel)
    exact ⟨t, a, c.trans (by decide +kernel), b.trans (by decide +kernel)⟩
  · obtain ⟨t, a, b, _⟩ := (h.1 (frame 0 0 (List.replicate 256 record)) 6 0xFFF (by decide +kernel) (by decide +kernel)).1 (by decide +kernel)
    exact ⟨t, a, b.trans (by decide +kernel)⟩

/-- Slot 15 of core 0 waits for the frame. -/
def joined : State := (frame 1 (((frame 1 0 []).checkedWord 0 15).toNat) []).setSlot 0 15 { (Slot.powerOn.park .joinwait (.frame 0x200)) with pc := 0x700 }

theorem witness_TasksAndHops_sret (h : Obligations.TasksAndHops) :
    (∃ t, exec .sret (withX [(1, 0x105)] (frame 0 0 [])) = .next t ∧ t.me.pc = 0x104) ∧
    (∃ t, exec .sret (frame 2 0 [record]) = .next t ∧ t.me.pc = 0x500 ∧ t.me.mfmt = 9) ∧
    ∃ t, exec .sret joined = .next t ∧ t.me.state = .idle ∧ (t.slot 0 15).pc = 0x704 := by
  refine ⟨?_, ?_, ?_⟩
  · obtain ⟨t, a, b, _⟩ := (h.2.1 (withX [(1, 0x105)] (frame 0 0 [])) (by decide +kernel)).1 (by decide +kernel) (by decide +kernel)
    exact ⟨t, a, b.trans (by decide +kernel)⟩
  · obtain ⟨t, a, b, c, _⟩ := ((h.2.1 (frame 2 0 [record]) (by decide +kernel)).2 (physical 0x200) (by decide +kernel) (by decide +kernel) (by decide +kernel)).1 []
      record (by decide +kernel) (by decide +kernel) (by decide +kernel)
    exact ⟨t, a, b, c.trans (by decide +kernel)⟩
  · obtain ⟨t, a, b, _, _, _, _, c⟩ := ((h.2.1 joined (by decide +kernel)).2 (physical 0x200) (by decide +kernel) (by decide +kernel) (by decide +kernel)).2
      ((frame 1 0 []).checkedWord 0 15) (by decide +kernel) (fun _ m => nomatch m) (by decide +kernel) (by decide +kernel) (by decide +kernel) rfl rfl
      (by decide +kernel) (by decide +kernel) rfl (by decide +kernel) (by decide +kernel) (by decide +kernel) (by decide +kernel)
    exact ⟨t, a, b, c.trans (by decide +kernel)⟩

theorem witness_TasksAndHops_sync (h : Obligations.TasksAndHops) :
    (∃ t, exec (.sync 6) (frame 0 0 []) = .next t ∧ t.me.pc = 0x104) ∧ (∃ t, exec (.sync 6) (frame 1 0 []) = .next t ∧ t.me.state = .joinwait) ∧
    exec .yield start = .next ((start.modMe fun t => { t with yielded := true }).past 4) := by
  refine ⟨?_, ?_, ?_⟩
  · obtain ⟨t, a, b, _⟩ := (h.2.2.1 (frame 0 0 []) 6 (physical 0x200) (by decide +kernel) (by decide +kernel) (by decide +kernel) (by decide +kernel)).1
      (by decide +kernel)
    exact ⟨t, a, b⟩
  · obtain ⟨t, a, b, _⟩ := (h.2.2.1 (frame 1 0 []) 6 (physical 0x200) (by decide +kernel) (by decide +kernel) (by decide +kernel) (by decide +kernel)).2
      (by decide +kernel)
    exact ⟨t, a, congrArg Slot.state b⟩
  · exact h.2.2.2.1 start (by decide +kernel)

/-- A light thread on a partition of the first eight cores; x6 names the last of them. -/
def lightThread : State := (withX [(6, 7)] start).modCore 0 fun q => { q with plen := 8, slots := q.slots.set 0 { q.slots[0] with light := true } }

theorem witness_TasksAndHops_hop (h : Obligations.TasksAndHops) : ∃ t, exec (.hop 6) lightThread = .next t ∧ t.me.state = .idle ∧ t.me.inc = 1 := by
  obtain ⟨t, a, b, c, _⟩ := h.2.2.2.2.1 lightThread lightThread (.hop 6) 7 6 0 0 none (by decide +kernel) rfl rfl rfl (by decide) rfl (by decide +kernel)
    (.inl ⟨rfl, rfl, rfl, by decide +kernel, by decide +kernel⟩)
  exact ⟨t, a, b, c.trans (by decide +kernel)⟩

/-- A light thread at S beside the labelled region homed at comb 0: on core 0, and on core 8 of comb 1. -/
def lightAt (c : CoreId) : State :=
  let m := tables ++ treePool 1 [] ++ sparseEmpty
  let s := (keyed m).setSlot c 0 { (keyed m).me with light := true }
  { List.foldl (fun s k => s.modCore (BitVec.ofNat 11 k) fun q => { q with plen := 16 }) s (List.range 16) with cur := { core := c, slot := 0 } }

theorem witness_TasksAndHops_hopk (h : Obligations.TasksAndHops) :
    (∃ t, exec (.hopk 0 1) (lightAt 0) = .next t ∧ t.me.state = .run) ∧ ∃ t, exec (.hopk 0 1) (lightAt 8) = .next t ∧ t.me.state = .idle := by
  refine ⟨?_, ?_⟩
  · obtain ⟨r, s1, a, k⟩ := okThen_ex (r := namedRegion (.hopk 0 1) 1 false .either (lightAt 0)) (k := fun r s1 => s1 = lightAt 0 ∧
      okThen (checkPlace r 0 (lightAt 0)) (fun _ t => t = lightAt 0) ∧
      okThen (homeComb r 0 (lightAt 0)) (fun b u => b = combOf (lightAt 0).cur.core ∧ u.me.state = .run)) (by decide +kernel)
    obtain ⟨rfl, k, l⟩ := of_decide_eq_true k
    obtain ⟨_, t, c, k⟩ := okThen_ex k
    obtain ⟨b, u, d, l⟩ := okThen_ex l
    obtain ⟨rfl, l2⟩ := of_decide_eq_true l
    rw [of_decide_eq_true k] at c
    obtain ⟨t, e, _, f, _⟩ := h.2.2.2.2.2.1 (lightAt 0) u 0 1 r _ (by decide +kernel) (by decide +kernel) (by decide +kernel) (by decide +kernel) (by decide)
      a c d (.inl rfl)
    exact ⟨t, e, f.trans l2⟩
  · obtain ⟨r, s1, a, k⟩ := okThen_ex (r := namedRegion (.hopk 0 1) 1 false .either (lightAt 8)) (k := fun r s1 => s1 = lightAt 8 ∧
      okThen (checkPlace r 0 (lightAt 8)) (fun _ t => t = lightAt 8) ∧
      okThen (homeComb r 0 (lightAt 8)) (fun b u => b ≠ combOf (lightAt 8).cur.core ∧ u.me.flights = [] ∧ u.myCore.iface.length < 8 ∧
        (firstOf (u.inPartition (lightAt 8).cur.core) (coresOfComb b)).isSome)) (by decide +kernel)
    obtain ⟨rfl, k, l⟩ := of_decide_eq_true k
    obtain ⟨_, t, c, k⟩ := okThen_ex k
    obtain ⟨b, u, d, l⟩ := okThen_ex l
    obtain ⟨l1, l2, l3, l4⟩ := of_decide_eq_true l
    rw [of_decide_eq_true k] at c
    obtain ⟨v, l4⟩ := some_ex l4
    obtain ⟨t, e, f, _⟩ := h.2.2.2.2.1 (lightAt 8) u (.hopk 0 1) v 0 0 1 (some b) (by decide +kernel) (by decide +kernel) (by decide +kernel) (by decide +kernel)
      (by decide) l2 l3 (.inr ⟨rfl, r, b, a, c, d, rfl, l1, l4⟩)
    exact ⟨t, e, f⟩

/-- Slot 0 owns za3, on which an operation is queued or not. -/
def stops (l : List MatrixOp) : State := start.modCore 0 fun q => { q with zaOwner := #v[none, none, none, some (0, 0)], matrix := l }

theorem witness_TasksAndHops_stop (h : Obligations.TasksAndHops) :
    exec .stop (stops [{ slot := 0, z := 3, form := .zero }]) = .next ((stops [{ slot := 0, z := 3, form := .zero }]).waits (.release 3)) ∧
    ∃ t, exec .stop (stops []) = .next t ∧ t.me.state = .idle := by
  refine ⟨?_, ?_⟩
  · exact (h.2.2.2.2.2.2 (stops [{ slot := 0, z := 3, form := .zero }]) (by decide +kernel) (by decide +kernel) (by decide +kernel)).1 3 (by decide +kernel)
  · obtain ⟨t, a, b, _⟩ := (h.2.2.2.2.2.2 (stops []) (by decide +kernel) (by decide +kernel) (by decide +kernel)).2 (by decide +kernel)
    exact ⟨t, a, b⟩

/-! The start of work. -/

/-- A launch message: pc 0x900 with flag bits `w`, and arguments. -/
def launchAt (w : Word) : Message :=
  { dest := 0, sender := 0x77, tenant := 0, cls := 0, origin := .slot, payload := #v[0x900 ||| w, 0xAA, 0xBB, 0], body := .plain }

/-- The same core with an inbound queue and a deque. -/
def inbox (l : List Message) (q : List Continuation := []) (k : SlotId := 0) : State :=
  { start.modCore 0 fun c => { c with inbox := l, deque := q, slstk := 0x10000 } with args := { core := 0, slot := k } }

def traveller : HopState :=
  { pc := 0xA00, priv := 0, fflags := 3, xs := Vector.replicate 14 7, lbs := #v[1, 2, 3, 4], fewlim := 0 }

theorem witness_WorkStarts_messages (h : Obligations.WorkStarts) :
    (∃ t, exec .launch (inbox [launchAt 1]) = .next t ∧ (t.slot 0 1).pc = 0x900 ∧ (t.slot 0 1).getX 11 = 0xBB ∧ (t.slot 0 1).light = true) ∧
    (∃ t, exec .launch (inbox [launchAt 2] [] 15) = .next t ∧ (t.slot 0 15).state = .run) ∧
    ∃ t, exec .hopArrival (inbox [{ launchAt 0 with body := .hop traveller (some 0) }]) = .next t ∧ (t.slot 0 1).pc = 0xA00 ∧ (t.slot 0 1).getX 15 = 7 ∧
      (t.slot 0 1).getL 3 = 4 := by
  refine ⟨?_, ?_, ?_⟩
  · obtain ⟨t, a, _, b, _, _, c, _, _, d, _⟩ := (h.1 (inbox [launchAt 1]) (launchAt 1) 1 record).1 (by decide +kernel) (by decide +kernel) (by decide +kernel)
      (by decide +kernel)
    exact ⟨t, a, b, c, d⟩
  · obtain ⟨t, a, b, _⟩ := (h.1 (inbox [launchAt 2] [] 15) (launchAt 2) 1 record).2.1 (by decide +kernel) (by decide +kernel) (by decide +kernel)
    exact ⟨t, a, b⟩
  · obtain ⟨t, a, _, b, _, _, _, _, c, d⟩ := (h.1 (inbox [{ launchAt 0 with body := .hop traveller (some 0) }]) { launchAt 0 with body := .hop traveller (some 0) } 1 record).2.2.1
      traveller (some 0) (by decide +kernel) (by decide +kernel) rfl
    exact ⟨t, a, b, (c ⟨12, by decide⟩).trans (by decide +kernel), (d ⟨3, by decide⟩).trans (by decide +kernel)⟩

/-- Core 1, next to it, has a record to steal. -/
def stealing : State := ((inbox []).modCore 0 fun q => { q with plen := 8 }).modCore 1 fun q => { q with plen := 8, deque := [{ record with x3 := 33 }, record] }

theorem witness_WorkStarts_deque (h : Obligations.WorkStarts) :
    (∃ t, exec .dequePop (inbox [] [record]) = .next t ∧ (t.slot 0 1).pc = 0x500 ∧ (t.slot 0 1).getX 31 = 15) ∧
    ∃ t, exec .steal stealing = .next t ∧ (t.core 1).deque = [record] ∧ (t.slot 0 1).getX 3 = 33 := by
  refine ⟨?_, ?_⟩
  · obtain ⟨t, a, _, _, b, _, _, _, c, _⟩ := (h.1 (inbox [] [record]) (launchAt 0) 1 record).2.2.2.1 [] (by decide +kernel) (by decide +kernel) (by decide +kernel)
    exact ⟨t, a, b, (c ⟨7, by decide⟩).trans (by decide +kernel)⟩
  · obtain ⟨t, a, b, _, _, c, _⟩ := (h.1 stealing (launchAt 0) 1 { record with x3 := 33 }).2.2.2.2 [record] 1 (by decide +kernel) (by decide +kernel) (by decide +kernel)
      (by decide +kernel) rfl rfl
    exact ⟨t, a, b, c⟩

/-- Object 4 a gang of 2 cores from core 0, one slot each, one barrier, at pc 0xB00. -/
def gangCells : List Host.Cell := [(0x1100, 0x45), (0x112D, 0x11), (0x112C, 0x20), (0x1139, 0x0B)]

/-- The issuer at S beside it, on a partition of 8 cores; x7 names it. -/
def ganging (extra : List Host.Cell := []) : State :=
  let s := withX [(7, 4)] (keyed ((tables.take 19) ++ gangCells ++ extra ++ tables.drop 19))
  (s.modMe fun t => { t with objlim := 4 }).modCore 0 fun q => { q with plen := 8 }

def ganging0 : State := ganging

/-- An entry with a bit of its zero field set. -/
def gangBroken : State := ganging [(0x1101, 1)]

/-- The gang as queued, with slot 1 of each core. -/
def gang (first n : Nat) (l : List (CoreId × SlotId)) (arrived : List (CoreId × SlotId)) : Gang :=
  { id := 5, index := 4, tenant := 0, priv := .s, pc := 0xB00, arg := 0xC, first := BitVec.ofNat 11 first, ncores := n, spc := 1, nbar := 1, light := false,
    running := false, reserved := [], active := l, arrived := #v[arrived, [], [], []] }

def admitting (g : Gang) : State := { start with gangs := [g], admission := #v[[5], [], [], []] }

/-- Slot 0 is rank 0 of the gang. -/
def atBarrier (l : List (CoreId × SlotId)) : State :=
  ({ start with gangs := [gang 0 2 [(0, 0), (1, 1)] l] } : State).modMe fun t => { t with gang := some (5, 0) }

theorem witness_WorkStarts_gangs (h : Obligations.WorkStarts) :
    (∃ t, exec (.ganggo 7) ganging0 = .next t ∧ t.gangs.length = 1) ∧
    (∃ t, exec .gangAdmission (admitting (gang 0 2 [] [])) = .next t ∧ (t.slot 1 0).state = .run ∧ (t.slot 1 0).getX 11 = 1) ∧
    exec .gangAdmission (admitting { gang 0 1 [] [] with spc := 15 }) =
      .next ((admitting { gang 0 1 [] [] with spc := 15 }).putGang ((admitting { gang 0 1 [] [] with spc := 15 }).collect { gang 0 1 [] [] with spc := 15 })) ∧
    (∃ t, exec (.gbar 0) (atBarrier []) = .next t ∧ t.me.state = .barwait) ∧
    ∃ t, exec (.gbar 0) (atBarrier [(1, 1)]) = .next t ∧ (t.slot 1 1).state = .run := by
  refine ⟨?_, ?_, ?_, ?_, ?_⟩
  · obtain ⟨e, s1, a, k⟩ := okThen_ex (r := useObject (.ganggo 7) ((ganging0.me.getX 7).extractLsb' 0 16) 5 ganging0) (k := fun e s1 => s1 = ganging0 ∧
      gangFirst e = 0 ∧ gangCores e = 2 ∧ gangSpc e = 1 ∧ gangNbar e = 1 ∧ field e 355 7 = 0) (by decide +kernel)
    obtain ⟨rfl, k1, k2, k3, k4, k5⟩ := of_decide_eq_true k
    have p : ∀ c < 2, ganging0.inPartition ganging0.cur.core (BitVec.ofNat 11 c) = true := by decide +kernel
    obtain ⟨t, b, c, _⟩ := h.2.1 ganging0 7 e (by decide +kernel) a (by rw [k1, k2]; decide) (by rw [k1, k2])
      (by rw [k1, k2]; exact fun c _ l => p c (by omega)) k5 (by rw [k3]; decide) (by rw [k4]; decide)
    exact ⟨t, b, by rw [c, show ganging0.gangs = [] by decide +kernel]; rfl⟩
  · obtain ⟨t, a, _, b⟩ := (h.2.2.2.1 (admitting (gang 0 2 [] [])) (gang 0 2 [] []) _ (by decide +kernel) rfl).2 (by decide +kernel) (by decide +kernel)
    have m : (((1 : CoreId), (0 : SlotId)), 1) ∈ ((admitting (gang 0 2 [] [])).collect (gang 0 2 [] [])).members.zipIdx := by decide +kernel
    obtain ⟨c, _, _, _, d, _⟩ := b (1, 0) 1 m
    exact ⟨t, a, c, d⟩
  · exact (h.2.2.2.1 (admitting { gang 0 1 [] [] with spc := 15 }) _ _ (by decide +kernel) rfl).1 (by decide +kernel)
  · obtain ⟨t, a, b⟩ := (h.2.2.2.2 (atBarrier []) 0 5 0 (gang 0 2 [(0, 0), (1, 1)] []) (by decide +kernel) (by decide +kernel) (by decide +kernel)
      (by decide +kernel)).1 (by decide +kernel)
    exact ⟨t, a, by rw [b]; rfl⟩
  · obtain ⟨t, a, b⟩ := (h.2.2.2.2 (atBarrier [(1, 1)]) 0 5 0 (gang 0 2 [(0, 0), (1, 1)] [(1, 1)]) (by decide +kernel) (by decide +kernel) (by decide +kernel)
      (by decide +kernel)).2 (by decide +kernel) (by decide +kernel) (by decide +kernel)
    exact ⟨t, a, (b (1, 1) (.head _)).1⟩

theorem witness_WorkStarts_broken (h : Obligations.WorkStarts) : exec (.ganggo 7) gangBroken = .next (gangBroken.traps 0x0A (xvalObject (.ganggo 7) 4 7)) := by
  obtain ⟨e, s1, a, k⟩ := okThen_ex (r := useObject (.ganggo 7) ((gangBroken.me.getX 7).extractLsb' 0 16) 5 gangBroken) (k := fun e s1 => s1 = gangBroken ∧
    field e 355 7 ≠ 0) (by decide +kernel)
  obtain ⟨k1, k2⟩ := of_decide_eq_true k
  rw [k1] at a
  exact h.2.2.1 gangBroken 7 e (by decide +kernel) a (.inl k2)

end Sys2Proof.Tests
end

