-- ==== Sys2Proof/Tests/TrapWitness.lean ====
section
/-!
SUPPORT. Concrete states that meet the hypotheses of the statements about traps and waits.
-/
set_option Elab.async false
set_option maxRecDepth 100000

namespace Sys2Proof.Tests
open Sys2Proof Sys2Proof.Machine

/-- Slot 0 at a level, with handlers of S and H at 0x4000 and 0x8000 and x6 an address; then a change. -/
def trapping (p : Level) (f : Slot → Slot := id) : State := (withX [(6, 0x200)] atWorks).modMe fun t =>
  f { t with priv := p, ie := true, bankS := { t.bankS with xvec := 0x4003 }, bankH := { t.bankH with xvec := 0x8001 } }
where atWorks : State := { start with controller := { start.controller with bootBlock := some 0x2000 }, args := { core := 0, slot := 0 } }

/-- Slot 0 runs a light thread. -/
def lightOne : State := trapping .h fun t => { t with light := true }
/-- Slot 0 has a result in flight. -/
def busyAt (p : Level) : State := trapping p fun t => t.launchFlight (.x 9) false none

theorem witness_Traps_refused (h : Obligations.Traps) :
    exec (.vadd 1 2 3 .i32 0) lightOne = .next (lightOne.traps 2 (xvalSub (.vadd 1 2 3 .i32 0) 3)) ∧
    exec (.sh 1 6 7) (trapping .h) = .next ((trapping .h).traps 4 0x201) := by
  refine ⟨?_, ?_⟩
  · exact h.1 lightOne _ _ _ (by decide +kernel) (by decide +kernel)
  · exact (h.2.2.1 (trapping .h) 7 6 7 1 (.sh 1 6 7) _ (.tail _ (.tail _ (.tail _ (.tail _ (.tail _ (.tail _ (.head _))))))) (by decide +kernel) (by decide +kernel)
      (by decide +kernel)).trans (by rw [show (trapping .h).me.getX 6 + (1 : BitVec 12).signExtend 64 = 0x201 by decide +kernel])

/-- Slot 1 runs the third stage of a folded chain at U. -/
def stageAt : State :=
  { start.setSlot 0 1 { Slot.powerOn with state := .run, priv := .u, form := some .folded, stage := 2, bankS := { Slot.powerOn.bankS with xvec := 0x4000 } }
    with cur := { core := 0, slot := 1 } }

theorem witness_Traps_levels (h : Obligations.Traps) :
    exec (.srd 31 0x108) (trapping .u) = .next ((trapping .u).traps 2 (xvalSub (.srd 31 0x108) 2)) ∧
    exec .xret (trapping .u) = .next ((trapping .u).traps 2 (xvalSub .xret 2)) ∧
    exec (.swr 31 6 0x011) (trapping .s) = .next ((trapping .s).traps 2 (xvalSub (.swr 31 6 0x011) 2)) ∧
    exec (.ld 5 16 0) lightOne = .next (lightOne.traps 2 (xvalSub (.ld 5 16 0) 3)) ∧
    exec (.lbpar 3 4) lightOne = .next (lightOne.traps 2 (xvalSub (.lbpar 3 4) 3)) ∧
    exec (.mvcp 31 1 6 7) (trapping .h) = .next ((trapping .h).traps 2 (xvalSub (.mvcp 31 1 6 7) 4)) := by
  have k (s : State) (f : Instr) (d a : BitVec 5) (r : BitVec 12) (p q : BitVec 3) :=
    h.2.1 s f d a 7 0 r 9 5 1 2 p q 1 2 3 2 .i32 .bf16 .spread .eq 1
  refine ⟨?_, ?_, ?_, ?_, ?_, ?_⟩
  · exact (k (trapping .u) (.srd 31 0x108) 31 6 0x108 0 0 (by decide +kernel)).1 (.inr ⟨by decide +kernel, by decide +kernel⟩)
  · exact (k (trapping .u) .xret 31 6 0 0 0 (by decide +kernel)).1 (.inl ⟨by decide +kernel, rfl⟩)
  · exact (k (trapping .s) (.swr 31 6 0x011) 31 6 0x011 0 0 (by decide +kernel)).1 (.inr ⟨by decide +kernel, by decide +kernel⟩)
  · exact (k lightOne (.ld 5 16 0) 5 16 0 0 0 (by decide +kernel)).2.1 rfl (.inr (.inl ⟨by decide +kernel, by decide⟩))
  · exact (k lightOne (.lbpar 3 4) 5 16 0 3 4 (by decide +kernel)).2.1 rfl (.inr (.inr (.inr ⟨by decide +kernel, by decide⟩)))
  · exact (k (trapping .h) (.mvcp 31 1 6 7) 31 6 0 0 0 (by decide +kernel)).2.2.1 (by decide +kernel) (by decide) (fun e => by cases e)

theorem witness_Traps_stages (h : Obligations.Traps) :
    exec (.sync 6) lightOne = .next (lightOne.traps 2 (xvalSub (.sync 6) 5)) ∧
    exec (.lbcp 3 4) stageAt = .next (stageAt.traps 0x0F (xvalUnit (.lbcp 3 4) 2 4)) ∧
    exec (.vadd 5 1 2 .i32 0) stageAt = .next (stageAt.traps 0x0F (xvalUnit (.vadd 5 1 2 .i32 0) 2 3)) ∧
    exec (.add 5 16 7) stageAt = .next (stageAt.traps 0x0F (xvalUnit (.add 5 16 7) 2 3)) ∧
    exec .chend (trapping .h) = .next ((trapping .h).traps 0x0F (xvalUnit .chend 0 1)) := by
  have k (s : State) (f : Instr) (d a : BitVec 5) (m : BitVec 3) := h.2.1 s f d a 7 0 0 9 5 1 2 3 4 m 2 3 2 .i32 .bf16 .spread .eq 1
  have stage : stageAt.me.form.isSome = true ∧ stageAt.me.priv = .u ∧ stageAt.me.light = false := by decide +kernel
  refine ⟨?_, ?_, ?_, ?_, ?_⟩
  · exact (k lightOne (.sync 6) 5 6 0 (by decide +kernel)).2.2.2.1 (by decide +kernel) (.inr (.inl rfl)) (fun _ => by decide)
  · exact (k stageAt (.lbcp 3 4) 5 6 0 (by decide +kernel)).2.2.2.2.1 stage (by decide +kernel)
  · exact (k stageAt (.vadd 5 1 2 .i32 0) 5 6 0 (by decide +kernel)).2.2.2.2.2.1 stage (.inr (.inr ⟨rfl, by decide⟩))
  · exact (k stageAt (.add 5 16 7) 5 16 0 (by decide +kernel)).2.2.2.2.2.1 stage (.inr (.inl ⟨rfl, by decide⟩))
  · exact (k (trapping .h) .chend 5 6 0 (by decide +kernel)).2.2.2.2.2.2 (by decide +kernel) (by decide +kernel) rfl

theorem witness_Traps_calls (h : Obligations.Traps) :
    (∃ t, exec .ecall (trapping .u) = .next t ∧ t.me.bankS.xpc = 0x100 ∧ t.me.bankS.xcause = 0x1000000000000006 ∧ t.me.pc = 0x4000 ∧ t.me.priv = .s) ∧
    (∃ t, exec .ebreak (trapping .s) = .next t ∧ t.me.bankH.xcause = 0x3000000000000003 ∧ t.me.pc = 0x8000) ∧
    (∃ t, exec .ecall (trapping .h) = .next t ∧ t.me.bankH.xcause = 0x5000000000000008) ∧
    exec .ecall (busyAt .h) = .next ((busyAt .h).modMe fun t => t.park .memwait .earlier) := by
  refine ⟨?_, ?_, ?_, ?_⟩
  · obtain ⟨t, a, b, c, _, _, _, d, _, e, _⟩ := (h.2.2.2.1 (trapping .u) .ecall 6 .s (.head _) (by decide +kernel)).2 (by decide +kernel)
    exact ⟨t, a, b, c.trans (by decide +kernel), e.trans (by decide +kernel), d⟩
  · obtain ⟨t, a, b, c, _, _, _, d, _, e, _⟩ := (h.2.2.2.1 (trapping .s) .ebreak 3 .h (.tail _ (.head _)) (by decide +kernel)).2 (by decide +kernel)
    exact ⟨t, a, c.trans (by decide +kernel), e.trans (by decide +kernel)⟩
  · obtain ⟨t, a, b, c, _⟩ := (h.2.2.2.1 (trapping .h) .ecall 8 .h (.head _) (by decide +kernel)).2 (by decide +kernel)
    exact ⟨t, a, c.trans (by decide +kernel)⟩
  · exact (h.2.2.2.1 (busyAt .h) .ecall 8 .h (.head _) (by decide +kernel)).1 (by decide +kernel)

theorem witness_Traps_async (h : Obligations.Traps) :
    (∃ t, exec .asyncTrap (trapping .u fun t => { t with pendNotice := some 0x55, pendStop := true }) = .next t ∧ t.me.bankH.xval = 0x55 ∧
      t.me.bankH.xcause = 0x9000000000000003 ∧ t.me.pendNotice = none) ∧
    (∃ t, exec .asyncTrap (trapping .u fun t => { t with pendStop := true, pendTimer := true, tcmp := 0 }) = .next t ∧ t.me.bankS.xcause = 0x9000000000000001) ∧
    (∃ t, exec .asyncTrap (trapping .h fun t => { t with pendTimer := true, tcmp := 0 }) = .next t ∧ t.me.bankH.xcause = 0xD000000000000002) ∧
    (let s := trapping .h fun t => { t.launchFlight (.x 9) false none with pendStop := true }; exec .asyncTrap s = .next (s.modMe fun t => t.park .memwait .earlier)) := by
  refine ⟨?_, ?_, ?_, ?_⟩
  · obtain ⟨t, a, _, b, c, _, _, _, _, _, _, _, d⟩ := (h.2.2.2.2.1 (trapping .u fun t => { t with pendNotice := some 0x55, pendStop := true }) 3 0x55 .h (by decide +kernel)
      (by decide +kernel)).2 (by decide +kernel) (by decide +kernel) (by decide +kernel)
    exact ⟨t, a, c, b.trans (by decide +kernel), d rfl rfl⟩
  · obtain ⟨t, a, _, b, _⟩ := (h.2.2.2.2.1 (trapping .u fun t => { t with pendStop := true, pendTimer := true, tcmp := 0 }) 1 0 .s (by decide +kernel)
      (by decide +kernel)).2 (by decide +kernel) (by decide +kernel) (by decide +kernel)
    exact ⟨t, a, b.trans (by decide +kernel)⟩
  · obtain ⟨t, a, _, b, _⟩ := (h.2.2.2.2.1 (trapping .h fun t => { t with pendTimer := true, tcmp := 0 }) 2 0 .h (by decide +kernel)
      (by decide +kernel)).2 (by decide +kernel) (by decide +kernel) (by decide +kernel)
    exact ⟨t, a, b.trans (by decide +kernel)⟩
  · exact (h.2.2.2.2.1 (trapping .h fun t => { t.launchFlight (.x 9) false none with pendStop := true }) 1 0 .h (by decide +kernel) (by decide +kernel)).1 (by decide +kernel)

/-- At S on a page that is in the fabric. -/
def fabricPage : State := (keyed tables).modCore 0 fun q => { q with tlb := [{ tenant := 0, asid := 0, page := 0, bits := 36, pte := 0x2DF }] }

theorem witness_Traps_fetch (h : Obligations.Traps) :
    (let s := trapping .h fun t => { t with pc := 0xFFFFFFFFFFF00000 }; exec .instructionFetchFault s = .next (s.traps 1 0xFFFFFFFFFFF00000)) ∧
    ∃ t, exec .instructionFetchFault fabricPage = .next t ∧ t.me.state = .xlwait := by
  refine ⟨?_, ?_⟩
  · exact (h.2.2.2.2.2.1 (trapping .h fun t => { t with pc := 0xFFFFFFFFFFF00000 })).1 1 _ (stop_ex (by decide +kernel))
  · have k : fabricPage.fetch 0 0 = .error (.translation { va := 0x100, acc := .fetch, level := 1, reason := 3, entry := 0x2DF }) := stop_ex (by decide +kernel)
    obtain ⟨t, a, b⟩ := (h.2.2.2.2.2.1 fabricPage).2 _ k (by decide +kernel)
    exact ⟨t, a, by rw [b]; rfl⟩

theorem witness_Traps_return (h : Obligations.Traps) :
    (∃ t, exec .xret (trapping .s fun t => { t with bankS := { t.bankS with xpc := 0x700, xcause := 1#64 <<< 60 } }) = .next t ∧ t.me.pc = 0x700 ∧ t.me.priv = .u ∧
      t.me.ie = true) ∧
    let s := trapping .h fun t => { t with bankH := { t.bankH with xpc := 0x701 } }; exec .xret s = .next (s.traps 0 0x701) := by
  refine ⟨?_, ?_⟩
  · obtain ⟨t, a, b, c, d, _⟩ := (h.2.2.2.2.2.2.1 (trapping .s fun t => { t with bankS := { t.bankS with xpc := 0x700, xcause := 1#64 <<< 60 } }) .u (by decide +kernel)
      (by decide +kernel) (by decide +kernel)).2 (by decide +kernel)
    exact ⟨t, a, b, c, d.trans (by decide +kernel)⟩
  · exact (h.2.2.2.2.2.2.1 (trapping .h fun t => { t with bankH := { t.bankH with xpc := 0x701 } }) .u (by decide +kernel) (by decide +kernel) (by decide +kernel)).1
      (by decide +kernel)

theorem witness_Traps_pending (h : Obligations.Traps) :
    (∃ t, exec .timer (trapping .h fun t => { t with tcmp := 0 }) = .next t ∧ t.me.pendTimer = true) ∧ exec .timer (trapping .h) = .next (trapping .h) ∧
    (∃ t, exec .managementNotice { trapping .h with args := { num := 0xFFF, code := 7 } } = .next t ∧ t.me.pendNotice = some 0xFFF0007) ∧
    ∃ t, exec .managementNotice { trapping .h (fun t => { t with pendNotice := some 1 }) with args := { num := 0xFFF, code := 7 } } = .next t ∧
      t.controller.notices.length = 1 := by
  refine ⟨?_, ?_, ?_, ?_⟩
  · exact ⟨_, (h.2.2.2.2.2.2.2.1 (trapping .h fun t => { t with tcmp := 0 })).1 (by decide +kernel), by decide +kernel⟩
  · exact (h.2.2.2.2.2.2.2.1 (trapping .h)).2 (by decide +kernel)
  · exact ⟨_, (h.2.2.2.2.2.2.2.2 { trapping .h with args := { num := 0xFFF, code := 7 } } 0x2000 rfl (by decide +kernel)).1 (by decide +kernel), by decide +kernel⟩
  · obtain ⟨t, a, b, _⟩ := (h.2.2.2.2.2.2.2.2 { trapping .h (fun t => { t with pendNotice := some 1 }) with args := { num := 0xFFF, code := 7 } } 0x2000 rfl
      (by decide +kernel)).2 (by decide +kernel)
    exact ⟨t, a, b⟩

/-! Waits. -/

/-- Slot 0 at S waits for a walk of an address. -/
def walking (m : List Host.Cell) (bad : List Nat := []) : State :=
  let s := (keyed m).modMe fun t => t.park .memwait (.walk 0x123 .load)
  { s.modCore 0 fun q => { q with tlb := [] } with memBad := bad, args := { core := 0, slot := 0, word := 0x123, acc := .load } }

theorem witness_Waits_walk (h : Obligations.Waits) :
    (∃ u e, exec .pageWalk (walking tables) = .next u ∧ (u.slot 0 0).state = .run ∧ (u.core 0).tlbFind (walking tables).me 0x123 = some e ∧ e.pte = 0xDF) ∧
    (∃ u, exec .pageWalk (walking [(0, 7)]) = .next u ∧ (u.slot 0 0).state = .xlwait) ∧
    ∃ u, exec .pageWalk (walking tables [0x4000]) = .next u ∧ (u.slot 0 0).cause = some (0x15, 0x123) := by
  refine ⟨?_, ?_, ?_⟩
  · obtain ⟨u, e, a, b, c, _, d, _⟩ := (h.2.2.1 (walking tables) rfl rfl rfl (by decide +kernel)).1 0xDF 1 0x8000 0x8000 (by decide +kernel)
    exact ⟨u, e, a, (congrArg Slot.state b).trans rfl, c, d.trans (by decide +kernel)⟩
  · obtain ⟨u, a, b, _⟩ := (h.2.2.1 (walking [(0, 7)]) rfl rfl rfl (by decide +kernel)).2.1 { va := 0x123, acc := .load, level := 0, reason := 1, entry := 0 }
      (by decide +kernel) (by decide +kernel)
    exact ⟨u, a, (congrArg Slot.state b).trans rfl⟩
  · obtain ⟨u, a, b, _⟩ := (h.2.2.1 (walking tables [0x4000]) rfl rfl rfl (by decide +kernel)).2.2 (by decide +kernel)
    exact ⟨u, a, (congrArg Slot.cause b).trans rfl⟩

/-- Slot 0 waits at the second stage since cycle 5, over a table. -/
def holding (m : List Host.Cell) (n : Nat) : State :=
  { (keyed m).modMe fun t => t.park .memwait (.secondStage 0x123 5) with args := { core := 0, slot := 0, word := 0x123, acc := .load, num := n, code := 5 } }

theorem witness_Waits_secondStage (h : Obligations.Waits) :
    (∃ u, exec .secondStageResume (holding tables 5) = .next u ∧ u.me.state = .run) ∧ exec .secondStageResume (holding [] 5) = .next (holding [] 5) ∧
    (∃ u, exec .secondStageHoldTimeout (holding [] 5) = .next u ∧ u.me.cause = some (5, 0x123)) ∧ exec .secondStageHoldTimeout (holding [] 4) = .next (holding [] 4) := by
  refine ⟨?_, ?_, ?_, ?_⟩
  · exact ⟨_, (h.2.2.2.2.1 (holding tables 5) 0x123 5 (by decide +kernel) (by decide +kernel)).1 (by decide +kernel), by decide +kernel⟩
  · exact (h.2.2.2.2.1 (holding [] 5) 0x123 5 (by decide +kernel) (by decide +kernel)).2.1 (by decide +kernel)
  · exact ⟨_, ((h.2.2.2.2.1 (holding [] 5) 0x123 5 (by decide +kernel) (by decide +kernel)).2.2 rfl rfl).1 rfl, by decide +kernel⟩
  · exact ((h.2.2.2.2.1 (holding [] 4) 0x123 5 (by decide +kernel) (by decide +kernel)).2.2 rfl rfl).2 (by decide)

/-- A load whose granule has no second-stage entry. -/
def unmapped : State := withX [(6, 0x118)] (keyed [])

theorem witness_Waits_held (h : Obligations.Waits) : ∃ t, exec (.ld 5 6 8) unmapped = .next t ∧ t.me.state = .memwait ∧ t.me.wait = .secondStage 0x120 0 := by
  have k : unmapped.locate unmapped.cur.core unmapped.me (unmapped.me.getX 6 + (8 : BitVec 12).signExtend 64) 8 .load = .error (.held 0x120 5 0x120) :=
    stop_ex (by decide +kernel)
  obtain ⟨t, a, b, _⟩ := h.2.2.2.1 unmapped 5 6 8 _ _ _ (by decide +kernel) (by decide +kernel) k
  exact ⟨t, a, (congrArg Slot.state b).trans rfl, (congrArg Slot.wait b).trans rfl⟩

/-- Slot 0 waits for a full/empty word since cycle 3. -/
def limited : State :=
  let s := start.modMe fun t => t.park .fewait (.word (physical 0x200).point)
  { s with waiters := [{ loc := (physical 0x200).point, agent := .slot 0 0, tenant := 0, kind := .ldff, dest := 5, value := 0, va := 0x200, since := 3 }],
           args := { core := 0, slot := 0, word := 0x200, num := 3 } }

/-- A result of x9 becomes usable. -/
def usable : State := { busyAt .h with args := { core := 0, slot := 0, reg := .x 9 } }

theorem witness_Waits_register (h : Obligations.Waits) :
    exec (.add 5 6 9) usable = .next (usable.modMe fun t => t.park .memwait (.register (.x 9))) ∧ (∃ t, exec .resultUsable usable = .next t ∧ (t.slot 0 0).flights = []) ∧
    ∃ t, exec .waitLimit limited = .next t ∧ t.me.cause = some (9, 0x200) := by
  refine ⟨?_, ?_, ?_⟩
  · exact h.1 usable _ _ (by decide +kernel) (by decide +kernel) (by decide +kernel) (by decide +kernel)
  · obtain ⟨t, a, b, _⟩ := h.2.1 usable
    exact ⟨t, a, (congrArg Slot.flights b).trans rfl⟩
  · exact ⟨_, h.2.2.2.2.2 limited _ rfl rfl rfl rfl rfl rfl rfl, by decide +kernel⟩

end Sys2Proof.Tests
end

