-- ==== Sys2Proof/Tests/VectorWitness.lean ====
section
/-!
SUPPORT. Concrete states that meet the hypotheses of the statements about vector and matrix forms.
-/
set_option Elab.async false
set_option maxRecDepth 100000

namespace Sys2Proof.Tests
open Sys2Proof Sys2Proof.Machine

/-! Vector forms. -/

/-- v2 holds the least i32 in lane 15 and 7 in lane 0, v3 holds 1 in both, m1 selects lane 15 alone, x6 addresses memory, x7 is -1. -/
def vectors : State := start.modMe fun t => (((((t.setV 2 (0x80000000#512 <<< 480 ||| 7#512)).setV 3 (1#512 <<< 480 ||| 1#512)).setM 1 0x8000).setX 6 0x200).setX 7
  (BitVec.allOnes 64))

theorem witness_VectorIntegerLanes (h : Obligations.VectorIntegerLanes) :
    ∃ t, exec (.vsub 15 2 3 .i32 1) vectors = .next t ∧ laneOf .i32 (t.me.getV 15) 15 = 0x7FFFFFFF ∧ laneOf .i32 (t.me.getV 15) 0 = 0 := by
  obtain ⟨t, a, _, _, b⟩ := h vectors 15 2 3 .i32 1 (.vsub 15 2 3 .i32 1) _ (.tail _ (.head _)) (by decide +kernel) (by decide +kernel)
  refine ⟨t, a, ?_, ?_⟩
  · exact Int.ofNat_inj.mp ((b 15 (by decide +kernel)).trans (by decide +kernel))
  · exact Int.ofNat_inj.mp ((b 0 (by decide +kernel)).trans (by decide +kernel))

/-- v2 and v3 hold 1.0 and the least subnormal in lane 0. -/
def floats : State := start.modMe fun t => (t.setV 2 0x3F800000#512).setV 3 1#512

theorem witness_VectorFloatLanes (h : Obligations.VectorFloatLanes) :
    (∃ t, exec (.vadd 1 2 3 .f32 0) floats = .next t ∧ laneOf .f32 (t.me.getV 1) 0 = 0x3F800000) ∧
    ∃ t, exec (.vcvt 1 2 .f32 .mk8 .rne 0) floats = .next t ∧ laneOf .mk8 (t.me.getV 1) 0 = 0x60 := by
  refine ⟨?_, ?_⟩
  · obtain ⟨t, a, _, b, _⟩ := h.1 floats 1 2 3 .f32 .f32 .rne 0 (.vadd 1 2 3 .f32 0) _ (.inl ⟨.head _, by decide +kernel⟩) (by decide +kernel)
    exact ⟨t, a, (b 0 (by decide +kernel)).trans (by decide +kernel)⟩
  · obtain ⟨t, a, _, b, _⟩ := h.1 floats 1 2 3 .mk8 .f32 .rne 0 (.vcvt 1 2 .f32 .mk8 .rne 0) _ (.inr ⟨rfl, rfl⟩) (by decide +kernel)
    exact ⟨t, a, (b 0 (by decide +kernel)).trans (by decide +kernel)⟩

theorem denotes_one : (f32.decode 0x3F800000).denotes 1 := by
  rw [show f32.decode 0x3F800000 = .fin false 0x800000 (-23) by decide +kernel, FloatVal.denotes]
  norm_num

theorem denotes_least : (f32.decode 1).denotes (2 ^ (-149 : ℤ)) := by
  rw [show f32.decode 1 = .fin false 1 (-149) by decide +kernel, FloatVal.denotes]
  norm_num

theorem denotes_zero : (f32.decode 0x80000000).denotes 0 := by
  rw [show f32.decode 0x80000000 = .fin true 0 (-149) by decide +kernel, FloatVal.denotes]
  norm_num

/-- Exact values: finite ones, a zero divisor, a root, a NaN and an infinity. -/
theorem witness_VectorFloatLanes_exact (h : Obligations.VectorFloatLanes) :
    f32.isRounded .rne (1 + 2 ^ (-149 : ℤ)) (f32.add 0x3F800000 1) ∧ f32.isRounded .rne (-(1 * 1) + 2 ^ (-149 : ℤ)) (f32.fma 0x3F800000 0x3F800000 1 true) ∧
    f32.div 0x3F800000 0x80000000 = (f32.inf true, dzFlag) ∧ f32.isRounded .rne (Real.sqrt 1) (f32.sqrt 0x3F800000) ∧
    f32.sqrt 0x7FC00000 = (f32.nan, 0) ∧ f32.sqrt 0xFF800000 = (f32.nan, nvFlag) := by
  have k (p q r : Nat) (np : Bool) (x y z : ℝ) (a : p < 2 ^ 32) (b : q < 2 ^ 32) (c : r < 2 ^ 32) := h.2.1 f32 p q r np x y z (.head _) a b c
  refine ⟨?_, ?_, ?_, ?_, ?_, ?_⟩
  · exact ((k 0x3F800000 1 0 false 1 _ 0 (by decide) (by decide) (by decide)).1 denotes_one denotes_least).1
  · exact (((k 0x3F800000 0x3F800000 1 true 1 1 _ (by decide) (by decide) (by decide)).1 denotes_one denotes_one).2.2.2.2.2.2.2.2.1 denotes_least).1
  · exact ((k 0x3F800000 0x80000000 0 false 1 0 0 (by decide) (by decide) (by decide)).1 denotes_one denotes_zero).2.2.2.2.2.2.1 one_ne_zero rfl
  · exact ((k 0x3F800000 0 0 false 1 0 0 (by decide) (by decide) (by decide)).2.1 denotes_one).1 zero_le_one
  · exact (k 0x7FC00000 0 0 false 0 0 0 (by decide) (by decide) (by decide)).2.2.2.1 (by decide +kernel)
  · exact ((k 0xFF800000 0 0 false 0 0 0 (by decide) (by decide) (by decide)).2.2.2.2.2 true false (by decide +kernel)).2.2

theorem witness_VectorFloatLanes_convert (h : Obligations.VectorFloatLanes) :
    f32.isRounded .rz ((-2147483648 : ℤ) : ℝ) (convertLane .i32 .f32 .rz 0x80000000) ∧ bf16.isRounded .ru 1 (convertLane .f32 .bf16 .ru 0x3F800000) ∧
    ∃ n : ℤ, roundsTo (fun y => ∃ k : ℤ, y = k) (fun y => ∃ k : ℤ, y = 2 * k) .rna 1 n ∧ (n < -128 → convertLane .f32 .i8 .rna 0x3F800000 = (128, nvFlag)) := by
  refine ⟨?_, ?_, ?_⟩
  · exact h.2.2.1 .i32 .f32 .rz 0x80000000 _ rfl (.inr ⟨rfl, congrArg _ (show (-2147483648 : ℤ) = (BitVec.ofNat 32 0x80000000).toInt by decide)⟩)
  · exact h.2.2.1 .f32 .bf16 .ru 0x3F800000 1 rfl (.inl ⟨rfl, denotes_one⟩)
  · obtain ⟨n, a, b, _⟩ := h.2.2.2 .f32 .i8 .rna 0x3F800000 1 rfl rfl denotes_one
    exact ⟨n, a, fun l => (b l).trans (by decide)⟩

theorem witness_VectorMoves (h : Obligations.VectorMoves) :
    ∃ t, exec (.vslide 4 2 7 .i32 0) vectors = .next t ∧ laneOf .i32 (t.me.getV 4) 14 = 0x80000000 ∧ laneOf .i32 (t.me.getV 4) 15 = 0 := by
  obtain ⟨t, a, _, _, b⟩ := h vectors 4 2 0 7 .i32 0 (.vslide 4 2 7 .i32 0) _ _ (.tail _ (.tail _ (.tail _ (.tail _ (.tail _ (.head _)))))) (by decide +kernel)
  exact ⟨t, a, (b 14 (by decide +kernel)).trans (by decide +kernel), (b 15 (by decide +kernel)).trans (by decide +kernel)⟩

theorem witness_VectorMasks (h : Obligations.VectorMasks) :
    (∃ t, exec (.vcmp .lt 7 2 3 .i32 0) vectors = .next t ∧ (t.me.getM 7).getLsbD 15 = true ∧ (t.me.getM 7).getLsbD 16 = false) ∧
    (∃ t, exec (.vcmp .le 2 2 3 .f32 0) floats = .next t ∧ (t.me.getM 2).getLsbD 0 = false) ∧
    ∃ t, exec (.mnot 0 1) vectors = .next t ∧ t.me.getM 0 = BitVec.allOnes 64 := by
  refine ⟨?_, ?_, ?_⟩
  · obtain ⟨t, a, _, _, _, b⟩ := h vectors 7 0 0 2 3 .i32 0 _ _ 0 (.inl ⟨.tail _ (.tail _ (.head _)), by decide +kernel, rfl⟩) (by decide +kernel)
    exact ⟨t, a, (b (by decide) 15 (by decide)).trans (by decide +kernel), (b (by decide) 16 (by decide)).trans (by decide +kernel)⟩
  · obtain ⟨t, a, _, _, _, b⟩ := h floats 2 0 0 2 3 .f32 0 (.vcmp .le 2 2 3 .f32 0) _ _ (.inr (.inl ⟨⟨.le, rfl, rfl, rfl⟩, by decide +kernel⟩)) (by decide +kernel)
    exact ⟨t, a, (b (by decide) 0 (by decide)).trans (by decide +kernel)⟩
  · obtain ⟨t, a, _, _, b, _⟩ := h vectors 0 1 0 0 0 .i32 0 _ _ 0 (.inr (.inr ⟨.tail _ (.tail _ (.head _)), rfl⟩)) (by decide +kernel)
    exact ⟨t, a, b rfl⟩

theorem witness_VectorToGeneral (h : Obligations.VectorToGeneral) :
    (∃ t, exec (.vredmin 5 2 .i32 0) vectors = .next t ∧ t.me.getX 5 = 0xFFFFFFFF80000000) ∧
    (∃ t, exec (.vredsum 5 2 .f32 0) floats = .next t ∧ t.me.getX 5 = 0x3F800000) ∧
    ∃ t, exec (.vpopm 0 1) vectors = .next t ∧ t.me.getX 0 = 0 := by
  refine ⟨?_, ?_, ?_⟩
  · obtain ⟨t, a, _, b, _⟩ := h vectors 5 2 .i32 0 0 _ _ 0 (.inl ⟨.tail _ (.tail _ (.head _)), by decide +kernel, rfl⟩) (by decide +kernel)
    exact ⟨t, a, b.trans (by decide +kernel)⟩
  · obtain ⟨t, a, _, b, _⟩ := h floats 5 2 .f32 0 0 _ _ _ (.inr (.inl ⟨.head _, by decide +kernel⟩)) (by decide +kernel)
    exact ⟨t, a, b.trans (by decide +kernel)⟩
  · obtain ⟨t, a, _, b, _⟩ := h vectors 0 0 .i32 0 1 _ _ 0 (.inr (.inr ⟨.tail _ (.head _), rfl⟩)) (by decide +kernel)
    exact ⟨t, a, b⟩

theorem witness_VectorFrame (h : Obligations.VectorFrame) : ∃ t, exec (.vadd 15 2 3 .i32 1) vectors = .next t ∧ t.me.fflags = 0 := by
  obtain ⟨t, a, _, _, _, _, b, _⟩ := h vectors 15 2 3 0 .i32 .i32 .rne 0 0 0 1 .eq (.vadd 15 2 3 .i32 1) [15] [] [] _ (.head _) (by decide +kernel)
  exact ⟨t, a, (b (by decide +kernel)).trans (by decide +kernel)⟩

/-- The word 0x11223344 at 0x238, where lane 14 of a load at 0x200 has its element. -/
def vectorsAt : State := withWord 0x238 0x11223344 (vectors.modMe fun t => t.setM 1 0x4001)

theorem witness_VectorLoads (h : Obligations.VectorLoads) :
    ∃ t, exec (.vld 4 6 .i32 1) vectorsAt = .next t ∧ laneOf .i32 (t.me.getV 4) 14 = 0x11223344 ∧ laneOf .i32 (t.me.getV 4) 15 = 0 := by
  have k : ∀ i < VType.lanes .i32, (vectorsAt.me.getM 1).getLsbD i = true →
      (vectorsAt.locate vectorsAt.cur.core vectorsAt.me (vectorsAt.me.getX 6 + BitVec.ofNat 64 (4 * i)) 4 .load).toOption =
        some { place := WordLoc.mem (0x200 + 4 * i), tag := { tenant := hvTenant, line := 4 }, home := 0 } ∧
      vectorsAt.badWord (.mem (0x200 + 4 * i)) (vectorsAt.me.getX 6 + BitVec.ofNat 64 (4 * i)) 4 = none := by decide +kernel
  obtain ⟨t, a, _, b, _⟩ := h vectorsAt 4 0 6 0 .i32 1 _ _ _ (.head _) (by decide +kernel) (by decide +kernel) (by decide +kernel) k
  exact ⟨t, a, (b 14 (by decide +kernel)).trans (by decide +kernel), (b 15 (by decide +kernel)).trans (by decide +kernel)⟩

theorem witness_VectorStores (h : Obligations.VectorStores) : ∃ t, exec (.vst 2 6 .i32 1) vectorsAt = .next t ∧ t.readLoc (.mem 0x200) 1 = 7 := by
  have k : ∀ i < VType.lanes .i32, (vectorsAt.me.getM 1).getLsbD i = true →
      (vectorsAt.locate vectorsAt.cur.core vectorsAt.me (vectorsAt.me.getX 6 + BitVec.ofNat 64 (4 * i)) 4 .store).toOption =
        some { place := WordLoc.mem (0x200 + 4 * i), tag := { tenant := hvTenant, line := 4 }, home := 0 } ∧
      ((4 : Nat) < 8 → vectorsAt.badWord (.mem (0x200 + 4 * i)) (vectorsAt.me.getX 6 + BitVec.ofNat 64 (4 * i)) 4 = none) := by decide +kernel
  obtain ⟨t, a, _, b, _⟩ := h vectorsAt 2 0 6 0 .i32 1 _ _ _ (.head _) (by decide +kernel) (by decide +kernel) (by decide +kernel)
    (fun i q => k i q.1 q.2)
  have one : ∀ j < VType.lanes .i32, (vectorsAt.me.getM 1).getLsbD j = true → 0 < j → 4 ≤ j := by decide +kernel
  refine ⟨t, a, (b 0 0 ⟨by decide +kernel, by decide +kernel⟩ (by decide +kernel) ?_).trans (by decide +kernel)⟩
  intro j k' q l m e
  have := one j q.1 q.2 l
  simp [WordLoc.plus] at e
  omega

end Sys2Proof.Tests
end

section
/-!
PROOFS. Encoding: the words that are no instructions (R111).
-/
namespace Sys2Proof

/-- The major opcodes that R111 assigns. -/
def assignedOps : List Nat :=
  [0x01, 0x02, 0x03, 0x04, 0x05, 0x06, 0x07, 0x08, 0x09, 0x0A, 0x0B, 0x0C, 0x0D, 0x10, 0x11, 0x12, 0x13,
    0x18, 0x19, 0x20, 0x21, 0x22, 0x28, 0x29, 0x2A, 0x30, 0x38]

/-- Fields whose op is in no row of the table of R111 fall through every group to the decoder's last arm. -/
theorem decodeFields_of_op_unassigned {f : Fields} (h : f.op.toNat ∉ assignedOps) :
    decodeFields f = .error .unassignedOp := by
  unfold decodeFields
  split
  case h_28 => rfl
  all_goals
    next hop => exact absurd (by rw [hop]; decide) h

/-- A word whose fields are refused is refused for the same reason. -/
theorem decode_eq_error_of_fields {w : BitVec 32} {e : DecodeError}
    (h : decodeFields (Fields.ofWord w) = .error e) : decode w = .error e := by
  unfold decode
  rw [h]

/-- A word with an unassigned major opcode is refused by that name (R111, R112). -/
theorem decode_of_op_unassigned {w : BitVec 32} (h : (w.extractLsb' 25 7).toNat ∉ assignedOps) :
    decode w = .error .unassignedOp :=
  decode_eq_error_of_fields (decodeFields_of_op_unassigned h)

/-- The op of the all-zero word is `0x00`. -/
theorem op_zero_unassigned : ((0#32).extractLsb' 25 7).toNat ∉ assignedOps := by decide

/-- The op of the all-ones word is `0x7F`. -/
theorem op_allOnes_unassigned : ((BitVec.allOnes 32).extractLsb' 25 7).toNat ∉ assignedOps := by decide

/-- Settles O4: no row of the opcode table takes such a word, so the decoder refuses it; the two words are instances. -/
theorem noInstructionWords : Obligations.NoInstructionWords := by
  unfold Obligations.NoInstructionWords
  have refused {w : BitVec 32} (h : (w.extractLsb' 25 7).toNat ∉ assignedOps) : (decode w).toOption = none :=
    congrArg Except.toOption (decode_of_op_unassigned h)
  exact ⟨fun _ h => refused h, refused op_zero_unassigned, refused op_allOnes_unassigned⟩

end Sys2Proof
end

section
/-!
PROOFS. Values of the scalar forms (R18, R137 to R141): the operations on words that the model's rows name, as arithmetic on the
numbers that the words stand for.
-/
namespace Sys2Proof.Machine

/-! Comparisons, and the lesser and the greater of two words. -/

theorem flag_slt (x y : Word) : flag (x.slt y) = if x.toInt < y.toInt then 1 else 0 := by
  simp [flag, BitVec.slt_eq_decide]

theorem flag_ult (x y : Word) : flag (x.ult y) = if x.toNat < y.toNat then 1 else 0 := by
  simp [flag, BitVec.ult_eq_decide]

/-- A signed immediate keeps its value (R109). -/
theorem toInt_sext (i : BitVec 12) : (sext i).toInt = i.toInt := BitVec.toInt_signExtend_of_le (by decide)

theorem ite_slt_eq_min (x y : Word) : (if x.slt y then x else y) = BitVec.ofInt 64 (min x.toInt y.toInt) := by
  rcases lt_or_ge x.toInt y.toInt with h | h
  · simp [BitVec.slt_eq_decide, h, h.le]
  · simp [BitVec.slt_eq_decide, h, h.not_gt]

theorem ite_slt_eq_max (x y : Word) : (if x.slt y then y else x) = BitVec.ofInt 64 (max x.toInt y.toInt) := by
  rcases lt_or_ge x.toInt y.toInt with h | h
  · simp [BitVec.slt_eq_decide, h, h.le]
  · simp [BitVec.slt_eq_decide, h, h.not_gt]

theorem ite_ult_eq_min (x y : Word) : (if x.ult y then x else y) = BitVec.ofNat 64 (min x.toNat y.toNat) := by
  rcases lt_or_ge x.toNat y.toNat with h | h
  · simp [BitVec.ult_eq_decide, h, h.le]
  · simp [BitVec.ult_eq_decide, h, h.not_gt]

theorem ite_ult_eq_max (x y : Word) : (if x.ult y then y else x) = BitVec.ofNat 64 (max x.toNat y.toNat) := by
  rcases lt_or_ge x.toNat y.toNat with h | h
  · simp [BitVec.ult_eq_decide, h, h.le]
  · simp [BitVec.ult_eq_decide, h, h.not_gt]

/-! Shifts. -/

theorem shiftLeft_eq_ofNat (x : Word) (n : Nat) : x <<< n = BitVec.ofNat 64 (x.toNat * 2 ^ n) :=
  BitVec.eq_of_toNat_eq (by rw [BitVec.toNat_shiftLeft, BitVec.toNat_ofNat, Nat.shiftLeft_eq])

theorem ushiftRight_eq_ofNat (x : Word) (n : Nat) : x >>> n = BitVec.ofNat 64 (x.toNat / 2 ^ n) := by
  rw [← Nat.shiftRight_eq_div_pow, ← BitVec.toNat_ushiftRight, BitVec.ofNat_toNat, BitVec.setWidth_eq]

theorem sshiftRight_eq_ofInt (x : Word) (n : Nat) : x.sshiftRight n = BitVec.ofInt 64 (x.toInt / 2 ^ n) := by
  have e : (x.sshiftRight n).toInt = x.toInt / 2 ^ n := by
    rw [BitVec.toInt_sshiftRight, Int.shiftRight_eq_div_pow]
    norm_cast
  rw [← e, BitVec.ofInt_toInt]

/-! Products (R141). -/

theorem mul_eq_ofInt (x y : Word) : x * y = BitVec.ofInt 64 (x.toInt * y.toInt) := by
  rw [BitVec.ofInt_mul, BitVec.ofInt_toInt, BitVec.ofInt_toInt]

theorem mulHigh_eq_ofInt (x y : Word) : mulHigh x y = BitVec.ofInt 64 (x.toInt * y.toInt / 2 ^ 64) := by
  have e : x.signExtend 128 * y.signExtend 128 = BitVec.ofInt 128 (x.toInt * y.toInt) := (BitVec.ofInt_mul _ _).symm
  apply BitVec.eq_of_toNat_eq
  rw [mulHigh, e, BitVec.extractLsb'_toNat, BitVec.toNat_ofInt, BitVec.toNat_ofInt, Nat.shiftRight_eq_div_pow]
  omega

theorem mulHighN_eq_ofNat (x y : Word) : mulHighN x y = BitVec.ofNat 64 (x.toNat * y.toNat / 2 ^ 64) := by
  have e : x.setWidth 128 * y.setWidth 128 = BitVec.ofNat 128 (x.toNat * y.toNat) := by
    rw [BitVec.ofNat_mul, BitVec.ofNat_toNat, BitVec.ofNat_toNat]
  apply BitVec.eq_of_toNat_eq
  rw [mulHighN, e, BitVec.extractLsb'_toNat, BitVec.toNat_ofNat, BitVec.toNat_ofNat, Nat.shiftRight_eq_div_pow]
  omega

/-! Quotients and remainders, with both edge cases (R18): reducing to 64 bits gives -2^63 for -2^63 by -1. -/

theorem quotient_eq_ofInt (x y : Word) :
    quotient x y = if y = 0 then BitVec.allOnes 64 else BitVec.ofInt 64 (x.toInt.tdiv y.toInt) := by
  have e : x.sdiv y = BitVec.ofInt 64 (x.toInt.tdiv y.toInt) :=
    BitVec.eq_of_toInt_eq (by rw [BitVec.toInt_sdiv, BitVec.toInt_ofInt])
  rw [quotient, e]

theorem quotientN_eq_ofNat (x y : Word) :
    quotientN x y = if y = 0 then BitVec.allOnes 64 else BitVec.ofNat 64 (x.toNat / y.toNat) := by
  rw [quotientN, ← BitVec.toNat_udiv, BitVec.ofNat_toNat, BitVec.setWidth_eq]

theorem remainder_eq_ofInt (x y : Word) :
    remainder x y = if y = 0 then x else BitVec.ofInt 64 (x.toInt.tmod y.toInt) := by
  rw [remainder, ← BitVec.toInt_srem, BitVec.ofInt_toInt]

theorem remainderN_eq_ofNat (x y : Word) :
    remainderN x y = if y = 0 then x else BitVec.ofNat 64 (x.toNat % y.toNat) := by
  rw [remainderN, ← BitVec.toNat_umod, BitVec.ofNat_toNat, BitVec.setWidth_eq]

/-! Words extended (R138). -/

theorem bits_low_word (x : Word) : bits x 31 0 = x.setWidth 32 := BitVec.eq_of_toNat_eq rfl

/-! Counting bits (R138). -/

/-- The scan from bit `k - 1` down ends at the first 1 bit, or at `k` bits when there is none. -/
theorem leadingZeros_spec {n : Nat} (w : BitVec n) (k : Nat) :
    leadingZeros w k ≤ k ∧ (∀ j < leadingZeros w k, w.getLsbD (k - 1 - j) = false) ∧
      (leadingZeros w k < k → w.getLsbD (k - 1 - leadingZeros w k) = true) := by
  induction k with
  | zero => simp [leadingZeros]
  | succ k ih =>
    obtain ⟨hle, hzero, hone⟩ := ih
    rw [leadingZeros]
    split
    case isTrue hbit => simpa using hbit
    case isFalse hbit =>
      refine ⟨by omega, fun j hj => ?_, fun hlt => ?_⟩
      · cases j with
        | zero => simpa using hbit
        | succ j => rw [show k + 1 - 1 - (j + 1) = k - 1 - j by omega, hzero j (by omega)]
      · rw [show k + 1 - 1 - (1 + leadingZeros w k) = k - 1 - leadingZeros w k by omega, hone (by omega)]

/-- The scan from bit `i` up ends at the first 1 bit, or after `k` bits when none of them is. -/
theorem trailingZeros_spec {n : Nat} (w : BitVec n) (i k : Nat) :
    trailingZeros w i k ≤ k ∧ (∀ j < trailingZeros w i k, w.getLsbD (i + j) = false) ∧
      (trailingZeros w i k < k → w.getLsbD (i + trailingZeros w i k) = true) := by
  induction k generalizing i with
  | zero => simp [trailingZeros]
  | succ k ih =>
    obtain ⟨hle, hzero, hone⟩ := ih (i + 1)
    rw [trailingZeros]
    split
    case isTrue hbit => simpa using hbit
    case isFalse hbit =>
      refine ⟨by omega, fun j hj => ?_, fun hlt => ?_⟩
      · cases j with
        | zero => simpa using hbit
        | succ j => rw [show i + (j + 1) = i + 1 + j by omega, hzero j (by omega)]
      · rw [← Nat.add_assoc, hone (by omega)]

/-- Adding up truth values counts the elements for which they hold. -/
theorem foldl_toNat_eq_countP {α : Type} (p : α → Bool) (l : List α) (n : Nat) :
    l.foldl (fun acc a => acc + (p a).toNat) n = n + l.countP p := by
  induction l generalizing n with
  | nil => rfl
  | cons a l ih =>
    rw [List.foldl_cons, ih, List.countP_cons]
    cases p a <;> simp [Nat.add_comm, Nat.add_left_comm]

theorem popCount_eq_countP {n : Nat} (w : BitVec n) : popCount w = (List.range n).countP fun j => w.getLsbD j := by
  rw [popCount, foldl_toNat_eq_countP, Nat.zero_add]

/-! Bytes reversed (R138). -/

theorem byte_zero_append {n : Nat} (hi : BitVec n) (lo : BitVec 8) : (hi ++ lo).extractLsb' (8 * 0) 8 = lo := by
  simp [BitVec.extractLsb'_append_eq_ite]

theorem byte_succ_append {n : Nat} (hi : BitVec n) (lo : BitVec 8) (k : Nat) :
    (hi ++ lo).extractLsb' (8 * (k + 1)) 8 = hi.extractLsb' (8 * k) 8 := by
  rw [BitVec.extractLsb'_append_eq_ite, dif_neg (by omega)]
  rfl

/-- Byte `k` of the reversed word is byte `7 - k`: the `k` bytes below it are dropped one by one. -/
theorem reverseBytes_byte (x : Word) (k : Nat) (h : k < 8) :
    (reverseBytes x).extractLsb' (8 * k) 8 = x.extractLsb' (56 - 8 * k) 8 := by
  rcases Nat.lt_succ_iff_lt_or_eq.mp h with inner | rfl
  · interval_cases k <;> repeat refine (byte_succ_append _ _ _).trans ?_
    all_goals exact byte_zero_append _ _
  · repeat refine (byte_succ_append _ _ _).trans ?_
    exact BitVec.extractLsb'_eq_self

end Sys2Proof.Machine
end

section
/-!
PROOFS. What the shared bodies of the scalar forms come to for an instruction that issues.
-/
namespace Sys2Proof.Machine

/-- A register written with a result that is pending until its event (R133), at the next instruction. -/
def State.wrotePending (s : State) (d : BitVec 5) (w : Word) : State :=
  (((s.modMe fun t => t.setX d w).modMe fun t => t.launchFlight (.x d) false none).post .resultUsable
    { core := s.cur.core, slot := s.cur.slot, reg := .x d }).past 4

section
variable {i : Instr} {d a b : BitVec 5} {s : State} {w : Word}

/-- A form of one register that issues writes its value and goes on. -/
theorem exec_of_unary {f : Word → Word} (he : exec i s = run i (unary d a f) s) (hs : (shapeOf i).stores = false)
    (h : s.issues i = true) (hw : f (s.me.getX a) = w) : exec i s = .next (s.wrote d w) := by
  subst hw
  exact he.trans (run_of_body i _ s _ .step h hs rfl)

/-- A form of two registers that issues writes its value and goes on. -/
theorem exec_of_binary {f : Word → Word → Word} (he : exec i s = run i (binary d a b f) s) (hs : (shapeOf i).stores = false)
    (h : s.issues i = true) (hw : f (s.me.getX a) (s.me.getX b) = w) : exec i s = .next (s.wrote d w) := by
  subst hw
  exact he.trans (run_of_body i _ s _ .step h hs rfl)

/-- A form of two registers with a late result that issues writes its value, which is pending, and goes on. -/
theorem exec_of_slow {f : Word → Word → Word} (he : exec i s = run i (slow d a b f) s) (hs : (shapeOf i).stores = false)
    (h : s.issues i = true) (hw : f (s.me.getX a) (s.me.getX b) = w) : exec i s = .next (s.wrotePending d w) := by
  subst hw
  exact he.trans (run_of_body i _ s _ .step h hs rfl)

end

end Sys2Proof.Machine
end

section
/-!
PROOFS. The frame of an effect on the acting slot and the agenda alone.
-/
namespace Sys2Proof.Machine

/-- Memory, its full/empty bits, every slot but the acting one and every core's parts but its slots are in `t` as in `s`: so it is after
an effect that only changes the acting slot and posts events. -/
structure State.SlotOnly (s t : State) : Prop where
  cur : t.cur = s.cur
  mem : t.mem = s.mem
  memEmpty : t.memEmpty = s.memEmpty
  core : ∀ c, t.core c = { s.core c with slots := (t.core c).slots }
  others : s.keepsOthers t

theorem State.core_setSlot (s : State) (c e : CoreId) (k : SlotId) (t : Slot) :
    (s.setSlot c k t).core e = { s.core e with slots := ((s.setSlot c k t).core e).slots } := by
  by_cases h : e = c
  · subst h
    simp [State.setSlot]
  · rw [State.setSlot, State.core_setCore_other _ _ _ _ h]

theorem State.slot_setSlot_other (s : State) (c e : CoreId) (k j : SlotId) (t : Slot) (h : ¬(e = c ∧ j = k)) :
    (s.setSlot c k t).slot e j = s.slot e j := by
  by_cases hc : e = c
  · subst hc
    exact State.slot_setSlot_slot s e k j t fun hj => h ⟨rfl, hj⟩
  · exact State.slot_setSlot_core s c e k j t hc

namespace State.SlotOnly

theorem of_modMe (s : State) (f : Slot → Slot) : s.SlotOnly (s.modMe f) where
  cur := rfl
  mem := rfl
  memEmpty := rfl
  core c := State.core_setSlot s _ c _ _
  others c k := State.slot_setSlot_other s _ c _ k _

theorem of_post (s : State) (e : Instr) (a : EventArgs) (n : Nat) : s.SlotOnly (s.post e a n) where
  cur := rfl
  mem := rfl
  memEmpty := rfl
  core _ := rfl
  others _ _ _ := rfl

variable {s t u : State}

theorem trans (h : s.SlotOnly t) (k : t.SlotOnly u) : s.SlotOnly u where
  cur := k.cur.trans h.cur
  mem := k.mem.trans h.mem
  memEmpty := k.memEmpty.trans h.memEmpty
  core c := by rw [k.core c, h.core c]
  others c j hj := (k.others c j (by rwa [h.cur])).trans (h.others c j hj)

theorem of_past (s : State) (n : Word) : s.SlotOnly (s.past n) := of_modMe s _

theorem of_wrotePending (s : State) (d : BitVec 5) (w : Word) : s.SlotOnly (s.wrotePending d w) :=
  (((of_modMe s _).trans (of_modMe _ _)).trans (of_post _ _ _ _)).trans (of_past _ _)

theorem mail_eq (h : s.SlotOnly t) (c : CoreId) : (t.core c).mail = (s.core c).mail := by rw [h.core c]

theorem keepsEngines (h : s.SlotOnly t) : s.keepsEngines t := by
  unfold State.keepsEngines State.myCore
  rw [h.cur, h.core s.cur.core]
  exact ⟨rfl, rfl, rfl⟩

theorem readLoc_eq (h : s.SlotOnly t) (l : WordLoc) (n : Nat) : t.readLoc l n = s.readLoc l n := by
  have spad (q : Core) (v : Vector Slot 16) (o : Nat) : ({ q with slots := v } : Core).spadRead o n = q.spadRead o n := by
    induction n generalizing o with
    | zero => rfl
    | succ n ih => rw [Core.spadRead, Core.spadRead, ih]; rfl
  cases l with
  | mem a => simp only [State.readLoc, State.memRead, h.mem]
  | spad c o => rw [State.readLoc, h.core c, spad]; rfl
  | mail c b k => simp only [State.readLoc, h.mail_eq c]

theorem keepsBytes (h : s.SlotOnly t) : s.keepsBytes t := ⟨fun l => h.readLoc_eq l 1, h.mail_eq⟩

theorem keepsFull (h : s.SlotOnly t) : s.keepsFull t := by
  intro l
  cases l with
  | mem a => simp only [State.isFull, State.memFull, h.memEmpty]
  | spad c o => rw [State.isFull, h.core c]; rfl
  | mail c b k => simp only [State.isFull, h.mail_eq c]

end State.SlotOnly

end Sys2Proof.Machine
end

section
/-!
PROOFS. The acting slot after a result that is pending (R133).
-/
namespace Sys2Proof.Machine

theorem someOf_append {α : Type} (p : α → Bool) (l r : List α) : someOf p (l ++ r) = (someOf p l || someOf p r) := by
  induction l with
  | nil => rfl
  | cons a l ih => rw [List.cons_append, someOf, someOf, ih, Bool.or_assoc]

/-- A register other than `x0` whose result has been launched is pending. -/
theorem Slot.isPending_of_last {t : Slot} {d : BitVec 5} {l : List Flight} {f : Flight} (hd : d ≠ 0#5)
    (ht : t.flights = l ++ [f]) (hf : f.reg = .x d) : t.isPending (.x d) = true := by
  simp [Slot.isPending, ht, someOf_append, someOf, hf, hd]

namespace State

theorem me_wrotePending (s : State) (d : BitVec 5) (w : Word) :
    (s.wrotePending d w).me = { (s.me.setX d w).launchFlight (.x d) false none with pc := s.me.pc + 4 } := by
  simp [State.wrotePending, State.past]

variable (s : State) (d : BitVec 5) (w : Word)

theorem getX_wrotePending (r : BitVec 5) : (s.wrotePending d w).me.getX r = (s.me.setX d w).getX r := by
  rw [me_wrotePending]
  rfl

theorem pc_wrotePending : (s.wrotePending d w).me.pc = s.me.pc + 4 := by rw [me_wrotePending]

theorem getX_wrotePending_same : (s.wrotePending d w).me.getX d = if d = 0 then 0 else w := by
  rw [getX_wrotePending]
  split
  case isTrue h => rw [h]; exact Slot.getX_zero _
  case isFalse h => exact Slot.getX_setX _ _ _ h

theorem isPending_wrotePending (h : d ≠ 0) : (s.wrotePending d w).me.isPending (.x d) = true := by
  rw [me_wrotePending]
  exact Slot.isPending_of_last h (Slot.launchFlight_flights _ _ _ _) rfl

theorem keepsX_wrotePending : s.keepsX [d] (s.wrotePending d w) := by
  intro r hr
  rw [getX_wrotePending]
  exact Slot.getX_setX_other _ _ _ _ (List.ne_of_not_mem_cons hr)

/-- A pending result leaves every register, flag and special register but its own as it was. -/
theorem keepsRest_wrotePending : s.keepsRest (s.wrotePending d w) := by
  have frame := SlotOnly.of_wrotePending s d w
  refine ⟨?_, ?_, ?_, ?_, ?_, frame.keepsEngines, frame.others⟩
  · simp [keepsV, Slot.getV, me_wrotePending]
  · simp [keepsM, Slot.getM, me_wrotePending]
  · simp [keepsL, Slot.getL, me_wrotePending]
  · simp [me_wrotePending]
  · simp [keepsSpecial, me_wrotePending]

end State

end Sys2Proof.Machine
end

section
/-!
PROOFS. The scalar forms (R137 to R139, R141).
-/
namespace Sys2Proof

open Sys2Proof.Machine

/-- Settles O10: every form has the body of one register, and its row's value is the model's operation read as arithmetic. -/
theorem immediateForms : Obligations.ImmediateForms := by
  unfold Obligations.ImmediateForms
  intro s d a i h
  refine ⟨fun hi => ?_, fun hi => ?_, fun hi => ?_, fun hi => ?_, fun hi => ?_, fun hi => ?_, fun hi => ?_, fun hi => ?_, fun hi => ?_⟩
  · exact exec_of_unary (exec_addi ..) rfl hi rfl
  · exact exec_of_unary (exec_slti ..) rfl hi (by rw [flag_slt, toInt_sext])
  · exact exec_of_unary (exec_sltni ..) rfl hi (flag_ult _ _)
  · exact exec_of_unary (exec_xori ..) rfl hi rfl
  · exact exec_of_unary (exec_ori ..) rfl hi rfl
  · exact exec_of_unary (exec_andi ..) rfl hi rfl
  · exact exec_of_unary (exec_slli ..) rfl hi (shiftLeft_eq_ofNat _ _)
  · exact exec_of_unary (exec_srli ..) rfl hi (ushiftRight_eq_ofNat _ _)
  · exact exec_of_unary (exec_srai ..) rfl hi (sshiftRight_eq_ofInt _ _)

/-- Settles O11: as O10, with the two scans for the first 1 bit, the sum of the bits and the bytes taken from the other end. -/
theorem unaryForms : Obligations.UnaryForms := by
  unfold Obligations.UnaryForms
  intro s d a
  refine ⟨fun hi => ?clz, fun hi => ?ctz, fun hi => ?popc, fun hi => ?sextw, fun hi => ?zextw, fun hi => ?rev8⟩
  case clz =>
    obtain ⟨hle, hzero, hone⟩ := leadingZeros_spec (s.me.getX a) 64
    exact ⟨_, hle, exec_of_unary (exec_clz ..) rfl hi rfl, hzero, hone⟩
  case ctz =>
    obtain ⟨hle, hzero, hone⟩ := trailingZeros_spec (s.me.getX a) 0 64
    simp only [Nat.zero_add] at hzero hone
    exact ⟨_, hle, exec_of_unary (exec_ctz ..) rfl hi rfl, hzero, hone⟩
  case popc => exact exec_of_unary (exec_popc ..) rfl hi (by rw [popCount_eq_countP])
  case sextw => exact exec_of_unary (exec_sextw ..) rfl hi (congrArg sext (bits_low_word _))
  case zextw => exact exec_of_unary (exec_zextw ..) rfl hi (congrArg zext (bits_low_word _))
  case rev8 => exact ⟨_, exec_of_unary (exec_rev8 ..) rfl hi rfl, reverseBytes_byte _⟩

/-- Settles O12: every form has the body of two registers, and its row's value is the model's operation read as arithmetic. -/
theorem registerForms : Obligations.RegisterForms := by
  unfold Obligations.RegisterForms
  intro s d a b
  refine ⟨fun hi => ?_, fun hi => ?_, fun hi => ?_, fun hi => ?_, fun hi => ?_, fun hi => ?_, fun hi => ?_, fun hi => ?_, fun hi => ?_,
    fun hi => ?_, fun hi => ?_, fun hi => ?_, fun hi => ?_, fun hi => ?_, fun hi => ?_, fun hi => ?_⟩
  · exact exec_of_binary (exec_add ..) rfl hi rfl
  · exact exec_of_binary (exec_sub ..) rfl hi rfl
  · exact exec_of_binary (exec_sll ..) rfl hi (shiftLeft_eq_ofNat _ _)
  · exact exec_of_binary (exec_slt ..) rfl hi (flag_slt _ _)
  · exact exec_of_binary (exec_sltn ..) rfl hi (flag_ult _ _)
  · exact exec_of_binary (exec_xor ..) rfl hi rfl
  · exact exec_of_binary (exec_srl ..) rfl hi (ushiftRight_eq_ofNat _ _)
  · exact exec_of_binary (exec_sra ..) rfl hi (sshiftRight_eq_ofInt _ _)
  · exact exec_of_binary (exec_or ..) rfl hi rfl
  · exact exec_of_binary (exec_and ..) rfl hi rfl
  · exact exec_of_binary (exec_orn ..) rfl hi rfl
  · exact exec_of_binary (exec_andn ..) rfl hi rfl
  · exact exec_of_binary (exec_min ..) rfl hi (ite_slt_eq_min _ _)
  · exact exec_of_binary (exec_max ..) rfl hi (ite_slt_eq_max _ _)
  · exact exec_of_binary (exec_minn ..) rfl hi (ite_ult_eq_min _ _)
  · exact exec_of_binary (exec_maxn ..) rfl hi (ite_ult_eq_max _ _)

/-- Settles O13: every form has the body of a late result, whose frame does not depend on the value, and its value is that of R141 or R18. -/
theorem multiplyDivide : Obligations.MultiplyDivide := by
  unfold Obligations.MultiplyDivide
  intro s d a b i w hmem hi
  have hexec : exec i s = .next (s.wrotePending d w) := by
    simp only [List.mem_cons, List.not_mem_nil, or_false, Prod.mk.injEq] at hmem
    obtain ⟨rfl, rfl⟩ | ⟨rfl, rfl⟩ | ⟨rfl, rfl⟩ | ⟨rfl, rfl⟩ | ⟨rfl, rfl⟩ | ⟨rfl, rfl⟩ | ⟨rfl, rfl⟩ := hmem
    · exact exec_of_slow (exec_mul ..) rfl hi (mul_eq_ofInt _ _)
    · exact exec_of_slow (exec_mulh ..) rfl hi (mulHigh_eq_ofInt _ _)
    · exact exec_of_slow (exec_mulhn ..) rfl hi (mulHighN_eq_ofNat _ _)
    · exact exec_of_slow (exec_div ..) rfl hi (quotient_eq_ofInt _ _)
    · exact exec_of_slow (exec_divn ..) rfl hi (quotientN_eq_ofNat _ _)
    · exact exec_of_slow (exec_rem ..) rfl hi (remainder_eq_ofInt _ _)
    · exact exec_of_slow (exec_remn ..) rfl hi (remainderN_eq_ofNat _ _)
  have frame := State.SlotOnly.of_wrotePending s d w
  exact ⟨_, hexec, s.getX_wrotePending_same d w, s.isPending_wrotePending d w, s.pc_wrotePending d w, s.keepsX_wrotePending d w,
    s.keepsRest_wrotePending d w, frame.keepsBytes, frame.keepsFull⟩

end Sys2Proof
end
